-- ==== Sys2Proof/Word.lean ====
section
/-! DEFINITION. The word types of the Ryuvik K24 (R11): nothing but their widths. -/

namespace Sys2Proof

/-- A general register, a special register, a doubleword (R11). -/
abbrev Word := BitVec 64

/-- One byte of a memory. -/
abbrev Byte := BitVec 8

/-- A vector register (R11, R12). -/
abbrev VReg := BitVec 1024

/-- A predicate register (R11). -/
abbrev Pred := BitVec 32

/-- A 5-bit register field (R61). -/
abbrev Reg := BitVec 5

/-- A 3-bit predicate field (R61). -/
abbrev KReg := BitVec 3

end Sys2Proof
end

