-- ==== Sys2Proof/Syntax.lean ====
section
/-! DEFINITION. The instructions of the Ryuvik K24, one constructor for each row of spec/opcode_table.json: the 230
rows with a 32-bit encoding (R61 to R72), then the 86 rows that name steps of other agents (spec/95).
An operand field is a bit vector of the width the encoding gives it; a selecting field is a set of names. -/

namespace Sys2Proof

/-- Precision of a scalar floating-point instruction (R66: p = 0 .S, 1 .D). -/
inductive Prec | s | d
  deriving DecidableEq, Repr

/-- Lane width of VALU (R66: 00 .32, 01 .16, 10 .8). -/
inductive LaneW | w32 | w16 | w8
  deriving DecidableEq, Repr

/-- Element type of VFP (R66: 00 .F32, 01 .BF16, 10 .F16). -/
inductive FTy | f32 | bf16 | f16
  deriving DecidableEq, Repr

/-- Type of VRED and VSCATADD (R66, R135). -/
inductive RTy | i32 | f32
  deriving DecidableEq, Repr

/-- Width code of VBCAST, VEXTR, VINS (R124: 0 .32, 1 .16, 2 .8, 3 .64). -/
inductive PermW | w32 | w16 | w8 | w64
  deriving DecidableEq, Repr

/-- Input class of an arrival at a network interface (R172). -/
inductive ArrClass | loopb | reply | req
  deriving DecidableEq, Repr

/-- A memory target outside the compute dies, which has a link-up count (R244). -/
inductive LinkTarget
  | edgeDie (d : Nat)
  | hostFn (f : Nat)
  | remote (m : Nat)
  deriving DecidableEq, Repr

/-- The structure in which an uncorrectable error falls, with its place (R373); `saved` for what the save area of a domain that is out, or a
spill ring of it, holds of the same structure (R392). -/
inductive ErrUnit
  | queueSlot (t q i : Nat)
  | matchEntry (t i : Nat)
  | counter (t n : Nat)
  | context (t c : Nat)
  | fifoEntry (t p i : Nat)
  | flit (n : Nat)
  | streamState (e i : Nat)
  | sequencer (t : Nat) (queued : Bool)
  | sacOperation (t : Nat)
  | killEntry (t i : Nat)
  | barval (t : Nat)
  | paneRecord (t p : Nat)
  | paneData (t addr : Nat)
  | cacheDirty (die line : Nat)
  | cacheClean (die line : Nat)
  | tlbEntry (t i : Nat)
  | handlerEntry (t i : Nat)
  | memoryData (pa : Nat)
  | sState (t : Nat)
  | serviceBuffer (t : Nat)
  | dieState (d : Nat)
  | spillEntry (t q i : Nat)
  | areaEntry (t i : Nat)
  | fabricFrame (p i : Nat)
  | saved (dom : Nat) (u : ErrUnit)
  | damagedCol (dom : Nat)
  deriving DecidableEq, Repr

/-- A corrected error (R373): the die on which it was corrected, and its array class (R455). -/
structure Corrected where
  die : Nat
  cls : Nat
  deriving DecidableEq, Repr

/-- What a die's boot finds (R444, R445): the DMC and S firmware images, their signatures and version numbers, and the results of its
self-test. -/
structure Boot where
  dmcImage : List Byte
  dmcSig : List Byte
  dmcVersion : Nat
  sImage : List Byte
  sSig : List Byte
  sVersion : Nat
  selfTest : Bool
  badTiles : List Nat
  badStacks : List Nat
  deriving DecidableEq, Repr

/-- A launch record as the host writes it (R440): eight doublewords, and whether it came as one aligned posted write. -/
structure LaunchRec where
  dws : List Word
  whole : Bool
  deriving DecidableEq, Repr

/-- One section of a ZOC file with its table entry (R80). -/
structure Section where
  typ : Nat
  align : Nat
  first : Nat
  last : Nat
  offset : Nat
  size : Nat
  addr : Nat
  data : List Byte
  deriving DecidableEq, Repr

/-- A relocation (R77, R87): the section, byte offset, lowest bit and width of a field, the section or region whose address it takes (sections
first, then the regions), and what is added to it.  The manual gives a relocation no bytes (log 35). -/
structure Reloc where
  sect : Nat
  off : Nat
  lsb : Nat
  width : Nat
  base : Nat
  add : Int
  deriving DecidableEq, Repr

/-- A ZOC file (R79): its header fields, its sections, and the bytes the digest covers; and what its source gives that no section holds (R77,
R416; log 35): the shape of the job, the `rnsch` attribute if there is one, of each region whether it is of tier LPDDR and of 256 MB
pages, and the relocations. -/
structure Container where
  magic : Nat
  version : Nat
  flags : Nat
  nsect : Nat
  reserved : Nat
  covered : Nat
  digest : BitVec 256
  body : List Byte
  sections : List Section
  relocs : List Reloc
  rnsch : Option Word
  width : Nat
  height : Nat
  regions : List (Bool × Bool)
  deriving DecidableEq, Repr

/-- The instructions and steps of spec/opcode_table.json. -/
inductive Instr
  | add (d a b : Reg)  -- R90
  | sub (d a b : Reg)  -- R90
  | and (d a b : Reg)  -- R90
  | or (d a b : Reg)  -- R90
  | xor (d a b : Reg)  -- R90
  | sll (d a b : Reg)  -- R90
  | srl (d a b : Reg)  -- R90
  | sra (d a b : Reg)  -- R90
  | slt (d a b : Reg)  -- R90
  | sltu (d a b : Reg)  -- R90
  | min (d a b : Reg)  -- R90
  | max (d a b : Reg)  -- R90
  | addw (d a b : Reg)  -- R90
  | subw (d a b : Reg)  -- R90
  | mul (d a b : Reg)  -- R91
  | mulh (d a b : Reg)  -- R91
  | mulhu (d a b : Reg)  -- R91
  | div (d a b : Reg)  -- R91
  | divu (d a b : Reg)  -- R91
  | rem (d a b : Reg)  -- R91
  | remu (d a b : Reg)  -- R91
  | clz (d a : Reg)  -- R92
  | ctz (d a : Reg)  -- R92
  | popc (d a : Reg)  -- R92
  | brev (d a : Reg)  -- R92
  | bswap (d a : Reg)  -- R92
  | addi (d a : Reg) (i : BitVec 16)  -- R93
  | andi (d a : Reg) (i : BitVec 16)  -- R93
  | ori (d a : Reg) (i : BitVec 16)  -- R93
  | xori (d a : Reg) (i : BitVec 16)  -- R93
  | slti (d a : Reg) (i : BitVec 16)  -- R93
  | slli (d a : Reg) (s : BitVec 6)  -- R94
  | srli (d a : Reg) (s : BitVec 6)  -- R94
  | srai (d a : Reg) (s : BitVec 6)  -- R94
  | exts (d a : Reg) (p l : BitVec 6)  -- R94
  | extz (d a : Reg) (p l : BitVec 6)  -- R94
  | ins (d a : Reg) (p l : BitVec 6)  -- R94
  | li (d : Reg) (i : BitVec 21)  -- R95
  | lim (d : Reg) (i : BitVec 21)  -- R95
  | addpc (d : Reg) (i : BitVec 21)  -- R95
  | beq (a b : Reg) (o : BitVec 16)  -- R97
  | bne (a b : Reg) (o : BitVec 16)  -- R97
  | blt (a b : Reg) (o : BitVec 16)  -- R97
  | bge (a b : Reg) (o : BitVec 16)  -- R97
  | bltu (a b : Reg) (o : BitVec 16)  -- R97
  | bgeu (a b : Reg) (o : BitVec 16)  -- R97
  | j (o : BitVec 26)  -- R98
  | call (o : BitVec 26)  -- R98
  | jr (a : Reg)  -- R99
  | callr (a : Reg)  -- R99
  | sel (d a b c : Reg)  -- R101
  | ldb (d a : Reg) (o : BitVec 13)  -- R102
  | ldbu (d a : Reg) (o : BitVec 13)  -- R102
  | ldh (d a : Reg) (o : BitVec 13)  -- R102
  | ldhu (d a : Reg) (o : BitVec 13)  -- R102
  | ldw (d a : Reg) (o : BitVec 13)  -- R102
  | ldwu (d a : Reg) (o : BitVec 13)  -- R102
  | ldd (d a : Reg) (o : BitVec 13)  -- R102
  | stb (s a : Reg) (o : BitVec 13)  -- R103
  | sth (s a : Reg) (o : BitVec 13)  -- R103
  | stw (s a : Reg) (o : BitVec 13)  -- R103
  | std (s a : Reg) (o : BitVec 13)  -- R103
  | fadd (d a b : Reg) (p : Prec)  -- R106
  | fsub (d a b : Reg) (p : Prec)  -- R106
  | fmul (d a b : Reg) (p : Prec)  -- R106
  | fdiv (d a b : Reg) (p : Prec)  -- R106
  | fsqrt (d a : Reg) (p : Prec)  -- R106
  | fmin (d a b : Reg) (p : Prec)  -- R107
  | fmax (d a b : Reg) (p : Prec)  -- R107
  | feq (d a b : Reg) (p : Prec)  -- R108
  | flt (d a b : Reg) (p : Prec)  -- R108
  | fle (d a b : Reg) (p : Prec)  -- R108
  | fclass (d a : Reg) (p : Prec)  -- R109
  | fcvtSD (d a : Reg)  -- R110
  | fcvtDS (d a : Reg)  -- R110
  | fcvtWS (d a : Reg)  -- R110
  | fcvtSW (d a : Reg)  -- R110
  | fcvtLD (d a : Reg)  -- R110
  | fcvtDL (d a : Reg)  -- R110
  | fmadd (d a b c : Reg) (p : Prec)  -- R111
  | fmsub (d a b c : Reg) (p : Prec)  -- R111
  | fnmadd (d a b c : Reg) (p : Prec)  -- R111
  | vadd (d a b : Reg) (k : KReg) (w : LaneW) (x : Bool)  -- R116
  | vsub (d a b : Reg) (k : KReg) (w : LaneW) (x : Bool)  -- R116
  | vmul (d a b : Reg) (k : KReg) (w : LaneW) (x : Bool)  -- R116
  | vmulh (d a b : Reg) (k : KReg) (w : LaneW) (x : Bool)  -- R116
  | vand (d a b : Reg) (k : KReg) (w : LaneW) (x : Bool)  -- R116
  | vor (d a b : Reg) (k : KReg) (w : LaneW) (x : Bool)  -- R116
  | vxor (d a b : Reg) (k : KReg) (w : LaneW) (x : Bool)  -- R116
  | vshl (d a b : Reg) (k : KReg) (w : LaneW) (x : Bool)  -- R116
  | vshr (d a b : Reg) (k : KReg) (w : LaneW) (x : Bool)  -- R116
  | vsar (d a b : Reg) (k : KReg) (w : LaneW) (x : Bool)  -- R116
  | vmin (d a b : Reg) (k : KReg) (w : LaneW) (x : Bool)  -- R116
  | vmax (d a b : Reg) (k : KReg) (w : LaneW) (x : Bool)  -- R116
  | vfadd (d a b : Reg) (k : KReg) (t : FTy) (x : Bool)  -- R117
  | vfsub (d a b : Reg) (k : KReg) (t : FTy) (x : Bool)  -- R117
  | vfmul (d a b : Reg) (k : KReg) (t : FTy) (x : Bool)  -- R117
  | vfmin (d a b : Reg) (k : KReg) (t : FTy) (x : Bool)  -- R117
  | vfmax (d a b : Reg) (k : KReg) (t : FTy) (x : Bool)  -- R117
  | vfexp2 (d a : Reg) (k : KReg) (t : FTy)  -- R43
  | vflog2 (d a : Reg) (k : KReg) (t : FTy)  -- R43
  | vfrcp (d a : Reg) (k : KReg) (t : FTy)  -- R43
  | vfrsq (d a : Reg) (k : KReg) (t : FTy)  -- R43
  | vfma (d a b c : Reg) (k : KReg)  -- R118
  | vfms (d a b c : Reg) (k : KReg)  -- R118
  | vfnma (d a b c : Reg) (k : KReg)  -- R118
  | vcvt (d a : Reg) (z : Bool) (p : BitVec 2) (k : KReg)  -- R120
  | vqblk (d a : Reg) (p : BitVec 2) (k : KReg)  -- R121
  | vdqblk (d a : Reg) (z : Bool) (p : BitVec 2) (k : KReg)  -- R122
  | vrsum (d a : Reg) (k : KReg) (t : RTy)  -- R123
  | vrmax (d a : Reg) (k : KReg) (t : RTy)  -- R123
  | vrmin (d a : Reg) (k : KReg) (t : RTy)  -- R123
  | vscan (d a : Reg) (k : KReg) (t : RTy)  -- R123
  | vbcast (d a : Reg) (z : Bool) (w : PermW) (k : KReg)  -- R125
  | vextr (d a b : Reg) (w : PermW)  -- R125
  | vins (d a b : Reg) (w : PermW)  -- R125
  | vperm (d a b : Reg) (k : KReg)  -- R125
  | vslide (d a : Reg) (s : BitVec 5) (k : KReg)  -- R125
  | vsel (d a b : Reg) (k : KReg)  -- R125
  | vcmpEq (d a b : Reg) (k : KReg)  -- R127
  | vcmpNe (d a b : Reg) (k : KReg)  -- R127
  | vcmpLt (d a b : Reg) (k : KReg)  -- R127
  | vcmpLe (d a b : Reg) (k : KReg)  -- R127
  | vcmpLtu (d a b : Reg) (k : KReg)  -- R127
  | vcmpLeu (d a b : Reg) (k : KReg)  -- R127
  | vfcmpEq (d a b : Reg) (k : KReg)  -- R127
  | vfcmpLt (d a b : Reg) (k : KReg)  -- R127
  | vfcmpLe (d a b : Reg) (k : KReg)  -- R127
  | vfcmpUn (d a b : Reg) (k : KReg)  -- R127
  | kand (d a b : Reg)  -- R127
  | kor (d a b : Reg)  -- R127
  | kxor (d a b : Reg)  -- R127
  | kandn (d a b : Reg)  -- R127
  | kmovToG (d a : Reg)  -- R127
  | kmovFromG (d a : Reg)  -- R127
  | kpopc (d a : Reg)  -- R127
  | vaddc (d a b : Reg) (c : KReg)  -- R128
  | vsubb (d a b : Reg) (c : KReg)  -- R128
  | vrnsf (d a b : Reg) (k : KReg)  -- R129
  | vrnsr (d a b : Reg) (k : KReg)  -- R131
  | vld (v a : Reg) (k : KReg) (o : BitVec 5)  -- R135
  | vst (v a : Reg) (k : KReg) (o : BitVec 5)  -- R135
  | vlds (v a b : Reg) (k : KReg) (o : BitVec 5)  -- R135
  | vsts (v a b : Reg) (k : KReg) (o : BitVec 5)  -- R135
  | vldx (v a b : Reg) (k : KReg) (o : BitVec 5)  -- R135
  | vstx (v a b : Reg) (k : KReg) (o : BitVec 5)  -- R135
  | vscatadd (v a b : Reg) (k : KReg) (t : RTy)  -- R138
  | fmtx (a b : BitVec 4) (c : BitVec 3) (s : BitVec 2) (r : BitVec 3) (t : Bool) (d : BitVec 4)  -- R69
  | gets (d : Reg) (n : BitVec 12)  -- R395
  | sets (s : Reg) (n : BitVec 12)  -- R395
  | brk (c : BitVec 12)  -- R395
  | send (v : Bool) (a b : Reg) (n : BitVec 5)  -- R187
  | reply (v : Bool) (a b : Reg) (n : BitVec 5)  -- R187
  | fwd (a : Reg) (n : Bool)  -- R190
  | endAct  -- R191
  | defer  -- R192
  | tgget (d : Reg) (f : BitVec 5)  -- R193
  | tgset (a : Reg) (f : BitVec 5)  -- R193
  | tginc (a : Reg) (i f : BitVec 5)  -- R193
  | tgpush (a : Reg)  -- R193
  | tgpop (d : Reg)  -- R193
  | tgnew (d : Reg)  -- R194
  | qget (d : Reg) (m : BitVec 5) (n : BitVec 2)  -- R195
  | qput (a : Reg) (m : Bool) (n : BitVec 2)  -- R196
  | qpoll (d : Reg) (n : BitVec 2)  -- R197
  | mrtn  -- R198
  | cntadd (a b : Reg) (i : BitVec 5)  -- R200
  | cntset (a b c : Reg)  -- R201
  | cntget (d a : Reg)  -- R202
  | barjoin (a b c : Reg)  -- R204
  | barval (d : Reg) (g : BitVec 4)  -- R207
  | gldb (d a : Reg) (o : BitVec 13)  -- R266
  | gldbu (d a : Reg) (o : BitVec 13)  -- R266
  | gldh (d a : Reg) (o : BitVec 13)  -- R266
  | gldhu (d a : Reg) (o : BitVec 13)  -- R266
  | gldw (d a : Reg) (o : BitVec 13)  -- R266
  | gldwu (d a : Reg) (o : BitVec 13)  -- R266
  | gldd (d a : Reg) (o : BitVec 13)  -- R266
  | gldv (v a : Reg) (o : BitVec 13)  -- R267
  | gstb (s a : Reg) (o : BitVec 13)  -- R268
  | gsth (s a : Reg) (o : BitVec 13)  -- R268
  | gstw (s a : Reg) (o : BitVec 13)  -- R268
  | gstd (s a : Reg) (o : BitVec 13)  -- R268
  | gatomAdd (d a b : Reg)  -- R270
  | gatomCas (d a b : Reg)  -- R270
  | gatomSwap (d a b : Reg)  -- R270
  | gatomMax (d a b : Reg)  -- R270
  | gatomMin (d a b : Reg)  -- R270
  | gatomFxadd (a b : Reg)  -- R58
  | gatomFxrd (d a : Reg) (p : Prec)  -- R59
  | acq (d a b c : Reg)  -- R273
  | rel (a b : Reg)  -- R274
  | fenceLocal  -- R261
  | fencePut  -- R261
  | fenceDie  -- R261
  | fenceModule  -- R261
  | btld (d a b : Reg)  -- R278
  | btswap (d a b : Reg)  -- R279
  | btref (d a b : Reg)  -- R280
  | get (t a b c : Reg)  -- R330
  | put (t a b c : Reg)  -- R330
  | getx (t a b c : Reg)  -- R331
  | putx (t a b c : Reg)  -- R331
  | ratomAdd (t a b : Reg)  -- R332
  | ratomCas (t a b : Reg)  -- R332
  | ratomSwap (t a b : Reg)  -- R332
  | ratomMax (t a b : Reg)  -- R332
  | ratomMin (t a b : Reg)  -- R332
  | ratomFxadd (t a b : Reg)  -- R332
  | ratomFxrd (t a b : Reg)  -- R332
  | ratomSubst (t a b : Reg)  -- R332
  | give (a : Reg) (o : BitVec 5)  -- R334
  | take (a : Reg)  -- R335
  | ttest (d a : Reg)  -- R336
  | mmrun (t a b : Reg)  -- R339
  | mmstat (d : Reg)  -- R343
  | slotld (a b : Reg)  -- R338
  | sego (t a b : Reg)  -- R344
  | sestat (d a : Reg)  -- R348
  | sacp (t a b c : Reg)  -- R322
  | sacc (t a b c : Reg)  -- R324
  | tret (d a b : Reg)  -- R399
  | tlbwr (d a b : Reg)  -- R400
  | tlbinv (d a b : Reg)  -- R401
  | domkill (a : Reg)  -- R402
  | colkill (a : Reg)  -- R402
  | gangsw (d a b : Reg)  -- R403
  | logctl (d a b : Reg)  -- R404
  | halt (a : Reg)  -- R405
  | loopb (k r : Bool) (a : Reg)  -- R406
  -- The steps of the table that other agents make (spec/95): they have no bits.  `t` is a tile address, `c` a context.
  | colourAllocatorAnswer (t c : Nat)  -- R194
  | storeQueuePerform (t c : Nat)  -- R268
  | messageArrival (t : Nat) (cls : ArrClass)  -- R153
  | voteTimeout (t i : Nat)  -- R384
  | spillRefill (t q : Nat)  -- R157
  | matchOverflowService (t : Nat)  -- R161
  | timerTick (t : Nat)  -- R164
  | dispatch (t : Nat)  -- R166
  | barrierJoinArrival (t : Nat)  -- R203
  | barrierCompletion (t : Nat)  -- R205
  | translationRequest (t c : Nat)  -- R228
  | tlbFill (t : Nat) (entry : BitVec 128)  -- R228, R400
  | tlbFaultAnswer (t : Nat) (va : Word) (prot : Bool)  -- R228
  | dupCollapse (t c : Nat)  -- R230
  | copyOnWrite (t c : Nat)  -- R231
  | btCopyOnWrite (t c : Nat)  -- R240
  | rmaPortOperation (t : Nat)  -- R292
  | rmaCompletion (t n : Nat)  -- R293
  | mmrunAccept (t : Nat)  -- R305
  | marimbaBlockAccumulate (t : Nat)  -- R310
  | marimbaRunComplete (t : Nat)  -- R311
  | streamProgramStart (t : Nat)  -- R295
  | streamProgramEnd (e : Nat)  -- R298
  | sacAccept (t : Nat)  -- R320
  | sacComplete (t : Nat)  -- R323
  | slotPhaseSwitch (t : Nat)  -- R338
  | trapDelivery (t c : Nat)  -- R366
  | serviceVerdict (t : Nat)  -- R370
  | doubleFault (t : Nat)  -- R371
  | uncorrectableError (u : ErrUnit)  -- R373
  | correctedError (e : Corrected)  -- R373
  | colourKillArrival (t dom col cause start : Nat)  -- R375
  | colourReclaimSweep (dom : Nat)  -- R379
  | domainKill (dom cause : Nat)  -- R381
  | channelRemap (t u : Nat)  -- R317
  | dieViral (d : Nat)  -- R385
  | dieFence (d : Nat)  -- R385
  | dieResetInPlace (d : Nat) (b : Boot)  -- R386
  | gongStop (dom : Nat)  -- R387
  | gangSwitch (dom : Nat)  -- R388
  | gangResume (dom : Nat)  -- R391
  | linkUp (x : LinkTarget)  -- R244
  | forzenFrame (port : Nat) (good : Bool)  -- R431
  | linkRetrain (port : Nat) (x4 : Bool)  -- R431
  | pathDown (m : Nat)  -- R432
  | dropNotice (n : Nat)  -- R433
  | reservationGrant (m start rate : Nat)  -- R434
  | multicastStore (g off : Nat) (data : List Byte)  -- R435
  | federatedColourKill (dom col cause start : Nat)  -- R436
  | federationModuleLoss (dom m : Nat)  -- R437
  | launchRecord (f : Nat) (r : LaunchRec)  -- R440
  | hostReturnRecord  -- R442
  | rsizeWrite (f : Nat) (v : Word)  -- R439
  | rlostWrite (f : Nat)  -- R439
  | debugStop (f : Nat)  -- R439
  | debugResume (f : Nat)  -- R439
  | debugKill (f : Nat)  -- R439
  | hostRegisterWrite (f off : Nat) (v : Word)  -- R439
  | readConfig  -- R449
  | setMod (m : Nat)  -- R448
  | bindFn (f : Nat) (dom : Option Nat)  -- R448
  | setKeys (dom : Nat) (keys : List (BitVec 256)) (req : Bool)  -- R450
  | quote (nonce : BitVec 256)  -- R447
  | readCert  -- R446
  | readLifetime  -- R455
  | setCap (kw : Nat)  -- R453
  | containerLoad (f dom : Nat) (z : Container)  -- R87
  | moduleReset (boots : List Boot)  -- R444
  | avsWindowEnd (d temp : Nat) (thresholds : List (Nat × Nat))  -- R451, R452
  | powerCapStep (watts : Nat)  -- R453
  | lifetimeCommit (down failed : Bool)  -- R454
  | notAnInstruction (w : BitVec 32)  -- R68
  | instructionFetch  -- R21
  | pendingWrite (t : Nat)  -- R89
  | globalAnswerReturn (t c : Nat)  -- R266
  | btServiceAnswer (t c : Nat)  -- R277
  | engineAnswer (t c : Nat)  -- R348
  | gongRootAnswer (t c : Nat)  -- R403
  | packetHop (n : Nat)  -- R170
  | reservationIdle (m : Nat)  -- R434
  | linkFailure (x : LinkTarget)  -- R245
  | stackFailure (s : Nat)  -- R457
  | multicastGroupRegistration (g root dom base size : Nat) (members : List Nat)  -- R435
  | federationRegistration (dom : Nat) (mods : List Nat)  -- R428
  | jobLeaves (dom : Nat)  -- R139
  | singleTileReplay (t dom : Nat)  -- R394
  deriving DecidableEq, Repr

/-- A step of another agent, as State holds it while it is pending: the last 86 rows of the table but for the two
that issue makes itself (a word that is no instruction, a failed fetch).  `Instr` has a constructor of the same name
for each; this type stands beside it because Lean's compiler gives a type at most 244 constructors with fields that
compiled code may build, and the state must stay computable. -/
inductive Event
  | colourAllocatorAnswer (t c : Nat)
  | storeQueuePerform (t c : Nat)
  | messageArrival (t : Nat) (cls : ArrClass)
  | voteTimeout (t i : Nat)
  | spillRefill (t q : Nat)
  | matchOverflowService (t : Nat)
  | timerTick (t : Nat)
  | dispatch (t : Nat)
  | barrierJoinArrival (t : Nat)
  | barrierCompletion (t : Nat)
  | translationRequest (t c : Nat)
  | tlbFill (t : Nat) (entry : BitVec 128)
  | tlbFaultAnswer (t : Nat) (va : Word) (prot : Bool)
  | dupCollapse (t c : Nat)
  | copyOnWrite (t c : Nat)
  | btCopyOnWrite (t c : Nat)
  | rmaPortOperation (t : Nat)
  | rmaCompletion (t n : Nat)
  | mmrunAccept (t : Nat)
  | marimbaBlockAccumulate (t : Nat)
  | marimbaRunComplete (t : Nat)
  | streamProgramStart (t : Nat)
  | streamProgramEnd (e : Nat)
  | sacAccept (t : Nat)
  | sacComplete (t : Nat)
  | slotPhaseSwitch (t : Nat)
  | trapDelivery (t c : Nat)
  | serviceVerdict (t : Nat)
  | doubleFault (t : Nat)
  | uncorrectableError (u : ErrUnit)
  | correctedError (e : Corrected)
  | colourKillArrival (t dom col cause start : Nat)
  | colourReclaimSweep (dom : Nat)
  | domainKill (dom cause : Nat)
  | channelRemap (t u : Nat)
  | dieViral (d : Nat)
  | dieFence (d : Nat)
  | dieResetInPlace (d : Nat) (b : Boot)
  | gongStop (dom : Nat)
  | gangSwitch (dom : Nat)
  | gangResume (dom : Nat)
  | linkUp (x : LinkTarget)
  | forzenFrame (port : Nat) (good : Bool)
  | linkRetrain (port : Nat) (x4 : Bool)
  | pathDown (m : Nat)
  | dropNotice (n : Nat)
  | reservationGrant (m start rate : Nat)
  | multicastStore (g off : Nat) (data : List Byte)
  | federatedColourKill (dom col cause start : Nat)
  | federationModuleLoss (dom m : Nat)
  | launchRecord (f : Nat) (r : LaunchRec)
  | hostReturnRecord
  | rsizeWrite (f : Nat) (v : Word)
  | rlostWrite (f : Nat)
  | debugStop (f : Nat)
  | debugResume (f : Nat)
  | debugKill (f : Nat)
  | hostRegisterWrite (f off : Nat) (v : Word)
  | readConfig
  | setMod (m : Nat)
  | bindFn (f : Nat) (dom : Option Nat)
  | setKeys (dom : Nat) (keys : List (BitVec 256)) (req : Bool)
  | quote (nonce : BitVec 256)
  | readCert
  | readLifetime
  | setCap (kw : Nat)
  | containerLoad (f dom : Nat) (z : Container)
  | moduleReset (boots : List Boot)
  | avsWindowEnd (d temp : Nat) (thresholds : List (Nat × Nat))
  | powerCapStep (watts : Nat)
  | lifetimeCommit (down failed : Bool)
  | pendingWrite (t : Nat)
  | globalAnswerReturn (t c : Nat)
  | btServiceAnswer (t c : Nat)
  | engineAnswer (t c : Nat)
  | gongRootAnswer (t c : Nat)
  | packetHop (n : Nat)
  | reservationIdle (m : Nat)
  | linkFailure (x : LinkTarget)
  | stackFailure (s : Nat)
  | multicastGroupRegistration (g root dom base size : Nat) (members : List Nat)
  | federationRegistration (dom : Nat) (mods : List Nat)
  | jobLeaves (dom : Nat)
  | singleTileReplay (t dom : Nat)
  deriving DecidableEq, Repr

end Sys2Proof
end

