-- ==== Sys2Proof/Decode.lean ====
section
/-! DEFINITION. Decoding a 32-bit word into the instruction R65 and R66 name, or into the reason it names none
(R68 step 1), and the encoder, both written from the formats of R62 and R63 and the assigned points of R66. -/

namespace Sys2Proof

/-- Why a word names no instruction (R68 step 1): its major is not assigned, its selector is not assigned, or a
field that must be zero is not.  Each traps ILLEGAL_INSTRUCTION. -/
inductive DecodeErr | unassignedMajor | unassignedSelector | nonzeroReserved
  deriving DecidableEq, Repr

/-- The field of `len` bits of a word whose lowest bit is `lo` (R62). -/
abbrev fld (w : BitVec 32) (lo len : Nat) : BitVec len := w.extractLsb' lo len

/-- Precision bit (R66). -/
def Prec.bit : Prec → BitVec 1 | .s => 0#1 | .d => 1#1
/-- Precision of a bit (R66). -/
def precOf (b : BitVec 1) : Prec := if b == 0#1 then .s else .d
/-- Width bits of VALU (R66). -/
def LaneW.bits : LaneW → BitVec 2 | .w32 => 0#2 | .w16 => 1#2 | .w8 => 2#2
/-- Type bits of VFP (R66). -/
def FTy.bits : FTy → BitVec 2 | .f32 => 0#2 | .bf16 => 1#2 | .f16 => 2#2
/-- Type bit of VRED and VSCATADD (R66, R138). -/
def RTy.bit : RTy → BitVec 1 | .i32 => 0#1 | .f32 => 1#1
/-- Type of a bit (R66, R138). -/
def rtyOf (b : BitVec 1) : RTy := if b == 0#1 then .i32 else .f32
/-- Width bits of VBCAST, VEXTR and VINS (R124). -/
def PermW.bits : PermW → BitVec 2 | .w32 => 0#2 | .w16 => 1#2 | .w8 => 2#2 | .w64 => 3#2
/-- Width of two bits (R124). -/
def permWOf (b : BitVec 2) : PermW :=
  if b == 0#2 then .w32 else if b == 1#2 then .w16 else if b == 2#2 then .w8 else .w64
/-- A selecting bit. -/
def boolOf (b : BitVec 1) : Bool := b == 1#1

/-- The instruction, if the fields that must be zero are zero (R65). -/
def rsv (zero : Bool) (i : Instr) : Except DecodeErr Instr := if zero then .ok i else .error .nonzeroReserved

/-- VALU widths: 11 traps (R66). -/
def withLaneW (b : BitVec 2) (k : LaneW → Except DecodeErr Instr) : Except DecodeErr Instr :=
  if b == 0#2 then k .w32 else if b == 1#2 then k .w16 else if b == 2#2 then k .w8 else .error .unassignedSelector

/-- VFP types: 11 traps (R66). -/
def withFTy (b : BitVec 2) (k : FTy → Except DecodeErr Instr) : Except DecodeErr Instr :=
  if b == 0#2 then k .f32 else if b == 1#2 then k .bf16 else if b == 2#2 then k .f16 else .error .unassignedSelector

/-- Major 0x01 (R65, R66). -/
def decAlu (w : BitVec 32) : Except DecodeErr Instr :=
  match fld w 0 8 with
  | 0#8 => rsv (fld w 8 3 == 0) (.add (fld w 21 5) (fld w 16 5) (fld w 11 5))
  | 1#8 => rsv (fld w 8 3 == 0) (.sub (fld w 21 5) (fld w 16 5) (fld w 11 5))
  | 2#8 => rsv (fld w 8 3 == 0) (.and (fld w 21 5) (fld w 16 5) (fld w 11 5))
  | 3#8 => rsv (fld w 8 3 == 0) (.or (fld w 21 5) (fld w 16 5) (fld w 11 5))
  | 4#8 => rsv (fld w 8 3 == 0) (.xor (fld w 21 5) (fld w 16 5) (fld w 11 5))
  | 5#8 => rsv (fld w 8 3 == 0) (.sll (fld w 21 5) (fld w 16 5) (fld w 11 5))
  | 6#8 => rsv (fld w 8 3 == 0) (.srl (fld w 21 5) (fld w 16 5) (fld w 11 5))
  | 7#8 => rsv (fld w 8 3 == 0) (.sra (fld w 21 5) (fld w 16 5) (fld w 11 5))
  | 8#8 => rsv (fld w 8 3 == 0) (.slt (fld w 21 5) (fld w 16 5) (fld w 11 5))
  | 9#8 => rsv (fld w 8 3 == 0) (.sltu (fld w 21 5) (fld w 16 5) (fld w 11 5))
  | 10#8 => rsv (fld w 8 3 == 0) (.min (fld w 21 5) (fld w 16 5) (fld w 11 5))
  | 11#8 => rsv (fld w 8 3 == 0) (.max (fld w 21 5) (fld w 16 5) (fld w 11 5))
  | 12#8 => rsv (fld w 8 3 == 0) (.addw (fld w 21 5) (fld w 16 5) (fld w 11 5))
  | 13#8 => rsv (fld w 8 3 == 0) (.subw (fld w 21 5) (fld w 16 5) (fld w 11 5))
  | _ => .error .unassignedSelector

/-- Major 0x02 (R65, R66). -/
def decMulDiv (w : BitVec 32) : Except DecodeErr Instr :=
  match fld w 0 8 with
  | 0#8 => rsv (fld w 8 3 == 0) (.mul (fld w 21 5) (fld w 16 5) (fld w 11 5))
  | 1#8 => rsv (fld w 8 3 == 0) (.mulh (fld w 21 5) (fld w 16 5) (fld w 11 5))
  | 2#8 => rsv (fld w 8 3 == 0) (.mulhu (fld w 21 5) (fld w 16 5) (fld w 11 5))
  | 3#8 => rsv (fld w 8 3 == 0) (.div (fld w 21 5) (fld w 16 5) (fld w 11 5))
  | 4#8 => rsv (fld w 8 3 == 0) (.divu (fld w 21 5) (fld w 16 5) (fld w 11 5))
  | 5#8 => rsv (fld w 8 3 == 0) (.rem (fld w 21 5) (fld w 16 5) (fld w 11 5))
  | 6#8 => rsv (fld w 8 3 == 0) (.remu (fld w 21 5) (fld w 16 5) (fld w 11 5))
  | _ => .error .unassignedSelector

/-- Major 0x03 (R65, R66). -/
def decBit (w : BitVec 32) : Except DecodeErr Instr :=
  match fld w 0 8 with
  | 0#8 => rsv (fld w 8 8 == 0) (.clz (fld w 21 5) (fld w 16 5))
  | 1#8 => rsv (fld w 8 8 == 0) (.ctz (fld w 21 5) (fld w 16 5))
  | 2#8 => rsv (fld w 8 8 == 0) (.popc (fld w 21 5) (fld w 16 5))
  | 3#8 => rsv (fld w 8 8 == 0) (.brev (fld w 21 5) (fld w 16 5))
  | 4#8 => rsv (fld w 8 8 == 0) (.bswap (fld w 21 5) (fld w 16 5))
  | _ => .error .unassignedSelector

/-- Major 0x04 (R65, R66). -/
def decAddi (w : BitVec 32) : Except DecodeErr Instr :=
  .ok (.addi (fld w 21 5) (fld w 16 5) (fld w 0 16))

/-- Major 0x05 (R65, R66). -/
def decAndi (w : BitVec 32) : Except DecodeErr Instr :=
  .ok (.andi (fld w 21 5) (fld w 16 5) (fld w 0 16))

/-- Major 0x06 (R65, R66). -/
def decOri (w : BitVec 32) : Except DecodeErr Instr :=
  .ok (.ori (fld w 21 5) (fld w 16 5) (fld w 0 16))

/-- Major 0x07 (R65, R66). -/
def decXori (w : BitVec 32) : Except DecodeErr Instr :=
  .ok (.xori (fld w 21 5) (fld w 16 5) (fld w 0 16))

/-- Major 0x08 (R65, R66). -/
def decSlti (w : BitVec 32) : Except DecodeErr Instr :=
  .ok (.slti (fld w 21 5) (fld w 16 5) (fld w 0 16))

/-- Major 0x0a (R65, R66). -/
def decShiftField (w : BitVec 32) : Except DecodeErr Instr :=
  match fld w 0 4 with
  | 0#4 => rsv (fld w 4 6 == 0) (.slli (fld w 21 5) (fld w 16 5) (fld w 10 6))
  | 1#4 => rsv (fld w 4 6 == 0) (.srli (fld w 21 5) (fld w 16 5) (fld w 10 6))
  | 2#4 => rsv (fld w 4 6 == 0) (.srai (fld w 21 5) (fld w 16 5) (fld w 10 6))
  | 3#4 => .ok (.exts (fld w 21 5) (fld w 16 5) (fld w 10 6) (fld w 4 6))
  | 4#4 => .ok (.extz (fld w 21 5) (fld w 16 5) (fld w 10 6) (fld w 4 6))
  | 5#4 => .ok (.ins (fld w 21 5) (fld w 16 5) (fld w 10 6) (fld w 4 6))
  | _ => .error .unassignedSelector

/-- Major 0x0b (R65, R66). -/
def decLi (w : BitVec 32) : Except DecodeErr Instr :=
  .ok (.li (fld w 21 5) (fld w 0 21))

/-- Major 0x0c (R65, R66). -/
def decLim (w : BitVec 32) : Except DecodeErr Instr :=
  .ok (.lim (fld w 21 5) (fld w 0 21))

/-- Major 0x0d (R65, R66). -/
def decAddpc (w : BitVec 32) : Except DecodeErr Instr :=
  .ok (.addpc (fld w 21 5) (fld w 0 21))

/-- Major 0x0e (R65, R66). -/
def decBeq (w : BitVec 32) : Except DecodeErr Instr :=
  .ok (.beq (fld w 21 5) (fld w 16 5) (fld w 0 16))

/-- Major 0x0f (R65, R66). -/
def decBne (w : BitVec 32) : Except DecodeErr Instr :=
  .ok (.bne (fld w 21 5) (fld w 16 5) (fld w 0 16))

/-- Major 0x10 (R65, R66). -/
def decBlt (w : BitVec 32) : Except DecodeErr Instr :=
  .ok (.blt (fld w 21 5) (fld w 16 5) (fld w 0 16))

/-- Major 0x11 (R65, R66). -/
def decBge (w : BitVec 32) : Except DecodeErr Instr :=
  .ok (.bge (fld w 21 5) (fld w 16 5) (fld w 0 16))

/-- Major 0x12 (R65, R66). -/
def decBltu (w : BitVec 32) : Except DecodeErr Instr :=
  .ok (.bltu (fld w 21 5) (fld w 16 5) (fld w 0 16))

/-- Major 0x13 (R65, R66). -/
def decBgeu (w : BitVec 32) : Except DecodeErr Instr :=
  .ok (.bgeu (fld w 21 5) (fld w 16 5) (fld w 0 16))

/-- Major 0x14 (R65, R66). -/
def decJ (w : BitVec 32) : Except DecodeErr Instr :=
  .ok (.j (fld w 0 26))

/-- Major 0x15 (R65, R66). -/
def decCall (w : BitVec 32) : Except DecodeErr Instr :=
  .ok (.call (fld w 0 26))

/-- Major 0x16 (R65, R66). -/
def decJumpR (w : BitVec 32) : Except DecodeErr Instr :=
  match fld w 0 8 with
  | 0#8 => rsv (fld w 21 5 == 0 && fld w 8 8 == 0) (.jr (fld w 16 5))
  | 1#8 => rsv (fld w 21 5 == 0 && fld w 8 8 == 0) (.callr (fld w 16 5))
  | _ => .error .unassignedSelector

/-- Major 0x17 (R65, R66). -/
def decLd (w : BitVec 32) : Except DecodeErr Instr :=
  match fld w 13 3 with
  | 0#3 => .ok (.ldb (fld w 21 5) (fld w 16 5) (fld w 0 13))
  | 1#3 => .ok (.ldbu (fld w 21 5) (fld w 16 5) (fld w 0 13))
  | 2#3 => .ok (.ldh (fld w 21 5) (fld w 16 5) (fld w 0 13))
  | 3#3 => .ok (.ldhu (fld w 21 5) (fld w 16 5) (fld w 0 13))
  | 4#3 => .ok (.ldw (fld w 21 5) (fld w 16 5) (fld w 0 13))
  | 5#3 => .ok (.ldwu (fld w 21 5) (fld w 16 5) (fld w 0 13))
  | 6#3 => .ok (.ldd (fld w 21 5) (fld w 16 5) (fld w 0 13))
  | _ => .error .unassignedSelector

/-- Major 0x18 (R65, R66). -/
def decSt (w : BitVec 32) : Except DecodeErr Instr :=
  match fld w 13 3 with
  | 0#3 => .ok (.stb (fld w 21 5) (fld w 16 5) (fld w 0 13))
  | 1#3 => .ok (.sth (fld w 21 5) (fld w 16 5) (fld w 0 13))
  | 2#3 => .ok (.stw (fld w 21 5) (fld w 16 5) (fld w 0 13))
  | 3#3 => .ok (.std (fld w 21 5) (fld w 16 5) (fld w 0 13))
  | _ => .error .unassignedSelector

/-- Major 0x19 (R65, R66). -/
def decGld (w : BitVec 32) : Except DecodeErr Instr :=
  match fld w 13 3 with
  | 0#3 => .ok (.gldb (fld w 21 5) (fld w 16 5) (fld w 0 13))
  | 1#3 => .ok (.gldbu (fld w 21 5) (fld w 16 5) (fld w 0 13))
  | 2#3 => .ok (.gldh (fld w 21 5) (fld w 16 5) (fld w 0 13))
  | 3#3 => .ok (.gldhu (fld w 21 5) (fld w 16 5) (fld w 0 13))
  | 4#3 => .ok (.gldw (fld w 21 5) (fld w 16 5) (fld w 0 13))
  | 5#3 => .ok (.gldwu (fld w 21 5) (fld w 16 5) (fld w 0 13))
  | 6#3 => .ok (.gldd (fld w 21 5) (fld w 16 5) (fld w 0 13))
  | 7#3 => .ok (.gldv (fld w 21 5) (fld w 16 5) (fld w 0 13))

/-- Major 0x1a (R65, R66). -/
def decGst (w : BitVec 32) : Except DecodeErr Instr :=
  match fld w 13 3 with
  | 0#3 => .ok (.gstb (fld w 21 5) (fld w 16 5) (fld w 0 13))
  | 1#3 => .ok (.gsth (fld w 21 5) (fld w 16 5) (fld w 0 13))
  | 2#3 => .ok (.gstw (fld w 21 5) (fld w 16 5) (fld w 0 13))
  | 3#3 => .ok (.gstd (fld w 21 5) (fld w 16 5) (fld w 0 13))
  | _ => .error .unassignedSelector

/-- Major 0x1c (R65, R66). -/
def decSys (w : BitVec 32) : Except DecodeErr Instr :=
  match fld w 0 8 with
  | 0#8 => rsv (fld w 8 1 == 0) (.gets (fld w 21 5) (fld w 9 12))
  | 1#8 => rsv (fld w 8 1 == 0) (.sets (fld w 21 5) (fld w 9 12))
  | 2#8 => rsv (fld w 21 5 == 0 && fld w 8 1 == 0) (.brk (fld w 9 12))
  | _ => .error .unassignedSelector

/-- Major 0x1d (R65, R66). -/
def decSel (w : BitVec 32) : Except DecodeErr Instr :=
  match fld w 0 3 with
  | 0#3 => rsv (fld w 3 3 == 0) (.sel (fld w 21 5) (fld w 16 5) (fld w 11 5) (fld w 6 5))
  | _ => .error .unassignedSelector

/-- Major 0x1e (R65, R66). -/
def decFp (w : BitVec 32) : Except DecodeErr Instr :=
  match fld w 1 7 with
  | 0#7 => rsv (fld w 8 3 == 0) (.fadd (fld w 21 5) (fld w 16 5) (fld w 11 5) (precOf (fld w 0 1)))
  | 1#7 => rsv (fld w 8 3 == 0) (.fsub (fld w 21 5) (fld w 16 5) (fld w 11 5) (precOf (fld w 0 1)))
  | 2#7 => rsv (fld w 8 3 == 0) (.fmul (fld w 21 5) (fld w 16 5) (fld w 11 5) (precOf (fld w 0 1)))
  | 3#7 => rsv (fld w 8 3 == 0) (.fdiv (fld w 21 5) (fld w 16 5) (fld w 11 5) (precOf (fld w 0 1)))
  | 4#7 => rsv (fld w 8 8 == 0) (.fsqrt (fld w 21 5) (fld w 16 5) (precOf (fld w 0 1)))
  | 5#7 => rsv (fld w 8 3 == 0) (.fmin (fld w 21 5) (fld w 16 5) (fld w 11 5) (precOf (fld w 0 1)))
  | 6#7 => rsv (fld w 8 3 == 0) (.fmax (fld w 21 5) (fld w 16 5) (fld w 11 5) (precOf (fld w 0 1)))
  | 7#7 => rsv (fld w 8 3 == 0) (.feq (fld w 21 5) (fld w 16 5) (fld w 11 5) (precOf (fld w 0 1)))
  | 8#7 => rsv (fld w 8 3 == 0) (.flt (fld w 21 5) (fld w 16 5) (fld w 11 5) (precOf (fld w 0 1)))
  | 9#7 => rsv (fld w 8 3 == 0) (.fle (fld w 21 5) (fld w 16 5) (fld w 11 5) (precOf (fld w 0 1)))
  | 10#7 => rsv (fld w 8 8 == 0) (.fclass (fld w 21 5) (fld w 16 5) (precOf (fld w 0 1)))
  | 16#7 => match fld w 0 1 with
    | 0#1 => rsv (fld w 8 8 == 0) (.fcvtSD (fld w 21 5) (fld w 16 5))
    | 1#1 => rsv (fld w 8 8 == 0) (.fcvtDS (fld w 21 5) (fld w 16 5))
  | 17#7 => match fld w 0 1 with
    | 0#1 => rsv (fld w 8 8 == 0) (.fcvtWS (fld w 21 5) (fld w 16 5))
    | 1#1 => rsv (fld w 8 8 == 0) (.fcvtSW (fld w 21 5) (fld w 16 5))
  | 18#7 => match fld w 0 1 with
    | 0#1 => rsv (fld w 8 8 == 0) (.fcvtLD (fld w 21 5) (fld w 16 5))
    | 1#1 => rsv (fld w 8 8 == 0) (.fcvtDL (fld w 21 5) (fld w 16 5))
  | _ => .error .unassignedSelector

/-- Major 0x1f (R65, R66). -/
def decFma (w : BitVec 32) : Except DecodeErr Instr :=
  match fld w 1 2 with
  | 0#2 => rsv (fld w 3 3 == 0) (.fmadd (fld w 21 5) (fld w 16 5) (fld w 11 5) (fld w 6 5) (precOf (fld w 0 1)))
  | 1#2 => rsv (fld w 3 3 == 0) (.fmsub (fld w 21 5) (fld w 16 5) (fld w 11 5) (fld w 6 5) (precOf (fld w 0 1)))
  | 2#2 => rsv (fld w 3 3 == 0) (.fnmadd (fld w 21 5) (fld w 16 5) (fld w 11 5) (fld w 6 5) (precOf (fld w 0 1)))
  | _ => .error .unassignedSelector

/-- Major 0x20 (R65, R66). -/
def decValu (w : BitVec 32) : Except DecodeErr Instr :=
  match fld w 0 5 with
  | 0#5 => withLaneW (fld w 6 2) fun y => .ok (.vadd (fld w 21 5) (fld w 16 5) (fld w 11 5) (fld w 8 3) y (boolOf (fld w 5 1)))
  | 1#5 => withLaneW (fld w 6 2) fun y => .ok (.vsub (fld w 21 5) (fld w 16 5) (fld w 11 5) (fld w 8 3) y (boolOf (fld w 5 1)))
  | 2#5 => withLaneW (fld w 6 2) fun y => .ok (.vmul (fld w 21 5) (fld w 16 5) (fld w 11 5) (fld w 8 3) y (boolOf (fld w 5 1)))
  | 3#5 => withLaneW (fld w 6 2) fun y => .ok (.vmulh (fld w 21 5) (fld w 16 5) (fld w 11 5) (fld w 8 3) y (boolOf (fld w 5 1)))
  | 4#5 => withLaneW (fld w 6 2) fun y => .ok (.vand (fld w 21 5) (fld w 16 5) (fld w 11 5) (fld w 8 3) y (boolOf (fld w 5 1)))
  | 5#5 => withLaneW (fld w 6 2) fun y => .ok (.vor (fld w 21 5) (fld w 16 5) (fld w 11 5) (fld w 8 3) y (boolOf (fld w 5 1)))
  | 6#5 => withLaneW (fld w 6 2) fun y => .ok (.vxor (fld w 21 5) (fld w 16 5) (fld w 11 5) (fld w 8 3) y (boolOf (fld w 5 1)))
  | 7#5 => withLaneW (fld w 6 2) fun y => .ok (.vshl (fld w 21 5) (fld w 16 5) (fld w 11 5) (fld w 8 3) y (boolOf (fld w 5 1)))
  | 8#5 => withLaneW (fld w 6 2) fun y => .ok (.vshr (fld w 21 5) (fld w 16 5) (fld w 11 5) (fld w 8 3) y (boolOf (fld w 5 1)))
  | 9#5 => withLaneW (fld w 6 2) fun y => .ok (.vsar (fld w 21 5) (fld w 16 5) (fld w 11 5) (fld w 8 3) y (boolOf (fld w 5 1)))
  | 10#5 => withLaneW (fld w 6 2) fun y => .ok (.vmin (fld w 21 5) (fld w 16 5) (fld w 11 5) (fld w 8 3) y (boolOf (fld w 5 1)))
  | 11#5 => withLaneW (fld w 6 2) fun y => .ok (.vmax (fld w 21 5) (fld w 16 5) (fld w 11 5) (fld w 8 3) y (boolOf (fld w 5 1)))
  | _ => .error .unassignedSelector

/-- Major 0x21 (R65, R66). -/
def decVfp (w : BitVec 32) : Except DecodeErr Instr :=
  match fld w 0 5 with
  | 0#5 => withFTy (fld w 6 2) fun y => .ok (.vfadd (fld w 21 5) (fld w 16 5) (fld w 11 5) (fld w 8 3) y (boolOf (fld w 5 1)))
  | 1#5 => withFTy (fld w 6 2) fun y => .ok (.vfsub (fld w 21 5) (fld w 16 5) (fld w 11 5) (fld w 8 3) y (boolOf (fld w 5 1)))
  | 2#5 => withFTy (fld w 6 2) fun y => .ok (.vfmul (fld w 21 5) (fld w 16 5) (fld w 11 5) (fld w 8 3) y (boolOf (fld w 5 1)))
  | 3#5 => withFTy (fld w 6 2) fun y => .ok (.vfmin (fld w 21 5) (fld w 16 5) (fld w 11 5) (fld w 8 3) y (boolOf (fld w 5 1)))
  | 4#5 => withFTy (fld w 6 2) fun y => .ok (.vfmax (fld w 21 5) (fld w 16 5) (fld w 11 5) (fld w 8 3) y (boolOf (fld w 5 1)))
  | 5#5 => withFTy (fld w 6 2) fun y => rsv (fld w 11 5 == 0 && fld w 5 1 == 0) (.vfexp2 (fld w 21 5) (fld w 16 5) (fld w 8 3) y)
  | 6#5 => withFTy (fld w 6 2) fun y => rsv (fld w 11 5 == 0 && fld w 5 1 == 0) (.vflog2 (fld w 21 5) (fld w 16 5) (fld w 8 3) y)
  | 7#5 => withFTy (fld w 6 2) fun y => rsv (fld w 11 5 == 0 && fld w 5 1 == 0) (.vfrcp (fld w 21 5) (fld w 16 5) (fld w 8 3) y)
  | 8#5 => withFTy (fld w 6 2) fun y => rsv (fld w 11 5 == 0 && fld w 5 1 == 0) (.vfrsq (fld w 21 5) (fld w 16 5) (fld w 8 3) y)
  | _ => .error .unassignedSelector

/-- Major 0x22 (R65, R66). -/
def decVfma (w : BitVec 32) : Except DecodeErr Instr :=
  match fld w 0 3 with
  | 0#3 => .ok (.vfma (fld w 21 5) (fld w 16 5) (fld w 11 5) (fld w 6 5) (fld w 3 3))
  | 1#3 => .ok (.vfms (fld w 21 5) (fld w 16 5) (fld w 11 5) (fld w 6 5) (fld w 3 3))
  | 2#3 => .ok (.vfnma (fld w 21 5) (fld w 16 5) (fld w 11 5) (fld w 6 5) (fld w 3 3))
  | _ => .error .unassignedSelector

/-- Major 0x23 (R65, R66). -/
def decVcvt (w : BitVec 32) : Except DecodeErr Instr :=
  match fld w 0 8 with
  | 0#8 => rsv (fld w 14 2 == 0) (.vcvt (fld w 21 5) (fld w 16 5) (boolOf (fld w 13 1)) (fld w 11 2) (fld w 8 3))
  | 1#8 => rsv (fld w 13 3 == 0) (.vqblk (fld w 21 5) (fld w 16 5) (fld w 11 2) (fld w 8 3))
  | 2#8 => rsv (fld w 14 2 == 0) (.vdqblk (fld w 21 5) (fld w 16 5) (boolOf (fld w 13 1)) (fld w 11 2) (fld w 8 3))
  | _ => .error .unassignedSelector

/-- Major 0x24 (R65, R66). -/
def decVred (w : BitVec 32) : Except DecodeErr Instr :=
  match fld w 0 5 with
  | 0#5 => rsv (fld w 11 5 == 0 && fld w 7 1 == 0 && fld w 5 1 == 0) (.vrsum (fld w 21 5) (fld w 16 5) (fld w 8 3) (rtyOf (fld w 6 1)))
  | 1#5 => rsv (fld w 11 5 == 0 && fld w 7 1 == 0 && fld w 5 1 == 0) (.vrmax (fld w 21 5) (fld w 16 5) (fld w 8 3) (rtyOf (fld w 6 1)))
  | 2#5 => rsv (fld w 11 5 == 0 && fld w 7 1 == 0 && fld w 5 1 == 0) (.vrmin (fld w 21 5) (fld w 16 5) (fld w 8 3) (rtyOf (fld w 6 1)))
  | 3#5 => rsv (fld w 11 5 == 0 && fld w 7 1 == 0 && fld w 5 1 == 0) (.vscan (fld w 21 5) (fld w 16 5) (fld w 8 3) (rtyOf (fld w 6 1)))
  | _ => .error .unassignedSelector

/-- Major 0x25 (R65, R66). -/
def decVperm (w : BitVec 32) : Except DecodeErr Instr :=
  match fld w 0 8 with
  | 0#8 => rsv (fld w 14 2 == 0) (.vbcast (fld w 21 5) (fld w 16 5) (boolOf (fld w 13 1)) (permWOf (fld w 11 2)) (fld w 8 3))
  | 1#8 => rsv (fld w 10 1 == 0) (.vextr (fld w 21 5) (fld w 16 5) (fld w 11 5) (permWOf (fld w 8 2)))
  | 2#8 => rsv (fld w 10 1 == 0) (.vins (fld w 21 5) (fld w 16 5) (fld w 11 5) (permWOf (fld w 8 2)))
  | 3#8 => .ok (.vperm (fld w 21 5) (fld w 16 5) (fld w 11 5) (fld w 8 3))
  | 4#8 => .ok (.vslide (fld w 21 5) (fld w 16 5) (fld w 11 5) (fld w 8 3))
  | 5#8 => .ok (.vsel (fld w 21 5) (fld w 16 5) (fld w 11 5) (fld w 8 3))
  | _ => .error .unassignedSelector

/-- Major 0x26 (R65, R66). -/
def decVmask (w : BitVec 32) : Except DecodeErr Instr :=
  match fld w 0 8 with
  | 0#8 => .ok (.vcmpEq (fld w 21 5) (fld w 16 5) (fld w 11 5) (fld w 8 3))
  | 1#8 => .ok (.vcmpNe (fld w 21 5) (fld w 16 5) (fld w 11 5) (fld w 8 3))
  | 2#8 => .ok (.vcmpLt (fld w 21 5) (fld w 16 5) (fld w 11 5) (fld w 8 3))
  | 3#8 => .ok (.vcmpLe (fld w 21 5) (fld w 16 5) (fld w 11 5) (fld w 8 3))
  | 4#8 => .ok (.vcmpLtu (fld w 21 5) (fld w 16 5) (fld w 11 5) (fld w 8 3))
  | 5#8 => .ok (.vcmpLeu (fld w 21 5) (fld w 16 5) (fld w 11 5) (fld w 8 3))
  | 8#8 => .ok (.vfcmpEq (fld w 21 5) (fld w 16 5) (fld w 11 5) (fld w 8 3))
  | 9#8 => .ok (.vfcmpLt (fld w 21 5) (fld w 16 5) (fld w 11 5) (fld w 8 3))
  | 10#8 => .ok (.vfcmpLe (fld w 21 5) (fld w 16 5) (fld w 11 5) (fld w 8 3))
  | 11#8 => .ok (.vfcmpUn (fld w 21 5) (fld w 16 5) (fld w 11 5) (fld w 8 3))
  | 16#8 => rsv (fld w 8 3 == 0) (.kand (fld w 21 5) (fld w 16 5) (fld w 11 5))
  | 17#8 => rsv (fld w 8 3 == 0) (.kor (fld w 21 5) (fld w 16 5) (fld w 11 5))
  | 18#8 => rsv (fld w 8 3 == 0) (.kxor (fld w 21 5) (fld w 16 5) (fld w 11 5))
  | 19#8 => rsv (fld w 8 3 == 0) (.kandn (fld w 21 5) (fld w 16 5) (fld w 11 5))
  | 24#8 => rsv (fld w 8 8 == 0) (.kmovToG (fld w 21 5) (fld w 16 5))
  | 25#8 => rsv (fld w 8 8 == 0) (.kmovFromG (fld w 21 5) (fld w 16 5))
  | 32#8 => rsv (fld w 8 8 == 0) (.kpopc (fld w 21 5) (fld w 16 5))
  | _ => .error .unassignedSelector

/-- Major 0x27 (R65, R66). -/
def decVwide (w : BitVec 32) : Except DecodeErr Instr :=
  match fld w 0 8 with
  | 0#8 => .ok (.vaddc (fld w 21 5) (fld w 16 5) (fld w 11 5) (fld w 8 3))
  | 1#8 => .ok (.vsubb (fld w 21 5) (fld w 16 5) (fld w 11 5) (fld w 8 3))
  | 2#8 => .ok (.vrnsf (fld w 21 5) (fld w 16 5) (fld w 11 5) (fld w 8 3))
  | 3#8 => .ok (.vrnsr (fld w 21 5) (fld w 16 5) (fld w 11 5) (fld w 8 3))
  | _ => .error .unassignedSelector

/-- Major 0x28 (R65, R66). -/
def decVmem (w : BitVec 32) : Except DecodeErr Instr :=
  match fld w 5 3 with
  | 0#3 => rsv (fld w 11 5 == 0) (.vld (fld w 21 5) (fld w 16 5) (fld w 8 3) (fld w 0 5))
  | 1#3 => rsv (fld w 11 5 == 0) (.vst (fld w 21 5) (fld w 16 5) (fld w 8 3) (fld w 0 5))
  | 2#3 => .ok (.vlds (fld w 21 5) (fld w 16 5) (fld w 11 5) (fld w 8 3) (fld w 0 5))
  | 3#3 => .ok (.vsts (fld w 21 5) (fld w 16 5) (fld w 11 5) (fld w 8 3) (fld w 0 5))
  | 4#3 => .ok (.vldx (fld w 21 5) (fld w 16 5) (fld w 11 5) (fld w 8 3) (fld w 0 5))
  | 5#3 => .ok (.vstx (fld w 21 5) (fld w 16 5) (fld w 11 5) (fld w 8 3) (fld w 0 5))
  | 6#3 => rsv (fld w 0 4 == 0) (.vscatadd (fld w 21 5) (fld w 16 5) (fld w 11 5) (fld w 8 3) (rtyOf (fld w 4 1)))
  | _ => .error .unassignedSelector

/-- Major 0x29 (R65, R66). -/
def decMsg (w : BitVec 32) : Except DecodeErr Instr :=
  match fld w 0 6 with
  | 0#6 => rsv (fld w 22 4 == 0) (.send (boolOf (fld w 21 1)) (fld w 16 5) (fld w 11 5) (fld w 6 5))
  | 1#6 => rsv (fld w 22 4 == 0) (.reply (boolOf (fld w 21 1)) (fld w 16 5) (fld w 11 5) (fld w 6 5))
  | 2#6 => rsv (fld w 21 5 == 0 && fld w 7 9 == 0) (.fwd (fld w 16 5) (boolOf (fld w 6 1)))
  | 3#6 => rsv (fld w 6 20 == 0) (.endAct)
  | 4#6 => rsv (fld w 6 20 == 0) (.defer)
  | _ => .error .unassignedSelector

/-- Major 0x2a (R65, R66). -/
def decTag (w : BitVec 32) : Except DecodeErr Instr :=
  match fld w 0 6 with
  | 0#6 => rsv (fld w 11 10 == 0) (.tgget (fld w 21 5) (fld w 6 5))
  | 1#6 => rsv (fld w 21 5 == 0 && fld w 11 5 == 0) (.tgset (fld w 16 5) (fld w 6 5))
  | 2#6 => rsv (fld w 21 5 == 0) (.tginc (fld w 16 5) (fld w 11 5) (fld w 6 5))
  | 3#6 => rsv (fld w 21 5 == 0 && fld w 6 10 == 0) (.tgpush (fld w 16 5))
  | 4#6 => rsv (fld w 6 15 == 0) (.tgpop (fld w 21 5))
  | 5#6 => rsv (fld w 6 15 == 0) (.tgnew (fld w 21 5))
  | _ => .error .unassignedSelector

/-- Major 0x2b (R65, R66). -/
def decQue (w : BitVec 32) : Except DecodeErr Instr :=
  match fld w 0 6 with
  | 0#6 => rsv (fld w 16 5 == 0 && fld w 8 3 == 0) (.qget (fld w 21 5) (fld w 11 5) (fld w 6 2))
  | 1#6 => rsv (fld w 21 5 == 0 && fld w 9 7 == 0) (.qput (fld w 16 5) (boolOf (fld w 8 1)) (fld w 6 2))
  | 2#6 => rsv (fld w 8 13 == 0) (.qpoll (fld w 21 5) (fld w 6 2))
  | 3#6 => rsv (fld w 6 20 == 0) (.mrtn)
  | 4#6 => rsv (fld w 21 5 == 0) (.cntadd (fld w 16 5) (fld w 11 5) (fld w 6 5))
  | 5#6 => rsv (fld w 21 5 == 0) (.cntset (fld w 16 5) (fld w 11 5) (fld w 6 5))
  | 6#6 => rsv (fld w 6 10 == 0) (.cntget (fld w 21 5) (fld w 16 5))
  | _ => .error .unassignedSelector

/-- Major 0x2d (R65, R66). -/
def decMem (w : BitVec 32) : Except DecodeErr Instr :=
  match fld w 0 6 with
  | 0#6 => .ok (.acq (fld w 21 5) (fld w 16 5) (fld w 11 5) (fld w 6 5))
  | 1#6 => rsv (fld w 21 5 == 0 && fld w 6 5 == 0) (.rel (fld w 16 5) (fld w 11 5))
  | 2#6 => match fld w 6 5 with
    | 0#5 => rsv (fld w 11 15 == 0) (.fenceLocal)
    | 1#5 => rsv (fld w 11 15 == 0) (.fencePut)
    | 2#5 => rsv (fld w 11 15 == 0) (.fenceDie)
    | 3#5 => rsv (fld w 11 15 == 0) (.fenceModule)
    | _ => .error .unassignedSelector
  | 3#6 => match fld w 6 5 with
    | 0#5 => .ok (.gatomAdd (fld w 21 5) (fld w 16 5) (fld w 11 5))
    | 1#5 => .ok (.gatomCas (fld w 21 5) (fld w 16 5) (fld w 11 5))
    | 2#5 => .ok (.gatomSwap (fld w 21 5) (fld w 16 5) (fld w 11 5))
    | 3#5 => .ok (.gatomMax (fld w 21 5) (fld w 16 5) (fld w 11 5))
    | 4#5 => .ok (.gatomMin (fld w 21 5) (fld w 16 5) (fld w 11 5))
    | 5#5 => rsv (fld w 21 5 == 0) (.gatomFxadd (fld w 16 5) (fld w 11 5))
    | 6#5 => rsv (fld w 12 4 == 0) (.gatomFxrd (fld w 21 5) (fld w 16 5) (precOf (fld w 11 1)))
    | _ => .error .unassignedSelector
  | _ => .error .unassignedSelector

/-- Major 0x2e (R65, R66). -/
def decRma (w : BitVec 32) : Except DecodeErr Instr :=
  match fld w 0 6 with
  | 0#6 => .ok (.get (fld w 21 5) (fld w 16 5) (fld w 11 5) (fld w 6 5))
  | 1#6 => .ok (.put (fld w 21 5) (fld w 16 5) (fld w 11 5) (fld w 6 5))
  | 2#6 => .ok (.getx (fld w 21 5) (fld w 16 5) (fld w 11 5) (fld w 6 5))
  | 3#6 => .ok (.putx (fld w 21 5) (fld w 16 5) (fld w 11 5) (fld w 6 5))
  | 4#6 => match fld w 6 5 with
    | 0#5 => .ok (.ratomAdd (fld w 21 5) (fld w 16 5) (fld w 11 5))
    | 1#5 => .ok (.ratomCas (fld w 21 5) (fld w 16 5) (fld w 11 5))
    | 2#5 => .ok (.ratomSwap (fld w 21 5) (fld w 16 5) (fld w 11 5))
    | 3#5 => .ok (.ratomMax (fld w 21 5) (fld w 16 5) (fld w 11 5))
    | 4#5 => .ok (.ratomMin (fld w 21 5) (fld w 16 5) (fld w 11 5))
    | 5#5 => .ok (.ratomFxadd (fld w 21 5) (fld w 16 5) (fld w 11 5))
    | 6#5 => .ok (.ratomFxrd (fld w 21 5) (fld w 16 5) (fld w 11 5))
    | 7#5 => .ok (.ratomSubst (fld w 21 5) (fld w 16 5) (fld w 11 5))
    | _ => .error .unassignedSelector
  | _ => .error .unassignedSelector

/-- Major 0x2f (R65, R66). -/
def decPaneOp (w : BitVec 32) : Except DecodeErr Instr :=
  match fld w 0 6 with
  | 0#6 => rsv (fld w 21 5 == 0 && fld w 11 5 == 0) (.give (fld w 16 5) (fld w 6 5))
  | 1#6 => rsv (fld w 21 5 == 0 && fld w 6 10 == 0) (.take (fld w 16 5))
  | 2#6 => rsv (fld w 6 10 == 0) (.ttest (fld w 21 5) (fld w 16 5))
  | _ => .error .unassignedSelector

/-- Major 0x30 (R65, R66). -/
def decMm (w : BitVec 32) : Except DecodeErr Instr :=
  match fld w 0 6 with
  | 0#6 => rsv (fld w 6 5 == 0) (.mmrun (fld w 21 5) (fld w 16 5) (fld w 11 5))
  | 1#6 => rsv (fld w 6 15 == 0) (.mmstat (fld w 21 5))
  | 2#6 => rsv (fld w 21 5 == 0 && fld w 6 5 == 0) (.slotld (fld w 16 5) (fld w 11 5))
  | _ => .error .unassignedSelector

/-- Major 0x31 (R65, R66). -/
def decSe (w : BitVec 32) : Except DecodeErr Instr :=
  match fld w 0 6 with
  | 0#6 => rsv (fld w 6 5 == 0) (.sego (fld w 21 5) (fld w 16 5) (fld w 11 5))
  | 1#6 => rsv (fld w 6 10 == 0) (.sestat (fld w 21 5) (fld w 16 5))
  | _ => .error .unassignedSelector

/-- Major 0x32 (R65, R66). -/
def decSacOp (w : BitVec 32) : Except DecodeErr Instr :=
  match fld w 0 6 with
  | 0#6 => .ok (.sacp (fld w 21 5) (fld w 16 5) (fld w 11 5) (fld w 6 5))
  | 1#6 => .ok (.sacc (fld w 21 5) (fld w 16 5) (fld w 11 5) (fld w 6 5))
  | _ => .error .unassignedSelector

/-- Major 0x33 (R65, R66). -/
def decBt (w : BitVec 32) : Except DecodeErr Instr :=
  match fld w 0 6 with
  | 0#6 => rsv (fld w 6 5 == 0) (.btld (fld w 21 5) (fld w 16 5) (fld w 11 5))
  | 1#6 => rsv (fld w 6 5 == 0) (.btswap (fld w 21 5) (fld w 16 5) (fld w 11 5))
  | 2#6 => rsv (fld w 6 5 == 0) (.btref (fld w 21 5) (fld w 16 5) (fld w 11 5))
  | _ => .error .unassignedSelector

/-- Major 0x34 (R65, R66). -/
def decBar (w : BitVec 32) : Except DecodeErr Instr :=
  match fld w 0 6 with
  | 0#6 => rsv (fld w 21 5 == 0) (.barjoin (fld w 16 5) (fld w 11 5) (fld w 6 5))
  | 1#6 => rsv (fld w 10 11 == 0) (.barval (fld w 21 5) (fld w 6 4))
  | _ => .error .unassignedSelector

/-- Major 0x35 (R65, R66). -/
def decPriv (w : BitVec 32) : Except DecodeErr Instr :=
  match fld w 0 6 with
  | 0#6 => rsv (fld w 6 5 == 0) (.tret (fld w 21 5) (fld w 16 5) (fld w 11 5))
  | 1#6 => rsv (fld w 6 5 == 0) (.tlbwr (fld w 21 5) (fld w 16 5) (fld w 11 5))
  | 2#6 => rsv (fld w 6 5 == 0) (.tlbinv (fld w 21 5) (fld w 16 5) (fld w 11 5))
  | 3#6 => rsv (fld w 21 5 == 0 && fld w 6 10 == 0) (.domkill (fld w 16 5))
  | 4#6 => rsv (fld w 21 5 == 0 && fld w 6 10 == 0) (.colkill (fld w 16 5))
  | 5#6 => rsv (fld w 6 5 == 0) (.gangsw (fld w 21 5) (fld w 16 5) (fld w 11 5))
  | 6#6 => rsv (fld w 6 5 == 0) (.logctl (fld w 21 5) (fld w 16 5) (fld w 11 5))
  | 7#6 => rsv (fld w 21 5 == 0 && fld w 6 10 == 0) (.halt (fld w 16 5))
  | 8#6 => rsv (fld w 23 3 == 0 && fld w 6 10 == 0) (.loopb (boolOf (fld w 22 1)) (boolOf (fld w 21 1)) (fld w 16 5))
  | _ => .error .unassignedSelector

/-- Major 0x36 (R65, R66). -/
def decFmtx (w : BitVec 32) : Except DecodeErr Instr :=
  rsv (fld w 0 5 == 0) (.fmtx (fld w 22 4) (fld w 18 4) (fld w 15 3) (fld w 13 2) (fld w 10 3) (boolOf (fld w 9 1)) (fld w 5 4))

/-- The instruction a word names (R65, R66), or why it names none (R68 step 1). -/
def decode (w : BitVec 32) : Except DecodeErr Instr :=
  match fld w 26 6 with
  | 0x01#6 => decAlu w
  | 0x02#6 => decMulDiv w
  | 0x03#6 => decBit w
  | 0x04#6 => decAddi w
  | 0x05#6 => decAndi w
  | 0x06#6 => decOri w
  | 0x07#6 => decXori w
  | 0x08#6 => decSlti w
  | 0x0a#6 => decShiftField w
  | 0x0b#6 => decLi w
  | 0x0c#6 => decLim w
  | 0x0d#6 => decAddpc w
  | 0x0e#6 => decBeq w
  | 0x0f#6 => decBne w
  | 0x10#6 => decBlt w
  | 0x11#6 => decBge w
  | 0x12#6 => decBltu w
  | 0x13#6 => decBgeu w
  | 0x14#6 => decJ w
  | 0x15#6 => decCall w
  | 0x16#6 => decJumpR w
  | 0x17#6 => decLd w
  | 0x18#6 => decSt w
  | 0x19#6 => decGld w
  | 0x1a#6 => decGst w
  | 0x1c#6 => decSys w
  | 0x1d#6 => decSel w
  | 0x1e#6 => decFp w
  | 0x1f#6 => decFma w
  | 0x20#6 => decValu w
  | 0x21#6 => decVfp w
  | 0x22#6 => decVfma w
  | 0x23#6 => decVcvt w
  | 0x24#6 => decVred w
  | 0x25#6 => decVperm w
  | 0x26#6 => decVmask w
  | 0x27#6 => decVwide w
  | 0x28#6 => decVmem w
  | 0x29#6 => decMsg w
  | 0x2a#6 => decTag w
  | 0x2b#6 => decQue w
  | 0x2d#6 => decMem w
  | 0x2e#6 => decRma w
  | 0x2f#6 => decPaneOp w
  | 0x30#6 => decMm w
  | 0x31#6 => decSe w
  | 0x32#6 => decSacOp w
  | 0x33#6 => decBt w
  | 0x34#6 => decBar w
  | 0x35#6 => decPriv w
  | 0x36#6 => decFmtx w
  | _ => .error .unassignedMajor

/-- Two fields side by side, the first above the second. -/
def cat {n m : Nat} (x : BitVec n) (y : BitVec m) : BitVec (n + m) := x ++ y

/-- A word laid out from its fields, the most significant first (R62). -/
def pack {n : Nat} (x : BitVec n) (h : n = 32 := by decide) : BitVec 32 := x.cast h

/-- The word of an instruction (R62, R63, R65, R66); a step of another agent has none. -/
def encode : Instr → Option (BitVec 32)
  | .add d a b => some (pack (cat 0x01#6 (cat d (cat a (cat b 0#11)))))
  | .sub d a b => some (pack (cat 0x01#6 (cat d (cat a (cat b 1#11)))))
  | .and d a b => some (pack (cat 0x01#6 (cat d (cat a (cat b 2#11)))))
  | .or d a b => some (pack (cat 0x01#6 (cat d (cat a (cat b 3#11)))))
  | .xor d a b => some (pack (cat 0x01#6 (cat d (cat a (cat b 4#11)))))
  | .sll d a b => some (pack (cat 0x01#6 (cat d (cat a (cat b 5#11)))))
  | .srl d a b => some (pack (cat 0x01#6 (cat d (cat a (cat b 6#11)))))
  | .sra d a b => some (pack (cat 0x01#6 (cat d (cat a (cat b 7#11)))))
  | .slt d a b => some (pack (cat 0x01#6 (cat d (cat a (cat b 8#11)))))
  | .sltu d a b => some (pack (cat 0x01#6 (cat d (cat a (cat b 9#11)))))
  | .min d a b => some (pack (cat 0x01#6 (cat d (cat a (cat b 10#11)))))
  | .max d a b => some (pack (cat 0x01#6 (cat d (cat a (cat b 11#11)))))
  | .addw d a b => some (pack (cat 0x01#6 (cat d (cat a (cat b 12#11)))))
  | .subw d a b => some (pack (cat 0x01#6 (cat d (cat a (cat b 13#11)))))
  | .mul d a b => some (pack (cat 0x02#6 (cat d (cat a (cat b 0#11)))))
  | .mulh d a b => some (pack (cat 0x02#6 (cat d (cat a (cat b 1#11)))))
  | .mulhu d a b => some (pack (cat 0x02#6 (cat d (cat a (cat b 2#11)))))
  | .div d a b => some (pack (cat 0x02#6 (cat d (cat a (cat b 3#11)))))
  | .divu d a b => some (pack (cat 0x02#6 (cat d (cat a (cat b 4#11)))))
  | .rem d a b => some (pack (cat 0x02#6 (cat d (cat a (cat b 5#11)))))
  | .remu d a b => some (pack (cat 0x02#6 (cat d (cat a (cat b 6#11)))))
  | .clz d a => some (pack (cat 0x03#6 (cat d (cat a 0#16))))
  | .ctz d a => some (pack (cat 0x03#6 (cat d (cat a 1#16))))
  | .popc d a => some (pack (cat 0x03#6 (cat d (cat a 2#16))))
  | .brev d a => some (pack (cat 0x03#6 (cat d (cat a 3#16))))
  | .bswap d a => some (pack (cat 0x03#6 (cat d (cat a 4#16))))
  | .addi d a i => some (pack (cat 0x04#6 (cat d (cat a i))))
  | .andi d a i => some (pack (cat 0x05#6 (cat d (cat a i))))
  | .ori d a i => some (pack (cat 0x06#6 (cat d (cat a i))))
  | .xori d a i => some (pack (cat 0x07#6 (cat d (cat a i))))
  | .slti d a i => some (pack (cat 0x08#6 (cat d (cat a i))))
  | .slli d a s => some (pack (cat 0x0a#6 (cat d (cat a (cat s 0#10)))))
  | .srli d a s => some (pack (cat 0x0a#6 (cat d (cat a (cat s 1#10)))))
  | .srai d a s => some (pack (cat 0x0a#6 (cat d (cat a (cat s 2#10)))))
  | .exts d a p l => some (pack (cat 0x0a#6 (cat d (cat a (cat p (cat l 3#4))))))
  | .extz d a p l => some (pack (cat 0x0a#6 (cat d (cat a (cat p (cat l 4#4))))))
  | .ins d a p l => some (pack (cat 0x0a#6 (cat d (cat a (cat p (cat l 5#4))))))
  | .li d i => some (pack (cat 0x0b#6 (cat d i)))
  | .lim d i => some (pack (cat 0x0c#6 (cat d i)))
  | .addpc d i => some (pack (cat 0x0d#6 (cat d i)))
  | .beq a b o => some (pack (cat 0x0e#6 (cat a (cat b o))))
  | .bne a b o => some (pack (cat 0x0f#6 (cat a (cat b o))))
  | .blt a b o => some (pack (cat 0x10#6 (cat a (cat b o))))
  | .bge a b o => some (pack (cat 0x11#6 (cat a (cat b o))))
  | .bltu a b o => some (pack (cat 0x12#6 (cat a (cat b o))))
  | .bgeu a b o => some (pack (cat 0x13#6 (cat a (cat b o))))
  | .j o => some (pack (cat 0x14#6 o))
  | .call o => some (pack (cat 0x15#6 o))
  | .jr a => some (pack (cat 0x16#6 (cat 0#5 (cat a 0#16))))
  | .callr a => some (pack (cat 0x16#6 (cat 0#5 (cat a 1#16))))
  | .sel d a b c => some (pack (cat 0x1d#6 (cat d (cat a (cat b (cat c 0#6))))))
  | .ldb d a o => some (pack (cat 0x17#6 (cat d (cat a (cat 0#3 o)))))
  | .ldbu d a o => some (pack (cat 0x17#6 (cat d (cat a (cat 1#3 o)))))
  | .ldh d a o => some (pack (cat 0x17#6 (cat d (cat a (cat 2#3 o)))))
  | .ldhu d a o => some (pack (cat 0x17#6 (cat d (cat a (cat 3#3 o)))))
  | .ldw d a o => some (pack (cat 0x17#6 (cat d (cat a (cat 4#3 o)))))
  | .ldwu d a o => some (pack (cat 0x17#6 (cat d (cat a (cat 5#3 o)))))
  | .ldd d a o => some (pack (cat 0x17#6 (cat d (cat a (cat 6#3 o)))))
  | .stb s a o => some (pack (cat 0x18#6 (cat s (cat a (cat 0#3 o)))))
  | .sth s a o => some (pack (cat 0x18#6 (cat s (cat a (cat 1#3 o)))))
  | .stw s a o => some (pack (cat 0x18#6 (cat s (cat a (cat 2#3 o)))))
  | .std s a o => some (pack (cat 0x18#6 (cat s (cat a (cat 3#3 o)))))
  | .fadd d a b p => some (pack (cat 0x1e#6 (cat d (cat a (cat b (cat 0#10 p.bit))))))
  | .fsub d a b p => some (pack (cat 0x1e#6 (cat d (cat a (cat b (cat 1#10 p.bit))))))
  | .fmul d a b p => some (pack (cat 0x1e#6 (cat d (cat a (cat b (cat 2#10 p.bit))))))
  | .fdiv d a b p => some (pack (cat 0x1e#6 (cat d (cat a (cat b (cat 3#10 p.bit))))))
  | .fsqrt d a p => some (pack (cat 0x1e#6 (cat d (cat a (cat 4#15 p.bit)))))
  | .fmin d a b p => some (pack (cat 0x1e#6 (cat d (cat a (cat b (cat 5#10 p.bit))))))
  | .fmax d a b p => some (pack (cat 0x1e#6 (cat d (cat a (cat b (cat 6#10 p.bit))))))
  | .feq d a b p => some (pack (cat 0x1e#6 (cat d (cat a (cat b (cat 7#10 p.bit))))))
  | .flt d a b p => some (pack (cat 0x1e#6 (cat d (cat a (cat b (cat 8#10 p.bit))))))
  | .fle d a b p => some (pack (cat 0x1e#6 (cat d (cat a (cat b (cat 9#10 p.bit))))))
  | .fclass d a p => some (pack (cat 0x1e#6 (cat d (cat a (cat 10#15 p.bit)))))
  | .fcvtSD d a => some (pack (cat 0x1e#6 (cat d (cat a 32#16))))
  | .fcvtDS d a => some (pack (cat 0x1e#6 (cat d (cat a 33#16))))
  | .fcvtWS d a => some (pack (cat 0x1e#6 (cat d (cat a 34#16))))
  | .fcvtSW d a => some (pack (cat 0x1e#6 (cat d (cat a 35#16))))
  | .fcvtLD d a => some (pack (cat 0x1e#6 (cat d (cat a 36#16))))
  | .fcvtDL d a => some (pack (cat 0x1e#6 (cat d (cat a 37#16))))
  | .fmadd d a b c p => some (pack (cat 0x1f#6 (cat d (cat a (cat b (cat c (cat 0#5 p.bit)))))))
  | .fmsub d a b c p => some (pack (cat 0x1f#6 (cat d (cat a (cat b (cat c (cat 1#5 p.bit)))))))
  | .fnmadd d a b c p => some (pack (cat 0x1f#6 (cat d (cat a (cat b (cat c (cat 2#5 p.bit)))))))
  | .vadd d a b k w x => some (pack (cat 0x20#6 (cat d (cat a (cat b (cat k (cat w.bits (cat (BitVec.ofBool x) 0#5))))))))
  | .vsub d a b k w x => some (pack (cat 0x20#6 (cat d (cat a (cat b (cat k (cat w.bits (cat (BitVec.ofBool x) 1#5))))))))
  | .vmul d a b k w x => some (pack (cat 0x20#6 (cat d (cat a (cat b (cat k (cat w.bits (cat (BitVec.ofBool x) 2#5))))))))
  | .vmulh d a b k w x => some (pack (cat 0x20#6 (cat d (cat a (cat b (cat k (cat w.bits (cat (BitVec.ofBool x) 3#5))))))))
  | .vand d a b k w x => some (pack (cat 0x20#6 (cat d (cat a (cat b (cat k (cat w.bits (cat (BitVec.ofBool x) 4#5))))))))
  | .vor d a b k w x => some (pack (cat 0x20#6 (cat d (cat a (cat b (cat k (cat w.bits (cat (BitVec.ofBool x) 5#5))))))))
  | .vxor d a b k w x => some (pack (cat 0x20#6 (cat d (cat a (cat b (cat k (cat w.bits (cat (BitVec.ofBool x) 6#5))))))))
  | .vshl d a b k w x => some (pack (cat 0x20#6 (cat d (cat a (cat b (cat k (cat w.bits (cat (BitVec.ofBool x) 7#5))))))))
  | .vshr d a b k w x => some (pack (cat 0x20#6 (cat d (cat a (cat b (cat k (cat w.bits (cat (BitVec.ofBool x) 8#5))))))))
  | .vsar d a b k w x => some (pack (cat 0x20#6 (cat d (cat a (cat b (cat k (cat w.bits (cat (BitVec.ofBool x) 9#5))))))))
  | .vmin d a b k w x => some (pack (cat 0x20#6 (cat d (cat a (cat b (cat k (cat w.bits (cat (BitVec.ofBool x) 10#5))))))))
  | .vmax d a b k w x => some (pack (cat 0x20#6 (cat d (cat a (cat b (cat k (cat w.bits (cat (BitVec.ofBool x) 11#5))))))))
  | .vfadd d a b k t x => some (pack (cat 0x21#6 (cat d (cat a (cat b (cat k (cat t.bits (cat (BitVec.ofBool x) 0#5))))))))
  | .vfsub d a b k t x => some (pack (cat 0x21#6 (cat d (cat a (cat b (cat k (cat t.bits (cat (BitVec.ofBool x) 1#5))))))))
  | .vfmul d a b k t x => some (pack (cat 0x21#6 (cat d (cat a (cat b (cat k (cat t.bits (cat (BitVec.ofBool x) 2#5))))))))
  | .vfmin d a b k t x => some (pack (cat 0x21#6 (cat d (cat a (cat b (cat k (cat t.bits (cat (BitVec.ofBool x) 3#5))))))))
  | .vfmax d a b k t x => some (pack (cat 0x21#6 (cat d (cat a (cat b (cat k (cat t.bits (cat (BitVec.ofBool x) 4#5))))))))
  | .vfexp2 d a k t => some (pack (cat 0x21#6 (cat d (cat a (cat 0#5 (cat k (cat t.bits 5#6)))))))
  | .vflog2 d a k t => some (pack (cat 0x21#6 (cat d (cat a (cat 0#5 (cat k (cat t.bits 6#6)))))))
  | .vfrcp d a k t => some (pack (cat 0x21#6 (cat d (cat a (cat 0#5 (cat k (cat t.bits 7#6)))))))
  | .vfrsq d a k t => some (pack (cat 0x21#6 (cat d (cat a (cat 0#5 (cat k (cat t.bits 8#6)))))))
  | .vfma d a b c k => some (pack (cat 0x22#6 (cat d (cat a (cat b (cat c (cat k 0#3)))))))
  | .vfms d a b c k => some (pack (cat 0x22#6 (cat d (cat a (cat b (cat c (cat k 1#3)))))))
  | .vfnma d a b c k => some (pack (cat 0x22#6 (cat d (cat a (cat b (cat c (cat k 2#3)))))))
  | .vcvt d a z p k => some (pack (cat 0x23#6 (cat d (cat a (cat 0#2 (cat (BitVec.ofBool z) (cat p (cat k 0#8))))))))
  | .vqblk d a p k => some (pack (cat 0x23#6 (cat d (cat a (cat 0#3 (cat p (cat k 1#8)))))))
  | .vdqblk d a z p k => some (pack (cat 0x23#6 (cat d (cat a (cat 0#2 (cat (BitVec.ofBool z) (cat p (cat k 2#8))))))))
  | .vrsum d a k t => some (pack (cat 0x24#6 (cat d (cat a (cat 0#5 (cat k (cat 0#1 (cat t.bit 0#6))))))))
  | .vrmax d a k t => some (pack (cat 0x24#6 (cat d (cat a (cat 0#5 (cat k (cat 0#1 (cat t.bit 1#6))))))))
  | .vrmin d a k t => some (pack (cat 0x24#6 (cat d (cat a (cat 0#5 (cat k (cat 0#1 (cat t.bit 2#6))))))))
  | .vscan d a k t => some (pack (cat 0x24#6 (cat d (cat a (cat 0#5 (cat k (cat 0#1 (cat t.bit 3#6))))))))
  | .vbcast d a z w k => some (pack (cat 0x25#6 (cat d (cat a (cat 0#2 (cat (BitVec.ofBool z) (cat w.bits (cat k 0#8))))))))
  | .vextr d a b w => some (pack (cat 0x25#6 (cat d (cat a (cat b (cat 0#1 (cat w.bits 1#8)))))))
  | .vins d a b w => some (pack (cat 0x25#6 (cat d (cat a (cat b (cat 0#1 (cat w.bits 2#8)))))))
  | .vperm d a b k => some (pack (cat 0x25#6 (cat d (cat a (cat b (cat k 3#8))))))
  | .vslide d a s k => some (pack (cat 0x25#6 (cat d (cat a (cat s (cat k 4#8))))))
  | .vsel d a b k => some (pack (cat 0x25#6 (cat d (cat a (cat b (cat k 5#8))))))
  | .vcmpEq d a b k => some (pack (cat 0x26#6 (cat d (cat a (cat b (cat k 0#8))))))
  | .vcmpNe d a b k => some (pack (cat 0x26#6 (cat d (cat a (cat b (cat k 1#8))))))
  | .vcmpLt d a b k => some (pack (cat 0x26#6 (cat d (cat a (cat b (cat k 2#8))))))
  | .vcmpLe d a b k => some (pack (cat 0x26#6 (cat d (cat a (cat b (cat k 3#8))))))
  | .vcmpLtu d a b k => some (pack (cat 0x26#6 (cat d (cat a (cat b (cat k 4#8))))))
  | .vcmpLeu d a b k => some (pack (cat 0x26#6 (cat d (cat a (cat b (cat k 5#8))))))
  | .vfcmpEq d a b k => some (pack (cat 0x26#6 (cat d (cat a (cat b (cat k 8#8))))))
  | .vfcmpLt d a b k => some (pack (cat 0x26#6 (cat d (cat a (cat b (cat k 9#8))))))
  | .vfcmpLe d a b k => some (pack (cat 0x26#6 (cat d (cat a (cat b (cat k 10#8))))))
  | .vfcmpUn d a b k => some (pack (cat 0x26#6 (cat d (cat a (cat b (cat k 11#8))))))
  | .kand d a b => some (pack (cat 0x26#6 (cat d (cat a (cat b 16#11)))))
  | .kor d a b => some (pack (cat 0x26#6 (cat d (cat a (cat b 17#11)))))
  | .kxor d a b => some (pack (cat 0x26#6 (cat d (cat a (cat b 18#11)))))
  | .kandn d a b => some (pack (cat 0x26#6 (cat d (cat a (cat b 19#11)))))
  | .kmovToG d a => some (pack (cat 0x26#6 (cat d (cat a 24#16))))
  | .kmovFromG d a => some (pack (cat 0x26#6 (cat d (cat a 25#16))))
  | .kpopc d a => some (pack (cat 0x26#6 (cat d (cat a 32#16))))
  | .vaddc d a b c => some (pack (cat 0x27#6 (cat d (cat a (cat b (cat c 0#8))))))
  | .vsubb d a b c => some (pack (cat 0x27#6 (cat d (cat a (cat b (cat c 1#8))))))
  | .vrnsf d a b k => some (pack (cat 0x27#6 (cat d (cat a (cat b (cat k 2#8))))))
  | .vrnsr d a b k => some (pack (cat 0x27#6 (cat d (cat a (cat b (cat k 3#8))))))
  | .vld v a k o => some (pack (cat 0x28#6 (cat v (cat a (cat 0#5 (cat k (cat 0#3 o)))))))
  | .vst v a k o => some (pack (cat 0x28#6 (cat v (cat a (cat 0#5 (cat k (cat 1#3 o)))))))
  | .vlds v a b k o => some (pack (cat 0x28#6 (cat v (cat a (cat b (cat k (cat 2#3 o)))))))
  | .vsts v a b k o => some (pack (cat 0x28#6 (cat v (cat a (cat b (cat k (cat 3#3 o)))))))
  | .vldx v a b k o => some (pack (cat 0x28#6 (cat v (cat a (cat b (cat k (cat 4#3 o)))))))
  | .vstx v a b k o => some (pack (cat 0x28#6 (cat v (cat a (cat b (cat k (cat 5#3 o)))))))
  | .vscatadd v a b k t => some (pack (cat 0x28#6 (cat v (cat a (cat b (cat k (cat 6#3 (cat t.bit 0#4))))))))
  | .fmtx a b c s r t d => some (pack (cat 0x36#6 (cat a (cat b (cat c (cat s (cat r (cat (BitVec.ofBool t) (cat d 0#5)))))))))
  | .gets d n => some (pack (cat 0x1c#6 (cat d (cat n 0#9))))
  | .sets s n => some (pack (cat 0x1c#6 (cat s (cat n 1#9))))
  | .brk c => some (pack (cat 0x1c#6 (cat 0#5 (cat c 2#9))))
  | .send v a b n => some (pack (cat 0x29#6 (cat 0#4 (cat (BitVec.ofBool v) (cat a (cat b (cat n 0#6)))))))
  | .reply v a b n => some (pack (cat 0x29#6 (cat 0#4 (cat (BitVec.ofBool v) (cat a (cat b (cat n 1#6)))))))
  | .fwd a n => some (pack (cat 0x29#6 (cat 0#5 (cat a (cat 0#9 (cat (BitVec.ofBool n) 2#6))))))
  | .endAct => some (pack (cat 0x29#6 3#26))
  | .defer => some (pack (cat 0x29#6 4#26))
  | .tgget d f => some (pack (cat 0x2a#6 (cat d (cat 0#10 (cat f 0#6)))))
  | .tgset a f => some (pack (cat 0x2a#6 (cat 0#5 (cat a (cat 0#5 (cat f 1#6))))))
  | .tginc a i f => some (pack (cat 0x2a#6 (cat 0#5 (cat a (cat i (cat f 2#6))))))
  | .tgpush a => some (pack (cat 0x2a#6 (cat 0#5 (cat a 3#16))))
  | .tgpop d => some (pack (cat 0x2a#6 (cat d 4#21)))
  | .tgnew d => some (pack (cat 0x2a#6 (cat d 5#21)))
  | .qget d m n => some (pack (cat 0x2b#6 (cat d (cat 0#5 (cat m (cat 0#3 (cat n 0#6)))))))
  | .qput a m n => some (pack (cat 0x2b#6 (cat 0#5 (cat a (cat 0#7 (cat (BitVec.ofBool m) (cat n 1#6)))))))
  | .qpoll d n => some (pack (cat 0x2b#6 (cat d (cat 0#13 (cat n 2#6)))))
  | .mrtn => some (pack (cat 0x2b#6 3#26))
  | .cntadd a b i => some (pack (cat 0x2b#6 (cat 0#5 (cat a (cat b (cat i 4#6))))))
  | .cntset a b c => some (pack (cat 0x2b#6 (cat 0#5 (cat a (cat b (cat c 5#6))))))
  | .cntget d a => some (pack (cat 0x2b#6 (cat d (cat a 6#16))))
  | .barjoin a b c => some (pack (cat 0x34#6 (cat 0#5 (cat a (cat b (cat c 0#6))))))
  | .barval d g => some (pack (cat 0x34#6 (cat d (cat 0#11 (cat g 1#6)))))
  | .gldb d a o => some (pack (cat 0x19#6 (cat d (cat a (cat 0#3 o)))))
  | .gldbu d a o => some (pack (cat 0x19#6 (cat d (cat a (cat 1#3 o)))))
  | .gldh d a o => some (pack (cat 0x19#6 (cat d (cat a (cat 2#3 o)))))
  | .gldhu d a o => some (pack (cat 0x19#6 (cat d (cat a (cat 3#3 o)))))
  | .gldw d a o => some (pack (cat 0x19#6 (cat d (cat a (cat 4#3 o)))))
  | .gldwu d a o => some (pack (cat 0x19#6 (cat d (cat a (cat 5#3 o)))))
  | .gldd d a o => some (pack (cat 0x19#6 (cat d (cat a (cat 6#3 o)))))
  | .gldv v a o => some (pack (cat 0x19#6 (cat v (cat a (cat 7#3 o)))))
  | .gstb s a o => some (pack (cat 0x1a#6 (cat s (cat a (cat 0#3 o)))))
  | .gsth s a o => some (pack (cat 0x1a#6 (cat s (cat a (cat 1#3 o)))))
  | .gstw s a o => some (pack (cat 0x1a#6 (cat s (cat a (cat 2#3 o)))))
  | .gstd s a o => some (pack (cat 0x1a#6 (cat s (cat a (cat 3#3 o)))))
  | .gatomAdd d a b => some (pack (cat 0x2d#6 (cat d (cat a (cat b 3#11)))))
  | .gatomCas d a b => some (pack (cat 0x2d#6 (cat d (cat a (cat b 67#11)))))
  | .gatomSwap d a b => some (pack (cat 0x2d#6 (cat d (cat a (cat b 131#11)))))
  | .gatomMax d a b => some (pack (cat 0x2d#6 (cat d (cat a (cat b 195#11)))))
  | .gatomMin d a b => some (pack (cat 0x2d#6 (cat d (cat a (cat b 259#11)))))
  | .gatomFxadd a b => some (pack (cat 0x2d#6 (cat 0#5 (cat a (cat b 323#11)))))
  | .gatomFxrd d a p => some (pack (cat 0x2d#6 (cat d (cat a (cat 0#4 (cat p.bit 387#11))))))
  | .acq d a b c => some (pack (cat 0x2d#6 (cat d (cat a (cat b (cat c 0#6))))))
  | .rel a b => some (pack (cat 0x2d#6 (cat 0#5 (cat a (cat b 1#11)))))
  | .fenceLocal => some (pack (cat 0x2d#6 2#26))
  | .fencePut => some (pack (cat 0x2d#6 66#26))
  | .fenceDie => some (pack (cat 0x2d#6 130#26))
  | .fenceModule => some (pack (cat 0x2d#6 194#26))
  | .btld d a b => some (pack (cat 0x33#6 (cat d (cat a (cat b 0#11)))))
  | .btswap d a b => some (pack (cat 0x33#6 (cat d (cat a (cat b 1#11)))))
  | .btref d a b => some (pack (cat 0x33#6 (cat d (cat a (cat b 2#11)))))
  | .get t a b c => some (pack (cat 0x2e#6 (cat t (cat a (cat b (cat c 0#6))))))
  | .put t a b c => some (pack (cat 0x2e#6 (cat t (cat a (cat b (cat c 1#6))))))
  | .getx t a b c => some (pack (cat 0x2e#6 (cat t (cat a (cat b (cat c 2#6))))))
  | .putx t a b c => some (pack (cat 0x2e#6 (cat t (cat a (cat b (cat c 3#6))))))
  | .ratomAdd t a b => some (pack (cat 0x2e#6 (cat t (cat a (cat b 4#11)))))
  | .ratomCas t a b => some (pack (cat 0x2e#6 (cat t (cat a (cat b 68#11)))))
  | .ratomSwap t a b => some (pack (cat 0x2e#6 (cat t (cat a (cat b 132#11)))))
  | .ratomMax t a b => some (pack (cat 0x2e#6 (cat t (cat a (cat b 196#11)))))
  | .ratomMin t a b => some (pack (cat 0x2e#6 (cat t (cat a (cat b 260#11)))))
  | .ratomFxadd t a b => some (pack (cat 0x2e#6 (cat t (cat a (cat b 324#11)))))
  | .ratomFxrd t a b => some (pack (cat 0x2e#6 (cat t (cat a (cat b 388#11)))))
  | .ratomSubst t a b => some (pack (cat 0x2e#6 (cat t (cat a (cat b 452#11)))))
  | .give a o => some (pack (cat 0x2f#6 (cat 0#5 (cat a (cat 0#5 (cat o 0#6))))))
  | .take a => some (pack (cat 0x2f#6 (cat 0#5 (cat a 1#16))))
  | .ttest d a => some (pack (cat 0x2f#6 (cat d (cat a 2#16))))
  | .mmrun t a b => some (pack (cat 0x30#6 (cat t (cat a (cat b 0#11)))))
  | .mmstat d => some (pack (cat 0x30#6 (cat d 1#21)))
  | .slotld a b => some (pack (cat 0x30#6 (cat 0#5 (cat a (cat b 2#11)))))
  | .sego t a b => some (pack (cat 0x31#6 (cat t (cat a (cat b 0#11)))))
  | .sestat d a => some (pack (cat 0x31#6 (cat d (cat a 1#16))))
  | .sacp t a b c => some (pack (cat 0x32#6 (cat t (cat a (cat b (cat c 0#6))))))
  | .sacc t a b c => some (pack (cat 0x32#6 (cat t (cat a (cat b (cat c 1#6))))))
  | .tret d a b => some (pack (cat 0x35#6 (cat d (cat a (cat b 0#11)))))
  | .tlbwr d a b => some (pack (cat 0x35#6 (cat d (cat a (cat b 1#11)))))
  | .tlbinv d a b => some (pack (cat 0x35#6 (cat d (cat a (cat b 2#11)))))
  | .domkill a => some (pack (cat 0x35#6 (cat 0#5 (cat a 3#16))))
  | .colkill a => some (pack (cat 0x35#6 (cat 0#5 (cat a 4#16))))
  | .gangsw d a b => some (pack (cat 0x35#6 (cat d (cat a (cat b 5#11)))))
  | .logctl d a b => some (pack (cat 0x35#6 (cat d (cat a (cat b 6#11)))))
  | .halt a => some (pack (cat 0x35#6 (cat 0#5 (cat a 7#16))))
  | .loopb k r a => some (pack (cat 0x35#6 (cat 0#3 (cat (BitVec.ofBool k) (cat (BitVec.ofBool r) (cat a 8#16))))))
  | .colourAllocatorAnswer _ _ => none
  | .storeQueuePerform _ _ => none
  | .messageArrival _ _ => none
  | .voteTimeout _ _ => none
  | .spillRefill _ _ => none
  | .matchOverflowService _ => none
  | .timerTick _ => none
  | .dispatch _ => none
  | .barrierJoinArrival _ => none
  | .barrierCompletion _ => none
  | .translationRequest _ _ => none
  | .tlbFill _ _ => none
  | .tlbFaultAnswer _ _ _ => none
  | .dupCollapse _ _ => none
  | .copyOnWrite _ _ => none
  | .btCopyOnWrite _ _ => none
  | .rmaPortOperation _ => none
  | .rmaCompletion _ _ => none
  | .mmrunAccept _ => none
  | .marimbaBlockAccumulate _ => none
  | .marimbaRunComplete _ => none
  | .streamProgramStart _ => none
  | .streamProgramEnd _ => none
  | .sacAccept _ => none
  | .sacComplete _ => none
  | .slotPhaseSwitch _ => none
  | .trapDelivery _ _ => none
  | .serviceVerdict _ => none
  | .doubleFault _ => none
  | .uncorrectableError _ => none
  | .correctedError _ => none
  | .colourKillArrival _ _ _ _ _ => none
  | .colourReclaimSweep _ => none
  | .domainKill _ _ => none
  | .channelRemap _ _ => none
  | .dieViral _ => none
  | .dieFence _ => none
  | .dieResetInPlace _ _ => none
  | .gongStop _ => none
  | .gangSwitch _ => none
  | .gangResume _ => none
  | .linkUp _ => none
  | .forzenFrame _ _ => none
  | .linkRetrain _ _ => none
  | .pathDown _ => none
  | .dropNotice _ => none
  | .reservationGrant _ _ _ => none
  | .multicastStore _ _ _ => none
  | .federatedColourKill _ _ _ _ => none
  | .federationModuleLoss _ _ => none
  | .launchRecord _ _ => none
  | .hostReturnRecord => none
  | .rsizeWrite _ _ => none
  | .rlostWrite _ => none
  | .debugStop _ => none
  | .debugResume _ => none
  | .debugKill _ => none
  | .hostRegisterWrite _ _ _ => none
  | .readConfig => none
  | .setMod _ => none
  | .bindFn _ _ => none
  | .setKeys _ _ _ => none
  | .quote _ => none
  | .readCert => none
  | .readLifetime => none
  | .setCap _ => none
  | .containerLoad _ _ _ => none
  | .moduleReset _ => none
  | .avsWindowEnd _ _ _ => none
  | .powerCapStep _ => none
  | .lifetimeCommit _ _ => none
  | .notAnInstruction _ => none
  | .instructionFetch => none
  | .pendingWrite _ => none
  | .globalAnswerReturn _ _ => none
  | .btServiceAnswer _ _ => none
  | .engineAnswer _ _ => none
  | .gongRootAnswer _ _ => none
  | .packetHop _ => none
  | .reservationIdle _ => none
  | .linkFailure _ => none
  | .stackFailure _ => none
  | .multicastGroupRegistration _ _ _ _ _ _ => none
  | .federationRegistration _ _ => none
  | .jobLeaves _ => none
  | .singleTileReplay _ _ => none

/-- Little-endian word of four bytes (R61). -/
def wordOfBytes (b0 b1 b2 b3 : Byte) : BitVec 32 := b3 ++ b2 ++ b1 ++ b0

/-- The instruction at the head of a byte stream, and the bytes after it (R61). -/
def decodeBytes : List Byte → Option (Except DecodeErr Instr × List Byte)
  | b0 :: b1 :: b2 :: b3 :: rest => some (decode (wordOfBytes b0 b1 b2 b3), rest)
  | _ => none

/-- Byte `i` of the word of a table row. -/
def byteAt (w i : Nat) : Byte := BitVec.ofNat 8 (w >>> (8 * i))

/-- The instruction the decoder reads from a word of the opcode table: the word's four bytes in little-endian
order (R61) given to `decodeBytes`. -/
def decodeTableWord (nbits w : Nat) : Option Instr :=
  if nbits = 0 then none
  else
    let v := w % 2 ^ nbits
    match decodeBytes [byteAt v 0, byteAt v 1, byteAt v 2, byteAt v 3] with
    | some (.ok i, _) => some i
    | _ => none

end Sys2Proof
end

