-- ==== Sys2Proof/Config.lean ====
section
/-! DEFINITION. What the manual leaves open and the model leaves free: opaque functions without a body, applied
to the counter `State.fv` or to the operands they depend on.  No proof can see a value of one. -/

namespace Sys2Proof.Config

/-- Free choices: which pending step of `State.later` is taken, which free colour the allocator returns (R194),
which qualifying spare column the loader takes (R318).  Applied to the counter of free values (log 4, 5). -/
opaque pick : Nat → Nat

/-- Whether a die cache evicts the line an access names just before that access (R235, R236: the manual gives
no replacement rule a program can rely on; log 6). -/
opaque evict : Nat → Bool

/-- The set of a die cache that a line belongs to (R235: 49,152 sets; the manual gives no index function; log 6). -/
opaque cacheSet : Nat → Nat

/-- Whether a target performed an access whose link failed in flight (R245, R269: "is not known"; log 7). -/
opaque performed : Nat → Bool


/-- The SHA-256 digest of the root public key, fused into every die (R444; log 8). -/
opaque rootKey : BitVec 256

/-- The SLH-DSA-SHA2-128s signature of a quote (R446, R447; log 8): under the identity key that a fused device secret and the value of
register 0 of die 24 derive. -/
opaque quoteSignature : BitVec 256 → List Byte → List Byte

/-- The certificate of the identity key (R446; log 8). -/
opaque certificate : List Byte

/-- The address under which a physical target is homed inside a die (R235: "a fixed hash formed at die reset"; log 8). -/
opaque homeHash : Nat → Nat

/-- Whether a SIGNATURE section verifies over a header (R86, FIPS 205), given algorithm, key digest, signature and header (log 8). -/
opaque sigValid : Nat → BitVec 256 → List Byte → List Byte → Bool

/-- Byte `i` of what another module's tile answers to an operation (R423: the state of other modules is not here; log 21). -/
opaque remoteByte : Nat → Nat → Byte

/-- Doubleword `i` of a record or message part to which the manual gives no contents (R394, R442; log 22). -/
opaque openWord : Nat → Nat → Word

/-- Bytes a tile's log ring in HBM holds (R393: its size is not given; log 28). -/
opaque logRing : Nat

/-- Whether a residue channel's rectangle occupies a row of a die of a job (R318: the loader's choice of spares takes account of rectangles
that only software lays out; log 35). -/
opaque channelRow : Nat → Nat → Nat → Bool

/-- Bytes per 256 beats that the memory targets and tile ports behind a Forzen port absorb (R434: not given; log 20). -/
opaque ingressRate : Nat → Nat

/-- Whether an ingress port drops a packet of droppable priority (R433: its threshold is not given; log 21). -/
opaque ingressDrop : Nat → Bool

/-- Whether the read of a handler table entry that an arrival waits for is still under way (R152: how long it takes is not given; log 10). -/
opaque lateEntry : Nat → Nat → Bool

end Sys2Proof.Config
end

