-- ==== Sys2Proof/Machine/Num.lean ====
section
/-! DEFINITION. Number formats and exact arithmetic (02: R32 to R60): exact dyadic numbers, the formats, one
rounding into a format or to an integer, division, square root, 2^x and log2 x. -/

namespace Sys2Proof.Machine

/-- Rounding codes (R40). -/
inductive Rm | rne | rtz | rdn | rup | rna | sto
  deriving DecidableEq, Repr

/-- Rounding code of its number (R40); 6 and 7 name none and are refused where they can appear. -/
def rmOf (n : Nat) : Rm :=
  match n with
  | 0 => .rne | 1 => .rtz | 2 => .rdn | 3 => .rup | 4 => .rna | _ => .sto

/-- A decoded number: NaN (signalling or not), infinity, or (−1)^neg · m · 2^e exactly. -/
inductive FVal
  | nan (sig : Bool)
  | inf (neg : Bool)
  | fin (neg : Bool) (m : Nat) (e : Int)
  deriving DecidableEq, Repr

/-- Number of bits of `n`. -/
def bitLen (n : Nat) : Nat := if n = 0 then 0 else n.log2 + 1

/-- m · 2^e rounded to a multiple of 2^q: the multiple, and whether bits were lost (R40, R41: under STO the 32 most
significant discarded bits are added to `draw`). -/
def shiftRound (rm : Rm) (draw : Nat) (neg : Bool) (m : Nat) (e q : Int) : Nat × Bool :=
  if q ≤ e then (m * 2 ^ (e - q).toNat, false)
  else
    let u := 2 ^ (q - e).toNat
    let n := m / u
    let r := m % u
    let up : Bool := match rm with
      | .rne => decide (2 * r > u) || (decide (2 * r = u) && n % 2 == 1)
      | .rtz => false
      | .rdn => neg && r != 0
      | .rup => !neg && r != 0
      | .rna => decide (2 * r ≥ u)
      | .sto => decide (r * 2 ^ 32 / u + draw ≥ 2 ^ 32)
    (if up then n + 1 else n, r != 0)

/-- A floating-point format (R34 to R36): width, fraction bits, exponent of the smallest subnormal, largest finite
encoding, and the encodings of infinity and of the canonical NaN where it has them. -/
structure Fmt where
  width : Nat
  mb : Nat
  qmin : Int
  maxBits : Nat
  inf : Option Nat
  nan : Option Nat
  deriving DecidableEq, Repr

/-- binary64 (R34). -/
def fp64 : Fmt := ⟨64, 52, -1074, 0x7FEFFFFFFFFFFFFF, some 0x7FF0000000000000, some 0x7FF8000000000000⟩
/-- binary32 (R34). -/
def fp32 : Fmt := ⟨32, 23, -149, 0x7F7FFFFF, some 0x7F800000, some 0x7FC00000⟩
/-- BF16 (R34). -/
def bf16 : Fmt := ⟨16, 7, -133, 0x7F7F, some 0x7F80, some 0x7FC0⟩
/-- binary16 (R34). -/
def fp16 : Fmt := ⟨16, 10, -24, 0x7BFF, some 0x7C00, some 0x7E00⟩
/-- E4M3 (R35). -/
def e4m3 : Fmt := ⟨8, 3, -9, 0x7E, none, some 0x7F⟩
/-- E5M2 (R35). -/
def e5m2 : Fmt := ⟨8, 2, -16, 0x7B, some 0x7C, some 0x7E⟩
/-- E3M2 (R36). -/
def e3m2 : Fmt := ⟨6, 2, -4, 0x1F, none, none⟩
/-- E2M3 (R36). -/
def e2m3 : Fmt := ⟨6, 3, -3, 0x1F, none, none⟩
/-- E2M1 (R36). -/
def e2m1 : Fmt := ⟨4, 1, -1, 0x7, none, none⟩

/-- The number an encoding stands for (R34 to R36). -/
def Fmt.dec (f : Fmt) (bits : Nat) : FVal :=
  let neg := bits.testBit (f.width - 1)
  let c := bits % 2 ^ (f.width - 1)
  let number := if c < 2 ^ f.mb then FVal.fin neg c f.qmin
    else .fin neg (2 ^ f.mb + c % 2 ^ f.mb) (f.qmin + (c / 2 ^ f.mb : Nat) - 1)
  match f.inf with
  | some i => if c < i then number else if c = i then .inf neg else .nan (!c.testBit (f.mb - 1))
  | none => if f.nan = some c then .nan false else number

/-- An encoding with its sign. -/
def Fmt.signed (f : Fmt) (neg : Bool) (c : Nat) : Nat := if neg then 2 ^ (f.width - 1) + c else c

/-- A number as it stands after one rounding into a format: the encoding, the IEEE 754 flags, and what R39 counts:
a finite input that exceeds the format, a result replaced by the largest finite, a NaN made of no NaN, and a nonzero
input that became zero. -/
structure Rounded where
  bits : Nat
  nv : Bool
  of : Bool
  uf : Bool
  nx : Bool
  ovf : Bool
  satd : Bool
  mkNan : Bool
  under : Bool
  deriving DecidableEq, Repr

/-- A result with no event. -/
def Rounded.exact (bits : Nat) : Rounded := ⟨bits, false, false, false, false, false, false, false, false⟩

/-- Whether an overflow goes to infinity rather than to the largest finite number (R38, R40). -/
def toInf (rm : Rm) (neg : Bool) : Bool :=
  match rm with
  | .rtz => false
  | .rdn => neg
  | .rup => !neg
  | _ => true

/-- One rounding into a floating-point format (R38, R40, R42).  Tininess is detected after rounding.  DESIGN CHOICE (log 58): an infinite input
that becomes the largest finite number, or an E4M3 NaN, raises no flag, and a finite E4M3 overflow to NaN raises OF and NX but not NV. -/
def Fmt.round (f : Fmt) (rm : Rm) (sat : Bool) (draw : Nat) (v : FVal) : Rounded :=
  match v with
  | .nan sig =>
    match f.nan with
    | some n => { Rounded.exact n with nv := sig }
    | none => { Rounded.exact 0 with nv := true }
  | .inf neg =>
    match f.inf, f.nan with
    | some i, _ => if sat then { Rounded.exact (f.signed neg f.maxBits) with satd := true } else Rounded.exact (f.signed neg i)
    | none, some n => if sat then { Rounded.exact (f.signed neg f.maxBits) with satd := true }
        else { Rounded.exact n with mkNan := true }
    | none, none => { Rounded.exact (f.signed neg f.maxBits) with satd := true }
  | .fin neg m e =>
    if m = 0 then Rounded.exact (f.signed neg 0)
    else
      let top : Int := e + (bitLen m : Nat) - 1
      let q := max f.qmin (top - f.mb)
      let (n, nx) := shiftRound rm draw neg m e q
      let c := (q - f.qmin).toNat * 2 ^ f.mb + n
      if c > f.maxBits then
        match f.inf, f.nan with
        | some i, _ =>
          if !sat && toInf rm neg then ⟨f.signed neg i, false, true, false, true, true, false, false, false⟩
          else ⟨f.signed neg f.maxBits, false, true, false, true, true, true, false, false⟩
        | none, some nn =>
          if sat then ⟨f.signed neg f.maxBits, false, true, false, true, true, true, false, false⟩
          else ⟨nn, false, true, false, true, true, false, true, false⟩
        | none, none => ⟨f.signed neg f.maxBits, false, true, false, true, true, true, false, false⟩
      else
        let q' := top - f.mb
        let n' := (shiftRound rm draw neg m e q').1
        let tiny : Bool := decide (q' + f.mb < f.qmin + f.mb) && decide (¬ (n' = 2 ^ (f.mb + 1) ∧ q' + 1 = f.qmin))
        ⟨f.signed neg c, false, false, tiny && nx, nx, false, false, false, c == 0⟩

/-- Rounds to an integer (R60 RoundInt): the integer and whether it is inexact. -/
def roundInt (rm : Rm) (draw : Nat) (neg : Bool) (m : Nat) (e : Int) : Int × Bool :=
  let (n, nx) := shiftRound rm draw neg m e 0
  (if neg then -(n : Int) else n, nx)

/-- Conversion into an integer target lo…hi (R38): clamped values set NV and not NX; a NaN gives 0 and NV. -/
def roundToInt (lo hi : Int) (rm : Rm) (draw : Nat) (v : FVal) : Int × Rounded :=
  match v with
  | .nan _ => (0, { Rounded.exact 0 with nv := true })
  | .inf neg => (if neg then lo else hi, { Rounded.exact 0 with nv := true, satd := true })
  | .fin neg m e =>
    if m = 0 then (0, Rounded.exact 0)
    else
      -- a magnitude of 2^200 or more is beyond every target, and is not computed
      let big : Bool := decide (e + (bitLen m : Nat) > 200)
      let (n, nx) := if big then (if neg then lo - 1 else hi + 1, false) else roundInt rm draw neg m e
      if n < lo then (lo, { Rounded.exact 0 with nv := true, ovf := true, satd := true })
      else if n > hi then (hi, { Rounded.exact 0 with nv := true, ovf := true, satd := true })
      else (n, { Rounded.exact 0 with nx := nx, under := n == 0 })

/-- The exact sum of two finite numbers; an exact zero takes the sign of two zeros of one sign, else −0 under RDN only (R106). -/
def addFin (rm : Rm) (na : Bool) (ma : Nat) (ea : Int) (nb : Bool) (mb : Nat) (eb : Int) : FVal :=
  let e := min ea eb
  let a : Int := (if na then -1 else 1) * (ma * 2 ^ (ea - e).toNat : Nat)
  let b : Int := (if nb then -1 else 1) * (mb * 2 ^ (eb - e).toNat : Nat)
  let s := a + b
  if s = 0 then
    if ma = 0 ∧ mb = 0 ∧ na = nb then .fin na 0 0 else .fin (rm == .rdn) 0 0
  else .fin (decide (s < 0)) s.natAbs e

/-- Integer square root by binary digits: `root bits n` is ⌊√n⌋ for n < 4^bits (structural in `bits`). -/
def isqrtGo : Nat → Nat → Nat → Nat
  | 0, _, r => r
  | k + 1, n, r => let t := r + 2 ^ k; isqrtGo k n (if t * t ≤ n then t else r)

/-- ⌊√n⌋. -/
def isqrt (n : Nat) : Nat := isqrtGo (bitLen n / 2 + 1) n 0

/-- The exact quotient of two nonzero finite magnitudes, to at least 150 significant bits with a sticky last bit. -/
def divFin (neg : Bool) (ma : Nat) (ea : Int) (mb : Nat) (eb : Int) : FVal :=
  let k := bitLen mb + 150
  let n := ma * 2 ^ k
  let q := n / mb
  if n % mb = 0 then .fin neg q (ea - eb - k) else .fin neg (2 * q + 1) (ea - eb - k - 1)

/-- The square root of a nonzero finite magnitude, to at least 150 significant bits with a sticky last bit. -/
def sqrtFin (m : Nat) (e : Int) : FVal :=
  let e2 := e - (e % 2) - 300
  let n := m * 2 ^ (e - e2).toNat
  let r := isqrt n
  if r * r = n then .fin false r (e2 / 2) else .fin false (2 * r + 1) (e2 / 2 - 1)

/-- 1/√x of a nonzero finite magnitude, to at least 150 significant bits with a sticky last bit. -/
def rsqrtFin (m : Nat) (e : Int) : FVal :=
  let odd := e % 2
  let mm := m * 2 ^ odd.toNat
  let ee := (e - odd) / 2
  let k := bitLen mm + 400
  let q := 2 ^ (2 * k) / mm
  let r := isqrt q
  if r * r * mm = 2 ^ (2 * k) then .fin false r (-(k : Int) - ee) else .fin false (2 * r + 1) (-(k : Int) - ee - 1)

/-- Fraction bits of the fixed-point sums below; far more than the distance of any 32-bit result from a rounding
boundary needs (log 15). -/
def seriesBits : Nat := 320

/-- Σ 1/(k·2^k), k = n … 1, in units of 2^−320: ln 2 for n = 330. -/
def ln2Go : Nat → Nat
  | 0 => 0
  | k + 1 => 2 ^ seriesBits / ((k + 1) * 2 ^ (k + 1)) + ln2Go k

/-- ln 2 in units of 2^−320 (log 15). -/
def ln2Fix : Nat := ln2Go 330

/-- e^t for 0 ≤ t < 1 by Horner's rule over `n` terms, in units of 2^−320. -/
def expGo : Nat → Nat → Nat → Nat
  | 0, _, acc => acc
  | k + 1, t, acc => expGo k t (2 ^ seriesBits + acc * t / ((k + 1) * 2 ^ seriesBits))

/-- 2^x of a nonzero finite x: exact at integers, else with a sticky last bit (R43). -/
def exp2Fin (neg : Bool) (m : Nat) (e : Int) : FVal :=
  if e + (bitLen m : Nat) > 15 then .fin false 1 (if neg then -40000 else 40000)
  else
    -- x in units of 2^−320; a bit below that scale only makes the result inexact
    let fx : Int := (if neg then -1 else 1) * (if e ≥ -320 then (m * 2 ^ (e + 320).toNat : Nat) else (0 : Nat))
    let tinyLoss : Bool := decide (e < -320)
    let ip := fx / 2 ^ seriesBits
    let fr := (fx % 2 ^ seriesBits).toNat
    if fr = 0 && !tinyLoss then .fin false 1 ip
    else .fin false (2 * expGo 80 (fr * ln2Fix / 2 ^ seriesBits) (2 ^ seriesBits) + 1) (ip - seriesBits - 1)

/-- Σ z^(2k+1)/(2k+1), `n` terms, in units of 2^−320: atanh z for z ≤ 1/3. -/
def atanhGo : Nat → Nat → Nat → Nat → Nat
  | 0, _, _, _ => 0
  | k + 1, zz, pow, d => pow / d + atanhGo k zz (pow * zz / 2 ^ seriesBits) (d + 2)

/-- log2 of a nonzero finite magnitude: exact at powers of two, else with a sticky last bit (R43). -/
def log2Fin (m : Nat) (e : Int) : FVal :=
  let l := m.log2
  let ip : Int := e + l
  if m = 2 ^ l then .fin (decide (ip < 0)) ip.natAbs 0
  else
    let z := (m - 2 ^ l) * 2 ^ seriesBits / (m + 2 ^ l)
    let ln := 2 * atanhGo 120 (z * z / 2 ^ seriesBits) z 1
    let v : Int := ip * 2 ^ seriesBits + (ln * 2 ^ seriesBits / ln2Fix : Nat)
    let d := 2 * v + 1
    .fin (decide (d < 0)) d.natAbs (-(seriesBits : Int) - 1)

/-- The 32 bits a draw yields, and the generator's next state (R41). -/
def drawStep (s : Word) : Word :=
  let a := s ^^^ (s <<< 13)
  let b := a ^^^ (a >>> 7)
  b ^^^ (b <<< 17)

/-- The 32 bits of a draw whose new state is `s` (R41). -/
def drawBits (s : Word) : Nat := (s >>> 32).toNat

/-- Sext(x, n) of R60. -/
def sext (x : Nat) (n : Nat) : Word := (BitVec.ofNat n x).signExtend 64

/-- The signed value of the low n bits of x. -/
def sInt (x n : Nat) : Int := (BitVec.ofNat n x).toInt

/-- Bits [hi:lo] of a doubleword as a number (R7). -/
def bits (w : Word) (hi lo : Nat) : Nat := w.toNat / 2 ^ lo % 2 ^ (hi + 1 - lo)

/-- A word with bits [hi:lo] replaced. -/
def setBits (w : Word) (hi lo v : Nat) : Word :=
  BitVec.ofNat 64 (w.toNat - bits w hi lo * 2 ^ lo + v % 2 ^ (hi + 1 - lo) * 2 ^ lo)

end Sys2Proof.Machine
end

