-- ==== Sys2Proof/Machine/Flags.lean ====
section
/-! DEFINITION. The sticky flags (R16, R42) and the floating-point operations that raise them (R43, R105 to R111). -/

namespace Sys2Proof.Machine

/-- The five flags NV, DZ, OF, UF, NX (R16). -/
structure Fl where
  nv : Bool := false
  dz : Bool := false
  of : Bool := false
  uf : Bool := false
  nx : Bool := false
  deriving DecidableEq, Repr

/-- Flags of several operations together. -/
def Fl.or (a b : Fl) : Fl := ⟨a.nv || b.nv, a.dz || b.dz, a.of || b.of, a.uf || b.uf, a.nx || b.nx⟩

/-- The flags as they stand in ST[12:8] (R16). -/
def Fl.word (f : Fl) : Word :=
  (if f.nv then 0x1000 else 0) ||| (if f.dz then 0x800 else 0) ||| (if f.of then 0x400 else 0) |||
    (if f.uf then 0x200 else 0) ||| (if f.nx then 0x100 else 0)

/-- A result with the flags it raises; `bad` tells a NaN produced by an invalid operation on operands that are no
NaN (R39). -/
structure FRes where
  bits : Nat
  fl : Fl
  bad : Bool := false
  deriving DecidableEq, Repr

/-- Flags of one rounding. -/
def Rounded.fl (r : Rounded) : Fl := ⟨r.nv, false, r.of, r.uf, r.nx⟩

/-- Rounding mode, saturation and draw of an operation. -/
structure Mode where
  rm : Rm
  sat : Bool
  draw : Nat
  deriving DecidableEq, Repr

/-- A finite or infinite result rounded once (R38, R42). -/
def finish (f : Fmt) (md : Mode) (v : FVal) : FRes :=
  let r := f.round md.rm md.sat md.draw v
  ⟨r.bits, r.fl, false⟩

/-- A NaN operand: the canonical NaN, NV for a signalling one (R34, R42). -/
def nanRes (f : Fmt) (sig : Bool) : FRes := ⟨f.nan.getD 0, { nv := sig }, false⟩

/-- An invalid operation: the canonical NaN and NV. -/
def invalid (f : Fmt) : FRes := ⟨f.nan.getD 0, { nv := true }, true⟩

/-- Whether a number is a signalling NaN. -/
def FVal.isSig : FVal → Bool | .nan s => s | _ => false
/-- Whether a number is a NaN. -/
def FVal.isNan : FVal → Bool | .nan _ => true | _ => false
/-- The number negated. -/
def FVal.neg : FVal → FVal | .nan s => .nan s | .inf n => .inf (!n) | .fin n m e => .fin (!n) m e
/-- The sign. -/
def FVal.sign : FVal → Bool | .nan _ => false | .inf n => n | .fin n _ _ => n
/-- Whether a number is zero. -/
def FVal.isZero : FVal → Bool | .fin _ m _ => m == 0 | _ => false

/-- a + b (R106). -/
def fAdd (f : Fmt) (md : Mode) (a b : FVal) : FRes :=
  match a, b with
  | .nan s, y => nanRes f (s || y.isSig)
  | .inf _, .nan s => nanRes f s
  | .inf m, .inf n => if m = n then finish f md (.inf m) else invalid f
  | .inf m, .fin _ _ _ => finish f md (.inf m)
  | .fin _ _ _, .nan s => nanRes f s
  | .fin _ _ _, .inf n => finish f md (.inf n)
  | .fin na ma ea, .fin nb mb eb => finish f md (addFin md.rm na ma ea nb mb eb)

/-- a × b as an exact number, or none where it is ∞ × 0 (R106, R111). -/
def mulExact (a b : FVal) : Option FVal :=
  match a, b with
  | .nan s, y => some (.nan (s || y.isSig))
  | x, .nan s => some (.nan (s || x.isSig))
  | .inf m, y => if y.isZero then none else some (.inf (m != y.sign))
  | x, .inf n => if x.isZero then none else some (.inf (x.sign != n))
  | .fin na ma ea, .fin nb mb eb => some (.fin (na != nb) (ma * mb) (ea + eb))

/-- a × b (R106). -/
def fMul (f : Fmt) (md : Mode) (a b : FVal) : FRes :=
  match mulExact a b with
  | none => invalid f
  | some (.nan s) => nanRes f s
  | some v => finish f md v

/-- a ÷ b (R106). -/
def fDiv (f : Fmt) (md : Mode) (a b : FVal) : FRes :=
  match a, b with
  | .nan s, y => nanRes f (s || y.isSig)
  | x, .nan s => nanRes f (s || x.isSig)
  | .inf m, y => match y with
    | .inf _ => invalid f
    | _ => finish f md (.inf (m != y.sign))
  | .fin na _ _, .inf n => finish f md (.fin (na != n) 0 0)
  | .fin na ma ea, .fin nb mb eb =>
    if mb = 0 then
      if ma = 0 then invalid f
      else { finish f ⟨md.rm, md.sat, md.draw⟩ (.inf (na != nb)) with fl := { dz := true } }
    else if ma = 0 then finish f md (.fin (na != nb) 0 0)
    else finish f md (divFin (na != nb) ma ea mb eb)

/-- √a (R106). -/
def fSqrt (f : Fmt) (md : Mode) (a : FVal) : FRes :=
  match a with
  | .nan s => nanRes f s
  | .inf n => if n then invalid f else finish f md (.inf false)
  | .fin n m e => if m = 0 then finish f md (.fin n 0 0) else if n then invalid f else finish f md (sqrtFin m e)

/-- ±(a × b) ± c with one rounding (R111): `np` negates the product, `nc` the addend.  FNMADD is the negated exact
sum rounded once, and its exact zero is the opposite of FMADD's. -/
def fMa (f : Fmt) (md : Mode) (negAll nc : Bool) (a b c : FVal) : FRes :=
  let c' := if nc then c.neg else c
  match mulExact a b with
  | none => { invalid f with bad := !c.isNan }
  | some (.nan s) => nanRes f (s || c'.isSig)
  | some p =>
    match p, c' with
    | _, .nan s => nanRes f s
    | .inf m, .inf n => if m = n then finish f md (.inf (m != negAll)) else invalid f
    | .inf m, _ => finish f md (.inf (m != negAll))
    | _, .inf n => finish f md (.inf (n != negAll))
    | .fin np mp ep, .fin n m e =>
      let s := addFin md.rm np mp ep n m e
      finish f md (if negAll then s.neg else s)
    | .nan s, _ => nanRes f s

/-- Order of two numbers that are no NaN, −0 equal to +0: −1, 0 or 1. -/
def fOrd (a b : FVal) : Int :=
  match a, b with
  | .inf m, .inf n => if m = n then 0 else if m then -1 else 1
  | .inf m, _ => if m then -1 else 1
  | _, .inf n => if n then 1 else -1
  | .fin na ma ea, .fin nb mb eb =>
    let e := min ea eb
    let x : Int := (if na then -1 else 1) * (ma * 2 ^ (ea - e).toNat : Nat)
    let y : Int := (if nb then -1 else 1) * (mb * 2 ^ (eb - e).toNat : Nat)
    if x < y then -1 else if x = y then 0 else 1
  | _, _ => 0

/-- a = b, a < b, a ≤ b (R108); false for a NaN. -/
def fEq (a b : FVal) : Bool := !a.isNan && !b.isNan && fOrd a b == 0
/-- a < b (R108). -/
def fLt (a b : FVal) : Bool := !a.isNan && !b.isNan && decide (fOrd a b < 0)
/-- a ≤ b (R108). -/
def fLe (a b : FVal) : Bool := !a.isNan && !b.isNan && decide (fOrd a b ≤ 0)

/-- minimumNumber and maximumNumber of two encodings (R107): −0 less than +0; the other operand of a NaN. -/
def fMinMax (f : Fmt) (isMax : Bool) (x y : Nat) : FRes :=
  let a := f.dec x
  let b := f.dec y
  let sig := a.isSig || b.isSig
  if a.isNan && b.isNan then nanRes f sig
  else if a.isNan then ⟨y, { nv := sig }, false⟩
  else if b.isNan then ⟨x, { nv := sig }, false⟩
  else
    let aLess : Bool := decide (fOrd a b < 0) || (fOrd a b == 0 && a.sign && !b.sign)
    ⟨if aLess != isMax then x else y, {}, false⟩

/-- The class mask of FCLASS (R109). -/
def fClass (f : Fmt) (x : Nat) : Nat :=
  match f.dec x with
  | .nan true => 2 ^ 8
  | .nan false => 2 ^ 9
  | .inf true => 2 ^ 0
  | .inf false => 2 ^ 7
  | .fin n _ _ =>
    let c := x % 2 ^ (f.width - 1)
    if c = 0 then (if n then 2 ^ 3 else 2 ^ 4)
    else if c < 2 ^ f.mb then (if n then 2 ^ 2 else 2 ^ 5)
    else if n then 2 ^ 1 else 2 ^ 6

/-- Conversion of a number into a floating format (R110). -/
def fCvt (f : Fmt) (md : Mode) (a : FVal) : FRes := finish f md a

/-- Conversion of a number into an integer of `w` bits, two's complement (R110). -/
def fToInt (w : Nat) (md : Mode) (a : FVal) : Int × Fl :=
  let (n, r) := roundToInt (-(2 ^ (w - 1) : Nat)) ((2 ^ (w - 1) : Nat) - 1) md.rm md.draw a
  (n, r.fl)

/-- The exact number of an integer. -/
def ofInt (n : Int) : FVal := .fin (decide (n < 0)) n.natAbs 0

/-- Round to nearest even, no saturation, no draw: the mode of R43 and of the fixed sums. -/
def modeRne : Mode := ⟨.rne, false, 0⟩

/-- 2^x (R43). -/
def fExp2 (f : Fmt) (a : FVal) : FRes :=
  match a with
  | .nan s => nanRes f s
  | .inf true => finish f modeRne (.fin false 0 0)
  | .inf false => finish f modeRne (.inf false)
  | .fin n m e => if m = 0 then finish f modeRne (.fin false 1 0) else finish f modeRne (exp2Fin n m e)

/-- log2 x (R43). -/
def fLog2 (f : Fmt) (a : FVal) : FRes :=
  match a with
  | .nan s => nanRes f s
  | .inf true => invalid f
  | .inf false => finish f modeRne (.inf false)
  | .fin n m e =>
    if m = 0 then { finish f modeRne (.inf true) with fl := { dz := true } }
    else if n then invalid f else finish f modeRne (log2Fin m e)

/-- 1/x (R43). -/
def fRcp (f : Fmt) (a : FVal) : FRes := fDiv f modeRne (.fin false 1 0) a

/-- 1/√x (R43): 1/√−0 is −∞. -/
def fRsq (f : Fmt) (a : FVal) : FRes :=
  match a with
  | .nan s => nanRes f s
  | .inf true => invalid f
  | .inf false => finish f modeRne (.fin false 0 0)
  | .fin n m e =>
    if m = 0 then { finish f modeRne (.inf n) with fl := { dz := true } }
    else if n then invalid f else finish f modeRne (rsqrtFin m e)

end Sys2Proof.Machine
end

