-- ==== Sys2Proof/Machine/State.lean ====
section
/-! DEFINITION. The state of a Ryuvik K24 module, as plain data: every piece of state the manual names, agent by agent
(INVENTORY.md, State).  Nothing here computes; the operations are in the other files of Machine/. -/

namespace Sys2Proof.Machine

/-- Sparse bytes by address, in one canonical form: addresses rise strictly and no listed byte is 0, which is
what an unlisted address reads as (log 3). -/
abbrev Cells := List Host.Cell

/-- The trap causes of R365. -/
inductive Cause
  | illegalInstruction | illegalPrefix | misaligned | paneOwnership | scratchBounds | pageFault | protection
  | targetGone | replyVnViolation | tagOverflow | rnsUncorrectable | rnsOverflow | breakpoint | privileged
  | uncorrectableData | watchdog | doubleFault
  deriving DecidableEq, Repr

/-- The states of a context (R24). -/
inductive CtxStatus | free | running | stalled | parked | trapped
  deriving DecidableEq, Repr

/-- The destination of a pending write (R89, R115). -/
inductive Dst
  | g (r : Reg) | v (r : Reg) | vx (r : Reg) | k (r : KReg)
  deriving DecidableEq, Repr

/-- A pending write of a context (R26): its value once known (none for a token its engine writes, R287) and
the beat from which it is made. -/
structure PWrite where
  dst : Dst
  val : Option VReg
  due : Nat
  deriving DecidableEq, Repr

/-- A message (R147): headers, tag and LEN payload doublewords. -/
structure Msg where
  h0 : Word
  h1 : Word
  tag : Word
  pay : List Word
  deriving DecidableEq, Repr

/-- A queue slot (R155): the left or only operand, its NI word (arrival order; right operand's SRC and payload), whether its copy in
memory, of a spill ring or of the match-overflow area, is poisoned (R374), and in a spill ring the operands whose log records are due when it
stands in its queue (R393). -/
structure Slot where
  msg : Msg
  order : Nat
  rightSrc : Nat
  rightPay : Option (List Word)
  bad : Bool
  owed : List Msg
  deriving DecidableEq, Repr

/-- Queue class (R84). -/
inductive QClass | low | high | rlow | rhigh
  deriving DecidableEq, Repr

/-- A handler queue (R155 to R157, R166): its image, its waiting slots (head first), SPILLING, its spill ring
(oldest first) and its dispatch credit. -/
structure Queue where
  en : Bool
  cls : QClass
  excl : Bool
  spill : Bool
  weight : Nat
  logDepth : Nat
  pane : Nat
  watchdog : Nat
  waiting : List Slot
  spilling : Bool
  ring : List Slot
  credit : Int
  deriving DecidableEq, Repr

/-- A handler table entry as the NI reads it (R82). -/
structure Handler where
  entry : Nat
  queue : Nat
  arity2 : Bool
  triple : Bool
  deriving DecidableEq, Repr

/-- The activation a context runs (R28, R156, R377, R383): its slot, its queue, its handler and copy index. -/
structure Activation where
  slot : Slot
  queue : Nat
  cls : QClass
  hid : Nat
  handler : Handler
  copy : Nat
  deriving DecidableEq, Repr

/-- A retired global store that waits in its context's store queue (R268). -/
structure Store where
  va : Nat
  pa : Nat
  size : Nat
  val : Word
  cached : Bool
  sync : Nat
  deriving DecidableEq, Repr

/-- What a stalled or parked instruction has asked of another agent (R194, R266, R270, R273, R277, R348, R403). -/
inductive ReqKind
  | load | atomAdd | atomCas | atomSwap | atomMax | atomMin | fxadd | fxrd | acq
  | btRead | btData | btWrite | btSwap | btRef | seStat | tgNew | gangSw | take | slotLoad | tlbInv
  deriving DecidableEq, Repr

/-- A request sent by an instruction that waits for its answer: its addresses and the register values it read. -/
structure GReq where
  kind : ReqKind
  va : Nat
  pa : Nat
  size : Nat
  cached : Bool
  sync : Nat
  x : Word
  y : Word
  deriving DecidableEq, Repr

/-- The state of a request: sent, answered, or failed with a trap for the instruction to take when it issues again. -/
inductive Wait
  | sent (r : GReq)
  | answered (r : GReq) (data : VReg)
  | failed (r : GReq) (cause : Cause) (va : Word)
  deriving DecidableEq, Repr

/-- R, W, X and A: what an entry of an access table grants (R450), or an access needs (R225). -/
structure Rights where
  r : Bool
  w : Bool
  x : Bool
  a : Bool
  deriving DecidableEq, Repr

/-- One Tabla context (R11, R14, R367).  `word` is the word of an instruction that has issued and has not retired (R24: STALLED or
PARKED), `waitsOn` the pending registers for which the scoreboard holds the next one (R89), `parkedNeed` what the access it is parked for
needs of its page, and `refilled` and `refetched` whether the TLB entry of its access or of its fetch was filled for it (R226). -/
structure Ctx where
  gs : Vector Word 32
  vs : Vector VReg 32
  vxs : Vector Word 32
  ks : Vector Pred 8
  ms : Vector Word 16
  tg : Word
  pc : Word
  st : Word
  pfx : BitVec 26
  tx : Word
  mh0 : Word
  mh1 : Word
  mlen : Word
  icount : BitVec 32
  mret : Word
  mvec : Vector Word 4
  rnsst : Word
  rnsch : Word
  wdog : BitVec 32
  rngseed : Word
  status : CtxStatus
  trapc : Word
  trappc : Word
  trapva : Word
  trapiw : Word
  pend : List PWrite
  act : Option Activation
  storeQ : List Store
  failedStore : Option Nat
  dirtied : List Nat
  wait : Option Wait
  parkedVa : Option Nat
  parkedWrite : Bool
  parkedNeed : Rights
  refilled : Bool
  refetched : Bool
  issueFrom : Nat
  word : Option (BitVec 32)
  waitsOn : List Dst
  deriving DecidableEq, Repr

/-- The owner of a pane (R81, R232). -/
inductive Owner | core | mm | rma | sac | ni | firmware
  deriving DecidableEq, Repr

/-- A pane's ownership record (R232, R233): RELEASING, its DOM, and how many accepted operations hold it. -/
structure Pane where
  owner : Owner
  releasing : Bool
  dom : Nat
  holds : Nat
  deriving DecidableEq, Repr

/-- A counter (R162). -/
structure Counter where
  value : Nat
  threshold : Nat
  hid : Nat
  tag : Word
  timer : Bool
  rearm : Bool
  armed : Bool
  deriving DecidableEq, Repr

/-- An entry of a neighbour FIFO (R182), and the beat of its QPUT: it is visible from the next (R196). -/
structure FifoEntry where
  data : Word
  mark : Bool
  dom : Nat
  col : Nat
  since : Nat
  deriving DecidableEq, Repr

/-- A TLB entry (R226) and its index (R373, R407). -/
structure TlbEntry where
  slot : Nat
  dom : Nat
  vpn : Nat
  big : Bool
  luc : Nat
  pte : Word
  deriving DecidableEq, Repr

/-- A vote entry (R384): the copies stored, whether it is DECIDED, the beat of the first copy, whether it stands in the overflow area of S
(R161), and whether it is poisoned there (R374). -/
structure Vote where
  hid : Nat
  tag : Word
  port : Bool
  origin : Nat
  copies : List Msg
  decided : Bool
  first : Nat
  overflowed : Bool
  bad : Bool
  deriving DecidableEq, Repr

/-- A barrier join (R204): what it carries to the Carillon root. -/
structure Join where
  tile : Nat
  tag : Word
  g : Nat
  n : Nat
  op : Nat
  hid : Nat
  val : Word
  place : Nat
  evc : List Nat
  deriving DecidableEq, Repr

/-- The asynchronous operations of R287. -/
inductive ReqOp | get | put | getx | putx | ratom (c : Nat) | mmrun | sego | sacp | sacc
  deriving DecidableEq, Repr

/-- An asynchronous request in the issue queue (R289): its issuer, its token register, its register operands and
the FMTX payload it consumed. -/
structure AsyncReq where
  op : ReqOp
  ctx : Nat
  tok : Reg
  dom : Nat
  col : Nat
  x : Word
  y : Word
  z : Word
  pfx : Option (BitVec 26)
  deriving DecidableEq, Repr

/-- An operation its RMA engine has accepted and the ports have not wholly performed (R251, R289, R329): its request, the entries of its index
list or its operand record as read from CORE panes (R250), the panes of the tile it holds (R233), the doublewords it has moved, what it
reached outside the module so far, and the bytes it wrote there. -/
structure RmaOp where
  req : AsyncReq
  words : List Nat
  holds : List (Nat × Nat)
  moved : Nat
  far : List Nat
  bytes : Nat
  deriving DecidableEq, Repr

/-- An operation already performed, or refused, whose token is not yet written (R287, R293), with the panes it holds
(R233) and what it reached outside the module: other modules, and multicast groups as 65536 + number (R437), with the bytes it wrote there;
`dropped` names the module on the way to which a packet of it was dropped (R433). -/
structure DoneOp where
  op : ReqOp
  ctx : Nat
  tok : Reg
  dom : Nat
  col : Nat
  code : Nat
  holds : List (Nat × Nat)
  far : List Nat
  bytes : Nat
  dropped : Option Nat
  deriving DecidableEq, Repr

/-- A Marimba run (R305, R313, R340): its request, its descriptor's eight doublewords as they stand after the prefix, its two
factors, the beat at which block `base` starts, the blocks completed, whether it was killed, the boundary it is to stop at,
whether an injection armed before it was accepted may hit it (R407), its generator and the panes it holds. -/
structure Run where
  req : AsyncReq
  dws : List Word
  fa : BitVec 32
  fb : BitVec 32
  start : Nat
  base : Nat
  prog : Nat
  killed : Bool
  stopAt : Option Nat
  inject : Bool
  draws : Word
  holds : List (Nat × Nat)
  deriving DecidableEq, Repr

/-- The operand words a sequencer injected into the circuits in one K block (R309, R337): side A or B, the beat of
each vector and its 32 element codes and scales, none where the word is not valid (R312). -/
structure Injection where
  isA : Bool
  beat : Nat
  elems : List Nat
  scales : List Nat
  deriving DecidableEq, Repr

/-- A SAC operation in progress (R320, R323): the decision made at acceptance, the writes its completion makes at memory targets
and in the output panes, the event it counts, the panes it holds and what it reaches outside the module (R437). -/
structure SacOp where
  req : AsyncReq
  code : Nat
  mem : List (Nat × List Byte)
  pane : List (Nat × List Byte)
  evc : Option Nat
  holds : List (Nat × Nat)
  far : List Nat
  deriving DecidableEq, Repr

/-- A visit of a program to a block (R241, R297): the side that makes it (0 source, 1 destination, 2 FORK), the address of the block's
entry, and the entry as it was resolved. -/
structure Visit where
  side : Nat
  place : Nat
  entry : Word
  deriving DecidableEq, Repr

/-- A block under promotion (R243): its table, its entry's address, the entry resolved, the frame taken, the bytes of a block, and the bytes
read as a mask. -/
structure Promotion where
  btid : Nat
  place : Nat
  entry : Word
  frame : Nat
  size : Nat
  mask : Nat
  deriving DecidableEq, Repr

/-- A stream program in an engine's slot (R295, R345, R346): its issuer, its number among the SEGOs of that tile to the engine (R348; 0 for a
program the loader binds), its eight doublewords, its loop plan once read, and how far it has come: groups done, generator, elements
emitted, pairs of a compaction, INDEX_OVERFLOW, its visits to blocks and its promotion, the module one of whose switches or ports dropped a
write of it (R433), the pages it has translated with the link-up counts as they stood then (R304), and the bytes it has written off the
module since one of its writes was last dropped (R434). -/
structure Program where
  tile : Nat
  num : Nat
  req : AsyncReq
  dws : List Word
  plan : List Nat
  started : Bool
  pos : Nat
  draws : Word
  elems : Nat
  pairs : Nat
  iovf : Bool
  visits : List Visit
  promo : Option Promotion
  dropped : Option Nat
  pages : List (Nat × List (LinkTarget × Nat))
  sent : Nat
  deriving DecidableEq, Repr

/-- A SEGO that waits at its engine for a slot (R295): its tile, its number as of `Program`, and the request. -/
structure SegoWait where
  tile : Nat
  num : Nat
  req : AsyncReq
  deriving DecidableEq, Repr

/-- What SESTAT reads of the last program this tile started on an engine (R348), by its number. -/
structure SeStat where
  engine : Nat
  num : Nat
  elems : Nat
  last : Nat
  iovf : Bool
  deriving DecidableEq, Repr

/-- Work for S in the service buffer (R159, R370): a verdict, a translation fill, a spill or a refill of a queue, a match overflow. -/
inductive SvcItem
  | verdict (m : Msg)
  | fill (entry : BitVec 128)
  | spill (q : Nat)
  | refill (q : Nat)
  | overflow
  deriving DecidableEq, Repr

/-- Service events that wake S (R405, R134, R403). -/
inductive SEvent
  | trap (c : Nat)
  | channelFailure (u : Nat)
  | killNotice (dom col : Nat)
  | switchDone (dom : Nat)
  | serviceBuffer
  deriving DecidableEq, Repr

/-- A receive-log record (R393): KIND, SRC, SEQ, HID, queue, arrival order, tag and beat, or at level FULL an input value. -/
structure LogRec where
  kind : Nat
  src : Nat
  seq : Nat
  hid : Nat
  queue : Nat
  order : Nat
  tag : Word
  beat : Nat
  data : List Byte
  deriving DecidableEq, Repr

/-- What waits in a tile's LOOPB input (R172): a message of LOOPB (R406), the oldest entry of a queue's spill ring that S refills (R157), or
a pair that S found in the match-overflow area (R161). -/
inductive LoopIn
  | msg (m : Msg) (refill : Bool)
  | ring (q : Nat)
  | pair
  deriving DecidableEq, Repr

/-- The stop record of R387. -/
structure StopRec where
  beat : Nat
  pcs : List Word
  sent : Nat
  resolved : Nat
  deriving DecidableEq, Repr

/-- One tile (INVENTORY.md, State).  `frozen` while its domain is stopped (R387, R388); `replay` and `feed` while it replays (R394);
`evcAt` the event counters when its turn began and `evcNew` what they were raised by since (R15, R397); `trapQ` its TRAPPED contexts in
the order of their traps (R366); `past` the slot tables that its phases had before each switch, newest first, with the beat of the switch
(R180, R338); `left` the requests, with their domains, that are still to be performed though their instructions were given up (R276). -/
structure Tile where
  enabled : Bool
  withdrawn : Bool
  dom : Nat
  ctxs : Vector Ctx 6
  lastL : Nat
  sp : Cells
  spPoison : List Nat
  panes : Vector Pane 128
  evc : Vector (BitVec 32) 16
  evcAt : Vector (BitVec 32) 16
  evcNew : Vector Nat 16
  rnsmap : Word
  errinj : Word
  corr : Vector Nat 10
  lanes : Nat
  queues : Vector Queue 16
  order : Nat
  seq : BitVec 16
  store : List Slot
  votes : List Vote
  area : List Slot
  counters : Vector Counter 64
  freshCnt : Option Nat
  hcache : List (Nat × Nat × Handler)
  svc : List SvcItem
  sEvents : List SEvent
  serving : Option Nat
  trapQ : List Nat
  fifo : Vector (List FifoEntry) 4
  barval : Vector Word 16
  joins : List Join
  kills : List (Nat × Nat)
  tlb : List TlbEntry
  linkUp : List (LinkTarget × Nat)
  asyncQ : List AsyncReq
  rmaOps : List RmaOp
  rmaDone : List DoneOp
  running : Option Run
  queued : Option Run
  prog : Nat
  last : Nat
  injected : List Injection
  phases : List (Nat × BitVec 16)
  active : Nat
  pending : Option Nat
  past : List (Nat × List (BitVec 16))
  left : List (Nat × GReq)
  sac : Option SacOp
  seStat : List SeStat
  loopIn : List LoopIn
  completions : List (Msg × Nat × Word)
  stopRec : Option StopRec
  sent : Nat
  resolved : Nat
  frozen : Bool
  log : List LogRec
  logFull : Bool
  logBase : Nat
  logUsed : Nat
  replay : Bool
  feed : List (List Byte)
  deriving DecidableEq, Repr

/-- The buffer classes of an EXT port (R426). -/
inductive PClass | source | x | y | dest | detourY | detourX
  deriving DecidableEq, Repr

/-- A message in the networks (R169 to R171, R425, R426): where it stands, whether it has been injected and ejected, its buffer class at EXT
ports and on its ring (`wrapped`: past the ring's wrap link, R177), the place it came from, the EXT port that still keeps it (R427), the
Forzen port whose link holds it, whether it was dropped there and now goes under a reservation (R433, R434), and whether a sweep or a
domain kill marked it (R379, R381). -/
structure Packet where
  msg : Msg
  reply : Bool
  place : Nat
  injected : Bool
  ejected : Bool
  cls : PClass
  wrapped : Bool
  prev : Nat
  hold : Option Nat
  link : Option Nat
  dropped : Bool
  marked : Bool
  pos : Nat
  deriving DecidableEq, Repr

/-- The classes of masters of R450. -/
inductive MasterClass | context | engine | hostEndpoint | firmware
  deriving DecidableEq, Repr

/-- Whose a request from another module is (R373, R450): the DOM and COL of the activation that made it, and its class as a master. -/
structure Origin where
  dom : Nat
  col : Nat
  cls : MasterClass
  deriving DecidableEq, Repr

/-- What comes in from another module at a Forzen port (R428, R429, R433, R434): a message; a PUT or PUTX, with its module and the bytes it
writes, or a GET or GETX, at a tile; a RATOM; a load, a store or an atomic at this module's memory; a TGNEW of another member of a
federation, with the tile and HID of its guardian; a module that asks for a reservation.  `bulk` for what came at droppable priority. -/
inductive Inbound
  | message (m : Msg) (reply bulk : Bool)
  | put (src tile : Nat) (o : Origin) (moves : List (Nat × List Byte)) (cnt : Nat) (bulk : Bool)
  | get (tile : Nat) (o : Origin) (ranges : List (Nat × Nat))
  | ratom (tile : Nat) (o : Origin) (op place : Nat) (x x2 : Word)
  | load (o : Origin) (pa n : Nat)
  | store (src : Nat) (o : Origin) (pa : Nat) (data : List Byte) (bulk : Bool)
  | atomic (o : Origin) (kind : ReqKind) (pa size : Nat) (x y : Word)
  | colour (o : Origin) (tile hid : Nat) (tag : Word)
  | reserve (src bytes : Nat)
  deriving DecidableEq, Repr

/-- An agent that sends at droppable priority (R433): an NI, an RMA engine, a stream engine. -/
inductive Agent | ni (t : Nat) | rma (t : Nat) | engine (e : Nat)
  deriving DecidableEq, Repr

/-- A reservation of an agent at another module's ingress port (R434): the beat from which it runs, its bytes per 256 beats, the bytes sent
under it, and the beat of its last use. -/
structure Grant where
  mod : Nat
  agent : Agent
  start : Nat
  rate : Nat
  used : Nat
  last : Nat
  deriving DecidableEq, Repr

/-- A line of a die cache (R235, R236): which bytes it holds, which of them are dirty, which doublewords are poisoned. -/
structure CacheLine where
  die : Nat
  line : Nat
  data : VReg
  held : BitVec 128
  dirty : BitVec 128
  poison : BitVec 16
  sync : Nat
  dom : Nat
  deriving DecidableEq, Repr

/-- A registered colour (R140, R194, R378). -/
structure Colour where
  col : Nat
  tile : Nat
  hid : Nat
  tag : Word
  killed : Bool
  deriving DecidableEq, Repr

/-- An open barrier episode (R203). -/
structure Episode where
  g : Nat
  n : Nat
  op : Nat
  hid : Nat
  place : Nat
  acc : Word
  count : Nat
  mismatch : Bool
  evc : List Nat
  joiners : List (Nat × Word)
  deriving DecidableEq, Repr

/-- A KV block table (R237): its place, its limits, its free lists, frames in quarantine with the engines still to
pass a boundary (R242), and frames reserved by FRESERVE (R280). -/
structure BlockTable where
  btid : Nat
  base : Nat
  seqs : Nat
  blocks : Nat
  blkSize : Nat
  freeHbm : List Nat
  freeLpddr : List Nat
  quarantine : List (Nat × Bool × List Nat)
  reserved : List (Nat × Bool)
  kept : List Nat
  deriving DecidableEq, Repr

/-- A read-duplicated page (R229, R230): its VA[51:16], whether its region has W, and its copies on edge dies 24 to 27, frame and stack. -/
structure DupPage where
  vpn : Nat
  w : Bool
  copies : List (Nat × Nat)
  deriving DecidableEq, Repr

/-- How far a stop or switch of a domain has gone (R387, R388). -/
inductive GangState | running | stopping | stopped | switching (t : Nat) | out | resuming (t2 : Nat)
  deriving DecidableEq, Repr

/-- The images the loader placed for a logical tile (R83, R417). -/
structure TileImage where
  panes : List (Nat × List Byte)
  queues : List (BitVec 128)
  counters : List (BitVec 256)
  owners : List Byte
  slots : List (Nat × BitVec 16)
  deriving DecidableEq, Repr

/-- A domain on this module (R85, R139, R221, R237, R258, R272, R379, R388, R428, R450); `resumedAt` is the beat of its last resume
(R391). -/
structure Domain where
  dom : Nat
  refusal : Nat
  trapHid : Nat
  launch : Nat
  logLevel : Nat
  logGap : Bool
  disp : List Nat
  root : Nat
  htab : Nat
  nhid : Nat
  width : Nat
  height : Nat
  tiles : List Nat
  images : List TileImage
  spares : List Nat
  rnschdef : Word
  txdef : Word
  syncBase : Nat
  syncCount : Nat
  bts : List BlockTable
  spillPool : Nat
  freeHbm : List Nat
  freeLpddr : List Nat
  dups : List DupPage
  colours : List Colour
  episodes : List Episode
  completed : List (Nat × Nat)
  gang : GangState
  gangTile : Option Nat
  sweep : Option (List Nat)
  saved : List (Nat × Tile)
  savedPrograms : List (Nat × Program)
  savedWaits : List (Nat × SegoWait)
  fallout : List Packet
  heldKills : List (Nat × Nat × Nat)
  saveBase : Nat
  logBases : List Nat
  voteLog : List Msg
  voteBase : Nat
  voteUsed : Nat
  resumedAt : Option Nat
  keys : List (BitVec 256)
  requireKey : Bool
  federation : List Nat
  deriving DecidableEq, Repr

/-- A stream engine (R295): its four program slots, oldest first, the programs that wait for one with their records (a resume found the slots
taken, R391, or the loader bound them, R81), the SEGOs that wait for one, and whether it is withdrawn. -/
structure Engine where
  slots : List Program
  back : List Program
  waits : List SegoWait
  withdrawn : Bool
  deriving DecidableEq, Repr

/-- A die (R385, R386, R444, R445, R451, R452): its rail and, of the present window of 2^32 beats, the corrected errors by array class;
`window` counts the windows it has ended, `short` when the present one began with a boot, and `minVersion` is the fused minimum of its firmware images. -/
structure Die where
  fenced : Bool
  viral : Bool
  meas : List (BitVec 256)
  minVersion : Nat
  railMv : Nat
  frozenRail : Bool
  window : Nat
  short : Bool
  errors : List Nat
  deriving DecidableEq, Repr

/-- Where an access table stands (R450): the homes of the die caches, the HBM and the LPDDR controllers, the stream engines, the host
endpoint, the management registers.  The table of a tile's memory port grants its bound domain alone and is `Tile.dom`. -/
inductive TableAt | home | hbm | lpddr | engines | host | management
  deriving DecidableEq, Repr

/-- An entry of the access tables of one kind of target (R450), by the master's DOM and class. -/
structure TableRow where
  at' : TableAt
  dom : Nat
  cls : MasterClass
  rights : Rights
  deriving DecidableEq, Repr

/-- A PCI Express function (R438 to R443). -/
structure HostFn where
  dom : Option Nat
  winBase : Nat
  rbase : Nat
  rsize : Nat
  rcons : Nat
  rprod : Nat
  rlost : Nat
  lostSince : Nat
  debug : Nat
  lseq : Nat
  seq : BitVec 16
  queue : List Msg
  deriving DecidableEq, Repr

/-- A Forzen port (R430, R431, R434): whether its link is up and at x4, the bad frames in succession, the frames that have come and wait to be
taken, oldest first, the reservations it has granted: source, start and rate; and the domains whose flits were marked in it (R379, R381), with
how many of the frames that wait stood there then. -/
structure Port where
  up : Bool
  x4 : Bool
  replays : Nat
  inbox : List Inbound
  granted : List (Nat × Nat × Nat)
  marks : List (Nat × Nat)
  deriving DecidableEq, Repr

/-- A multicast group (R435). -/
structure Group where
  g : Nat
  root : Nat
  dom : Nat
  base : Nat
  size : Nat
  members : List Nat
  deriving DecidableEq, Repr

/-- The lifetime records (R454, R455): those committed, and the windows sampled and the beats run at each clock step since the last commit;
`stepSince` is the beat from which the present clock step is still to be counted. -/
structure Lifetime where
  tempHist : List Nat
  voltHist : List Nat
  tempPending : List Nat
  voltPending : List Nat
  hoursPending : List Nat
  stepSince : Nat
  corrected : List Nat
  predictive : Nat
  lastPredictive : List (Nat × Nat × Nat)
  hours : List Nat
  powerCycles : Nat
  retrains : Nat
  withdrawals : Nat
  remaps : Nat
  fenced : Nat
  deriving DecidableEq, Repr

/-- A kill held or carried by the Gong root (R375, R392, R403). -/
structure GongKill where
  dom : Nat
  col : Nat
  cause : Nat
  start : Nat
  deriving DecidableEq, Repr

/-- How far a beat has come (R23, R172, R205; log 36): before its openings; its openings made and the engines' counter bumps going on; the
tiles issuing, each in turn; its TIMER ticks made and its barrier completions going on. -/
inductive BeatPhase | start | engines | issue | close
  deriving DecidableEq, Repr

/-- The module (see INVENTORY.md).  `identity` is register 0 of die 24 as it stood when its boot derived the identity key (R446), if one did;
`mbox` and `mboxDone` the data and the completion word of the last command of the mailbox (R448).  `cur`, `who`, `phase`, `iw`, `now`,
`later`, `fv` and `placed` (the frames the loader gave to a domain: domain, first 64 KB frame, how many) are the model's own (log 4). -/
structure State where
  beat : Nat
  cur : Nat
  who : Fin 6
  phase : BeatPhase
  iw : BitVec 32
  now : List Event
  later : List Event
  fv : Nat
  tiles : List (Nat × Tile)
  modNo : Nat
  modSet : Bool
  mem : Cells
  memPoison : List Nat
  hostMem : Cells
  code : Cells
  caches : List CacheLine
  stackList : List Nat
  failedStacks : List Nat
  dies : Vector Die 28
  domains : List Domain
  engines : List (Nat × Engine)
  net : List Packet
  gong : List GongKill
  routes : List (Nat × Nat)
  downPaths : List Nat
  ports : Vector Port 32
  groups : List Group
  grants : List Grant
  asks : List (Nat × Agent)
  outKills : List (Nat × GongKill)
  linkCount : List (LinkTarget × Nat)
  downTargets : List LinkTarget
  fns : Vector HostFn 64
  keys : List (Nat × List (BitVec 256) × Bool)
  powerCap : Nat
  clockStep : Nat
  life : Lifetime
  identity : Option (BitVec 256)
  mbox : List Byte
  mboxDone : Nat
  unswept : List Nat
  tables : List TableRow
  placed : List (Nat × Nat × Nat)
  federations : List (Nat × List Nat)
  deriving DecidableEq, Repr

/-- Why a step stops.  No instruction and no step of the table does. -/
inductive Fault
  /-- Raised by `step` alone, for a pending step of another agent that names a tile, die, engine, function, port or
  module the package does not have (R6, R295, R438): safe, since no such agent exists. -/
  | noSuchAgent
  deriving DecidableEq, Repr

/-- Why an instruction has no meaning. -/
inductive Refusal
  /-- An instruction the model gives no meaning; raised by no arm once every arm has its meaning.  Safe. -/
  | notModelled (mnemonic : String)
  deriving DecidableEq, Repr

/-- The reset value of ST in context `c` (R16): CTX, and PRI in H and S. -/
def Ctx.resetSt (c : Nat) : Word := BitVec.ofNat 64 (c + (if c < 4 then 0 else 8))

/-- A context at reset (R11, R14; log 1 for pc, tx and rnsch). -/
def Ctx.reset (c : Nat) : Ctx where
  gs := Vector.replicate 32 0
  vs := Vector.replicate 32 0
  vxs := Vector.replicate 32 0
  ks := Vector.replicate 8 0
  ms := Vector.replicate 16 0
  tg := 0
  pc := 0
  st := Ctx.resetSt c
  pfx := 0
  tx := 0x0001000000000028
  mh0 := 0
  mh1 := 0
  mlen := 0
  icount := 0
  mret := 0
  mvec := Vector.replicate 4 0
  rnsst := 0x0000000F00000000
  rnsch := 0x00140300
  wdog := 0
  rngseed := 1
  status := .free
  trapc := 0
  trappc := 0
  trapva := 0
  trapiw := 0
  pend := []
  act := none
  storeQ := []
  failedStore := none
  dirtied := []
  wait := none
  parkedVa := none
  parkedWrite := false
  parkedNeed := ⟨false, false, false, false⟩
  refilled := false
  refetched := false
  issueFrom := 0
  word := none
  waitsOn := []

/-- A disabled queue (R84: "when clear, every other field is zero"). -/
def Queue.reset : Queue where
  en := false
  cls := .low
  excl := false
  spill := false
  weight := 0
  logDepth := 0
  pane := 0
  watchdog := 0
  waiting := []
  spilling := false
  ring := []
  credit := 0

/-- A disarmed counter. -/
def Counter.reset : Counter where
  value := 0
  threshold := 0
  hid := 0
  tag := 0
  timer := false
  rearm := false
  armed := false

/-- The panes at reset: 124 to 127 FIRMWARE (R19), the others CORE (R78). -/
def Pane.resetAll : Vector Pane 128 :=
  Vector.replicate 124 (⟨.core, false, 0, 0⟩ : Pane) ++ Vector.replicate 4 (⟨.firmware, false, 0, 0⟩ : Pane)

/-- A tile at reset: unbound, every context FREE (R24). -/
def Tile.reset : Tile where
  enabled := true
  withdrawn := false
  dom := 0
  ctxs := ⟨⟨[Ctx.reset 0, Ctx.reset 1, Ctx.reset 2, Ctx.reset 3, Ctx.reset 4, Ctx.reset 5]⟩, rfl⟩
  lastL := 3
  sp := []
  spPoison := []
  panes := Pane.resetAll
  evc := Vector.replicate 16 0
  evcAt := Vector.replicate 16 0
  evcNew := Vector.replicate 16 0
  rnsmap := 0
  errinj := 0
  corr := Vector.replicate 10 0
  lanes := 0
  queues := Vector.replicate 16 Queue.reset
  order := 0
  seq := 0
  store := []
  votes := []
  area := []
  counters := Vector.replicate 64 Counter.reset
  freshCnt := none
  hcache := []
  svc := []
  sEvents := []
  serving := none
  trapQ := []
  fifo := Vector.replicate 4 []
  barval := Vector.replicate 16 0
  joins := []
  kills := []
  tlb := []
  linkUp := []
  asyncQ := []
  rmaOps := []
  rmaDone := []
  running := none
  queued := none
  prog := 0
  last := 0
  injected := []
  phases := []
  active := 0
  pending := none
  past := []
  left := []
  sac := none
  seStat := []
  loopIn := []
  completions := []
  stopRec := none
  sent := 0
  resolved := 0
  frozen := false
  log := []
  logFull := false
  logBase := 0
  logUsed := 0
  replay := false
  feed := []

/-- A die at reset (R445, R451). -/
def Die.reset : Die where
  fenced := false
  viral := false
  meas := [0, 0, 0, 0]
  minVersion := 0
  railMv := 500
  frozenRail := false
  window := 0
  short := false
  errors := []

/-- A function at reset (R439). -/
def HostFn.reset : HostFn where
  dom := none
  winBase := 0
  rbase := 0
  rsize := 0
  rcons := 0
  rprod := 0
  rlost := 0
  lostSince := 0
  debug := 0
  lseq := 0
  seq := 0
  queue := []

/-- A port at reset: its link trained, nothing on it (R431; log 1). -/
def Port.reset : Port where
  up := true
  x4 := false
  replays := 0
  inbox := []
  granted := []
  marks := []

/-- Empty lifetime records (R455). -/
def Lifetime.reset : Lifetime where
  tempHist := []
  voltHist := []
  tempPending := []
  voltPending := []
  hoursPending := []
  stepSince := 0
  corrected := []
  predictive := 0
  lastPredictive := []
  hours := []
  powerCycles := 0
  retrains := 0
  withdrawals := 0
  remaps := 0
  fenced := 0

/-- The module right after reset: BEAT 0, every tile unlisted (so at `Tile.reset`), no domain, memory with nothing listed. -/
def State.reset : State where
  beat := 0
  cur := 0
  who := 0
  phase := .start
  iw := 0
  now := []
  later := []
  fv := 0
  tiles := []
  modNo := 0
  modSet := false
  mem := []
  memPoison := []
  hostMem := []
  code := []
  caches := []
  stackList := [0, 1, 2, 3, 4, 5, 6, 7, 8, 9, 10, 11, 12, 13, 14, 15]
  failedStacks := []
  dies := Vector.replicate 28 Die.reset
  domains := []
  engines := []
  net := []
  gong := []
  routes := []
  downPaths := []
  ports := Vector.replicate 32 Port.reset
  groups := []
  grants := []
  asks := []
  outKills := []
  linkCount := []
  downTargets := []
  fns := Vector.replicate 64 HostFn.reset
  keys := []
  powerCap := 15
  clockStep := 0
  life := Lifetime.reset
  identity := some 0
  mbox := []
  mboxDone := 0
  unswept := []
  tables := []
  placed := []
  federations := []

end Sys2Proof.Machine
end

