-- ==== Sys2Proof/Machine/Ops.lean ====
section
/-! DEFINITION. The named operations every meaning shares: sparse bytes, tiles and contexts, registers and pending
writes, the scratchpad and its checks, event counters, taking a trap and resuming from one, and how an instruction
is checked, retires or traps (R26, R30, R68, R366). -/

namespace Sys2Proof.Machine

open Host (Outcome)

/-! ### Vectors and association lists -/

/-- Element `i` of a vector, or `d` beyond its end. -/
def vget {α : Type} {n : Nat} (v : Vector α n) (i : Nat) (d : α) : α := v.toList.getD i d

/-- A vector with element `i` replaced; unchanged beyond its end. -/
def vset {α : Type} {n : Nat} (v : Vector α n) (i : Nat) (a : α) : Vector α n := v.setIfInBounds i a

/-- A vector with every element mapped. -/
def vmap {α : Type} {n : Nat} (f : α → α) (v : Vector α n) : Vector α n :=
  ⟨⟨v.toList.map f⟩, by simp⟩

/-- The value a key has in an association list, or `d`. -/
def aget {α : Type} (d : α) : List (Nat × α) → Nat → α
  | [], _ => d
  | (k, v) :: t, i => if k = i then v else aget d t i

/-- An association list with a key set; keys rise. -/
def aset {α : Type} : List (Nat × α) → Nat → α → List (Nat × α)
  | [], i, a => [(i, a)]
  | (k, v) :: t, i, a => if i < k then (i, a) :: (k, v) :: t else if i = k then (i, a) :: t else (k, v) :: aset t i a

/-- A list without its entry `i`. -/
def dropAt {α : Type} : List α → Nat → List α
  | [], _ => []
  | _ :: t, 0 => t
  | a :: t, i + 1 => a :: dropAt t i

/-! ### Sparse bytes -/

/-- The byte at an address: 0 where nothing is listed (log 3). -/
def Cells.get : Cells → Nat → Byte
  | [], _ => 0
  | (k, v) :: t, i => if k = i then v else Cells.get t i

/-- The bytes with one written, in canonical form. -/
def Cells.set : Cells → Nat → Byte → Cells
  | [], i, b => if b = 0 then [] else [(i, b)]
  | (k, v) :: t, i, b =>
    if i < k then (if b = 0 then (k, v) :: t else (i, b) :: (k, v) :: t)
    else if i = k then (if b = 0 then t else (i, b) :: t)
    else (k, v) :: Cells.set t i b

/-- The canonical form: addresses rise strictly and no listed byte is 0. -/
def Cells.wf : Cells → Bool
  | [] => true
  | (_, v) :: [] => v != 0
  | (k, v) :: (k', v') :: t => v != 0 && decide (k < k') && Cells.wf ((k', v') :: t)

/-- `n` bytes from an address, the lowest first. -/
def Cells.getList (c : Cells) (a : Nat) : Nat → List Byte
  | 0 => []
  | n + 1 => c.get a :: Cells.getList c (a + 1) n

/-- Bytes written from an address upward. -/
def Cells.setList (c : Cells) (a : Nat) : List Byte → Cells
  | [] => c
  | b :: t => Cells.setList (c.set a b) (a + 1) t

/-- Those of the bytes written from an address upward whose addresses satisfy a condition. -/
def Cells.setWhere (f : Nat → Bool) (c : Cells) (a : Nat) : List Byte → Cells
  | [] => c
  | b :: t => Cells.setWhere f (if f a then c.set a b else c) (a + 1) t

/-- The little-endian number of a list of bytes (R61, R102). -/
def leNat : List Byte → Nat
  | [] => 0
  | b :: t => b.toNat + 256 * leNat t

/-- The `n` little-endian bytes of a number. -/
def leBytes : Nat → Nat → List Byte
  | 0, _ => []
  | n + 1, v => BitVec.ofNat 8 v :: leBytes n (v / 256)

/-- The little-endian number of `n` bytes at an address. -/
def Cells.le (c : Cells) (a n : Nat) : Nat := leNat (c.getList a n)

/-- `n` little-endian bytes of a number written at an address. -/
def Cells.setLe (c : Cells) (a n v : Nat) : Cells := c.setList a (leBytes n v)

/-! ### Tiles and contexts -/

/-- The 24-bit address of a tile of the module (R6): a tile is named inside the module by its die, Y and X, 15 bits. -/
def State.addr (s : State) (t : Nat) : Nat := s.modNo * 32768 + t % 32768

/-- A tile of the module. -/
def State.tile (s : State) (t : Nat) : Tile := aget Tile.reset s.tiles (t % 32768)

/-- The state with one tile replaced. -/
def State.setTile (s : State) (t : Nat) (x : Tile) : State := { s with tiles := aset s.tiles (t % 32768) x }

/-- The state with one tile changed. -/
def State.onTile (s : State) (t : Nat) (f : Tile → Tile) : State := s.setTile t (f (s.tile t))

/-- Every listed tile changed. -/
def State.mapTiles (s : State) (f : Nat → Tile → Tile) : State := { s with tiles := s.tiles.map fun (t, x) => (t, f t x) }

/-- Pending steps of other agents taken away. -/
def State.dropEvents (s : State) (f : Event → Bool) : State := { s with later := s.later.filter fun e => !f e }

/-- Context `c` of a tile (R16: 0 to 3 L0 to L3, 4 H, 5 S). -/
def Tile.ctx (x : Tile) (c : Nat) : Ctx := vget x.ctxs c (Ctx.reset 5)

/-- A tile with a context replaced. -/
def Tile.setCtx (x : Tile) (c : Nat) (k : Ctx) : Tile := { x with ctxs := vset x.ctxs c k }

/-- A tile with a context changed. -/
def Tile.onCtx (x : Tile) (c : Nat) (f : Ctx → Ctx) : Tile := x.setCtx c (f (x.ctx c))

/-- The domain of a number, if the module has a record of it. -/
def State.domain (s : State) (dom : Nat) : Option Domain := s.domains.find? (·.dom == dom)

/-- The state with a domain changed. -/
def State.onDomain (s : State) (dom : Nat) (f : Domain → Domain) : State :=
  { s with domains := s.domains.map fun d => if d.dom = dom then f d else d }

/-- A context of a tile. -/
def State.ctxAt (s : State) (t c : Nat) : Ctx := (s.tile t).ctx c

/-- The state with one context of a tile changed. -/
def State.onCtx (s : State) (t c : Nat) (f : Ctx → Ctx) : State := s.onTile t (fun x => x.onCtx c f)

/-- The tile that issues. -/
def State.my (s : State) : Tile := s.tile s.cur

/-- The context that issues. -/
def State.me (s : State) : Ctx := s.ctxAt s.cur s.who

/-- The state with the issuing context changed. -/
def State.onMe (s : State) (f : Ctx → Ctx) : State := s.onCtx s.cur s.who f

/-- The state with the issuing tile changed. -/
def State.onMy (s : State) (f : Tile → Tile) : State := s.onTile s.cur f

/-- Whether the issuing context is S. -/
def State.isS (s : State) : Bool := s.who == 5

/-- Work that another agent does at a beat of its own choosing (R10). -/
def State.post (s : State) (i : Event) : State := { s with later := s.later ++ [i] }

/-- The same, unless it already waits. -/
def State.postOnce (s : State) (i : Event) : State := if s.later.contains i then s else s.post i

/-- Work that must happen next, after what already must. -/
def State.next (s : State) (i : Event) : State := { s with now := s.now ++ [i] }

/-! ### Registers -/

/-- A general register: g0 reads zero (R11). -/
def Ctx.g (k : Ctx) (r : Reg) : Word := if r = 0 then 0 else vget k.gs r.toNat 0
/-- A vector register. -/
def Ctx.v (k : Ctx) (r : Reg) : VReg := vget k.vs r.toNat 0
/-- The side field of a vector register (R13). -/
def Ctx.vx (k : Ctx) (r : Reg) : Word := vget k.vxs r.toNat 0
/-- A predicate register: k0 reads all ones (R11). -/
def Ctx.k (c : Ctx) (r : KReg) : Pred := if r = 0 then BitVec.allOnes 32 else vget c.ks r.toNat 0
/-- A window register (R17). -/
def Ctx.m (k : Ctx) (i : Nat) : Word := vget k.ms i 0

/-- Writes a general register; writes of g0 are discarded (R11). -/
def Ctx.setG (k : Ctx) (r : Reg) (w : Word) : Ctx := if r = 0 then k else { k with gs := vset k.gs r.toNat w }
/-- Writes a vector register. -/
def Ctx.setV (k : Ctx) (r : Reg) (w : VReg) : Ctx := { k with vs := vset k.vs r.toNat w }
/-- Writes a side field. -/
def Ctx.setVx (k : Ctx) (r : Reg) (w : Word) : Ctx := { k with vxs := vset k.vxs r.toNat w }
/-- Writes a predicate register; writes of k0 are discarded (R11). -/
def Ctx.setK (c : Ctx) (r : KReg) (w : Pred) : Ctx := if r = 0 then c else { c with ks := vset c.ks r.toNat w }

/-- Makes a write of a destination. -/
def Ctx.write (k : Ctx) (d : Dst) (v : VReg) : Ctx :=
  match d with
  | .g r => k.setG r (v.setWidth 64)
  | .v r => k.setV r v
  | .vx r => k.setVx r (v.setWidth 64)
  | .k r => k.setK r (v.setWidth 32)

/-- Whether a destination discards its writes. -/
def Dst.isNull : Dst → Bool
  | .g r => r == 0
  | .k r => r == 0
  | _ => false

/-- A result written with a latency (R89, R115): at once for one beat, else as a pending write due that many beats
after this one. -/
def State.put (s : State) (d : Dst) (v : VReg) (lat : Nat) : State :=
  if lat ≤ 1 || d.isNull then s.onMe (·.write d v)
  else s.onMe fun k => { k with pend := k.pend ++ [⟨d, some v, s.beat + lat⟩] }

/-- A general-register result with a latency. -/
def State.putG (s : State) (r : Reg) (w : Word) (lat : Nat := 1) : State := s.put (.g r) (w.setWidth 1024) lat

/-- Makes every pending write whose value is known (R89, R366 step 2). -/
def Ctx.settle (k : Ctx) : Ctx :=
  { k.pend.foldl (fun k p => match p.val with | some v => k.write p.dst v | none => k) k with
    pend := k.pend.filter (·.val.isNone) }

/-- Whether a destination is pending. -/
def Ctx.pending (k : Ctx) (d : Dst) : Bool := k.pend.any (fun p => p.dst == d)

/-- A context that the scoreboard holds leaves STALLED when no register it waits for is pending any more (R24, R89). -/
def Ctx.released (k : Ctx) : Ctx :=
  if k.status = .stalled ∧ k.waitsOn ≠ [] ∧ k.waitsOn.all (fun d => !k.pending d) = true then { k with status := .running, waitsOn := [] }
  else k

/-- Makes the pending writes that are due at a beat (R89). -/
def Ctx.settleDue (k : Ctx) (beat : Nat) : Ctx :=
  Ctx.released { k.pend.foldl (fun k p => match p.val with
      | some v => if p.due ≤ beat then k.write p.dst v else k
      | none => k) k with
    pend := k.pend.filter (fun p => p.val.isNone || decide (beat < p.due)) }

/-! ### ST and its fields (R16) -/

/-- ST.PEND. -/
def Ctx.pendBit (k : Ctx) : Bool := k.st.getLsbD 4
/-- ST.TDEPTH. -/
def Ctx.tdepth (k : Ctx) : Nat := bits k.st 7 5
/-- ST.RM. -/
def Ctx.rm (k : Ctx) : Nat := bits k.st 15 13
/-- ST.ZM. -/
def Ctx.zm (k : Ctx) : Bool := k.st.getLsbD 17
/-- ST.RNSOVT. -/
def Ctx.rnsovt (k : Ctx) : Bool := k.st.getLsbD 16
/-- Sets or clears ST.PEND. -/
def Ctx.setPend (k : Ctx) (b : Bool) : Ctx := { k with st := if b then k.st ||| 0x10 else k.st &&& ~~~0x10 }
/-- Raises sticky flags (R42). -/
def Ctx.raise (k : Ctx) (f : Fl) : Ctx := { k with st := k.st ||| f.word }

/-- Raises sticky flags in the issuing context. -/
def State.raise (s : State) (f : Fl) : State := s.onMe (·.raise f)

/-- Advances the issuing context's generator by `n` draws (R41). -/
def drawN : Nat → Word → Word
  | 0, w => w
  | n + 1, w => drawN n (drawStep w)

/-! ### Event counters (R15) -/

/-- A 32-bit counter with an increment, saturating. -/
def satAdd32 (a : BitVec 32) (n : Nat) : BitVec 32 := if a.toNat + n ≥ 2 ^ 32 then BitVec.allOnes 32 else a + BitVec.ofNat 32 n

/-- EVCi ← EVCi + n, saturating (R14, R15). -/
def Tile.bumpEvc (x : Tile) (i n : Nat) : Tile :=
  { x with evc := vset x.evc i (satAdd32 (vget x.evc i 0) n), evcNew := vset x.evcNew i (vget x.evcNew i 0 + n) }

/-- The event counters after the counts of R39. -/
def Tile.countEvents (x : Tile) (ovf sat nan under : Nat) : Tile :=
  ((((x.bumpEvc 0 ovf).bumpEvc 1 sat).bumpEvc 2 nan).bumpEvc 3 under)

/-! ### Outcomes of an instruction -/

/-- What an instruction's own effect comes to: it retires to the next instruction or to a target, ends its
activation, traps, or waits without retiring (the state then holds why). -/
inductive Res
  | done (s : State)
  | jump (s : State) (pc : Word)
  | ended (s : State)
  | trap (c : Cause) (va : Word)
  | wait (s : State)
  deriving Repr

/-- Code of a cause (R365). -/
def Cause.code : Cause → Nat
  | .illegalInstruction => 0x01
  | .illegalPrefix => 0x02
  | .misaligned => 0x03
  | .paneOwnership => 0x04
  | .scratchBounds => 0x06
  | .pageFault => 0x08
  | .protection => 0x09
  | .targetGone => 0x0B
  | .replyVnViolation => 0x0C
  | .tagOverflow => 0x10
  | .rnsUncorrectable => 0x11
  | .rnsOverflow => 0x12
  | .breakpoint => 0x14
  | .privileged => 0x15
  | .uncorrectableData => 0x18
  | .watchdog => 0x1A
  | .doubleFault => 0x1F

/-- COL of a tag (R141). -/
def colOf (tag : Word) : Nat := bits tag 51 40
/-- DOM of a tag (R141). -/
def domOf (tag : Word) : Nat := bits tag 63 52

/-- Colour of a context's activation (R377): the COL of its slot tag. -/
def Ctx.colour (k : Ctx) : Nat := match k.act with | some a => colOf a.slot.msg.tag | none => 0

/-- LIGHT of the trap record (R367): MRET is nonzero, and the pc is neither MRET nor in the handler's first line. -/
def Ctx.light (k : Ctx) : Bool :=
  k.mret != 0 && k.pc != k.mret &&
    match k.act with | some a => k.pc.toNat / 128 != a.handler.entry / 128 | none => true

/-- TRAPC of a trap taken now (R367). -/
def Ctx.trapWord (k : Ctx) (dom c : Nat) (cause : Cause) : Word :=
  BitVec.ofNat 64 (dom * 2 ^ 52 + k.colour * 2 ^ 40 + bits k.mh0 39 28 * 2 ^ 12 + (if k.light then 2 ^ 11 else 0)
    + (if k.pendBit then 2 ^ 10 else 0) + c * 2 ^ 5 + cause.code)

/-- Takes a trap in context `c` of tile `t` (R366, R367, R371): the pending writes complete, the context becomes
TRAPPED, its record is written, S is woken, and S's service of the trap follows.  In S a trap is DOUBLE_FAULT: S stops
and the tile is withdrawn. -/
def State.takeTrap (s : State) (t c : Nat) (cause : Cause) (va : Word) (iw : BitVec 32) : State :=
  if c = 5 then (s.onCtx t c fun k => { k with status := .trapped }).next (.doubleFault t)
  else
    let x := s.tile t
    let k := (x.ctx c).settle
    let k' := { k with
      status := .trapped
      wait := none
      parkedVa := none
      word := none
      waitsOn := []
      refilled := false
      refetched := false
      trapc := k.trapWord x.dom c cause
      trappc := k.pc
      trapva := va
      trapiw := iw.setWidth 64 }
    ((s.setTile t { x.setCtx c k' with sEvents := x.sEvents ++ [.trap c], trapQ := x.trapQ ++ [c] })).post (.trapDelivery t c)

/-- The issuing instruction traps (R26: it changes no other state). -/
def State.trapMe (s : State) (cause : Cause) (va : Word) : State := s.takeTrap s.cur s.who cause va s.iw

/-- Resumes a TRAPPED context (R399): at `pc` or at its TRAPPC, with a new budget after WATCHDOG; PEND and PFX stay. -/
def State.resume (s : State) (t c : Nat) (pc : Option Word) : State :=
  ((s.dropEvents (· == .trapDelivery t c)).onTile t fun x => { x with trapQ := x.trapQ.filter (· != c) }).onCtx t c fun k => { k with
    status := .running
    pc := pc.getD k.trappc
    issueFrom := s.beat + 1
    icount := if bits k.trapc 4 0 = Cause.watchdog.code then 0 else k.icount
    trapc := 0
    trappc := 0
    trapva := 0
    trapiw := 0 }

/-- The address of the issuing instruction. -/
def State.pc (s : State) : Word := s.me.pc

/-- Retires the issuing instruction to `pc` (R26, R30).  DESIGN CHOICE (log 57): R30 counts the retired instructions of an activation;
S, which runs none, is counted alike. -/
def State.retire (s : State) (pc : Word) : State :=
  s.onMe fun k => { k with
    pc := pc, icount := k.icount + 1, status := .running, wait := none, parkedVa := none, refilled := false, refetched := false
    word := none, waitsOn := [] }

/-- Whether the issuing context has used its watchdog budget (R30); S runs under none. -/
def State.overBudget (s : State) : Bool := !s.isS && s.me.wdog != 0 && decide (s.me.wdog.toNat ≤ s.me.icount.toNat)

/-- Steps 2 to 4 of R68 for an instruction that takes a prefix or not and is privileged or not. -/
def State.precheck (s : State) (takesPfx priv : Bool) : Option Cause :=
  if priv && !s.isS then some .privileged
  else if s.me.pendBit && !takesPfx then some .illegalPrefix
  else if s.overBudget then some .watchdog
  else none

/-- The state an effect leaves: retired at the next address or at the target, ended, trapped, or waiting. -/
def State.conclude (s : State) : Res → State
  | .done s' => s'.retire (s.pc + 4)
  | .jump s' pc => s'.retire pc
  | .ended s' => s'
  | .trap c va => s.trapMe c va
  | .wait s' => s'

/-- An instruction: the checks of R68 and then its own effect. -/
def instr (takesPfx priv : Bool) (body : State → Res) (s : State) : Outcome State Fault Refusal :=
  match s.precheck takesPfx priv with
  | some c => .next (s.trapMe c 0)
  | none => .next (s.conclude (body s))

/-- An ordinary instruction (R88: no prefix, no privilege). -/
def plain (body : State → Res) (s : State) : Outcome State Fault Refusal := instr false false body s

/-- An instruction that may consume a prefix (R70, R71): PEND clears when it retires. -/
def prefixed (body : State → Res) (s : State) : Outcome State Fault Refusal :=
  instr true false (fun s => match body s with
    | .done s' => .done (s'.onMe (·.setPend false))
    | r => r) s

/-- A PRIV instruction (R398). -/
def privileged (body : State → Res) (s : State) : Outcome State Fault Refusal := instr false true body s

/-- An instruction that has issued and does not retire yet (R24 STALLED). -/
def State.stall (s : State) : Res := .wait (s.onMe fun k => { k with status := .stalled })

/-- Whether the issuing instruction issues for the first time: no earlier attempt of it left it STALLED. -/
def State.firstIssue (s : State) : Bool := s.me.word.isNone

/-- The word of an instruction that has issued and waits (R24), for its later attempts and for a trap record. -/
def State.keepWord (s : State) (c : Fin 6) (w : BitVec 32) : State :=
  s.onCtx s.cur c fun k => if k.status = .stalled ∨ k.status = .parked then { k with word := some w } else k

/-- The word a trap record takes of a context that waits (R367): its instruction's, and zero for a fetch. -/
def Ctx.trapIw (k : Ctx) : BitVec 32 := k.word.getD 0

/-! ### Scratchpad (R18 to R20, R102 to R104) -/

/-- Effective address, with no wrap (R18). -/
def effAddr (base : Word) (off : Int) : Int := (base.toNat : Int) + off

/-- An effective address as TRAPVA receives it. -/
def eaWord (ea : Int) : Word := BitVec.ofInt 64 ea

/-- Step 1 of R18 for `n` bytes at `ea`. -/
def State.spBounds (s : State) (ea : Int) (n : Nat) : Bool :=
  decide (0 ≤ ea) && decide (ea + n ≤ (if s.isS then 0x80000 else 0x7C000))

/-- Whether a pane passes step 3 of R18: CORE owns it, or S uses panes 124 to 127. -/
def State.paneOk (s : State) (p : Nat) : Bool :=
  (vget s.my.panes p ⟨.core, false, 0, 0⟩).owner == .core ||
    (s.isS && decide (124 ≤ p) && (vget s.my.panes p ⟨.core, false, 0, 0⟩).owner == .firmware)

/-- Panes first … first + n − 1 all pass step 3 of R18. -/
def State.panesOk (s : State) (first : Nat) : Nat → Bool
  | 0 => true
  | n + 1 => s.paneOk first && State.panesOk s (first + 1) n

/-- Step 3 of R18 for `n` bytes at an address that passed step 1. -/
def State.spOwned (s : State) (a n : Nat) : Bool := s.panesOk (a / 4096) ((a + n - 1) / 4096 + 1 - a / 4096)

/-- The checks of R18 for an access of 1, 2, 4 or 8 bytes, in order. -/
def State.spCheck (s : State) (ea : Int) (size : Nat) : Option (Cause × Word) :=
  if !s.spBounds ea 1 then some (.scratchBounds, eaWord ea)
  else if ea.toNat % size ≠ 0 then some (.misaligned, eaWord ea)
  else if !s.spOwned ea.toNat 1 then some (.paneOwnership, eaWord ea)
  else none

/-- The checks of R18 for a range "as one access" of `n` bytes with its stated alignment, which comes first. -/
def State.spCheckRange (s : State) (ea : Int) (n align : Nat) : Option (Cause × Word) :=
  if ea % align ≠ 0 then some (.misaligned, eaWord ea)
  else if n ≠ 0 ∧ !s.spBounds ea n then some (.scratchBounds, eaWord ea)
  else if n ≠ 0 ∧ !s.spOwned ea.toNat n then some (.paneOwnership, eaWord ea)
  else none

/-- Whether `n` bytes at an address touch a poisoned doubleword (R374). -/
def Tile.spPoisoned (x : Tile) (a n : Nat) : Bool := x.spPoison.any fun p => decide (p < a + n) && decide (a < p + 8)

/-- The scratchpad with bytes written; poison clears where a whole doubleword is written (R374). -/
def Tile.spPut (x : Tile) (a : Nat) (bs : List Byte) : Tile :=
  { x with
    sp := x.sp.setList a bs
    spPoison := x.spPoison.filter fun p => !(decide (a ≤ p) && decide (p + 8 ≤ a + bs.length)) }

/-- An event of the unit and place that an armed injection names (R407): DELAY counts down, or the injection is made and
its KIND answered, with ARM cleared. -/
def Tile.injection (x : Tile) (unit addr : Nat) : Tile × Option Nat :=
  let w := x.errinj
  if w.getLsbD 63 && bits w 59 56 == unit && (if unit = 2 then bits w 3 0 else bits w 18 0) == addr then
    if bits w 55 40 = 0 then ({ x with errinj := setBits w 63 63 0 }, some (bits w 61 60))
    else ({ x with errinj := setBits w 55 40 (bits w 55 40 - 1) }, none)
  else (x, none)

/-- BIT of an injection (R407). -/
def Tile.injectBit (x : Tile) : Nat := bits x.errinj 39 32

/-- Whether an injection of a unit is armed. -/
def Tile.armed (x : Tile) (unit : Nat) : Bool := x.errinj.getLsbD 63 && bits x.errinj 59 56 == unit

/-- A write of `n` bytes of the scratchpad, already made, as an event of UNIT 0 for the doubleword an injection names (R407). -/
def Tile.paneEvent (x : Tile) (a n : Nat) : Tile :=
  let at' := bits x.errinj 18 0
  let d := at' / 8 * 8
  if x.armed 0 && decide (d < a + n) && decide (a < d + 8) then
    match x.injection 0 at' with
    | (z, some 0) => { z with sp := z.sp.setLe d 8 (z.sp.le d 8 ^^^ 2 ^ z.injectBit) }
    | (z, some 2) => { z with spPoison := d :: z.spPoison.filter (· != d) }
    | (z, _) => z
  else x

/-- The scratchpad with bytes written, as an event of UNIT 0 (R407). -/
def Tile.spWrite (x : Tile) (a : Nat) (bs : List Byte) : Tile := (x.spPut a bs).paneEvent a bs.length

/-- Whether S's own panes hold more poisoned doublewords than before (R371). -/
def Tile.worse (x y : Tile) : Bool := y.spPoison.any fun p => decide (0x7C000 ≤ p) && !x.spPoison.contains p

/-- The issuing tile's scratchpad written by the core; an error injected into panes 124 to 127 is a DOUBLE_FAULT (R371, R373, R407). -/
def State.spWriteMy (s : State) (f : Tile → Tile) : State :=
  if s.my.worse (f s.my) then (s.onMy f).next (.doubleFault s.cur) else s.onMy f

/-- A scratchpad load of `size` bytes by the issuing context. -/
def State.spLoad (s : State) (ea : Int) (size : Nat) (k : Nat → Res) : Res :=
  match s.spCheck ea size with
  | some (c, va) => .trap c va
  | none =>
    if s.my.spPoisoned ea.toNat size then .trap .uncorrectableData (eaWord ea)
    else k (s.my.sp.le ea.toNat size)

/-- A scratchpad store of the low `size` bytes of a word by the issuing context. -/
def State.spStore (s : State) (ea : Int) (size : Nat) (w : Word) : Res :=
  match s.spCheck ea size with
  | some (c, va) => .trap c va
  | none => .done (s.spWriteMy fun x => x.spWrite ea.toNat (leBytes size w.toNat))

end Sys2Proof.Machine
end

