-- ==== Sys2Proof/Machine/Scalar.lean ====
section
/-! DEFINITION. The scalar integer instructions, branches, and scratchpad loads and stores (04: R88 to R104). -/

namespace Sys2Proof.Machine

open Host (Outcome)

/-- What a meaning answers. -/
abbrev Out := Outcome State Fault Refusal

/-- A one-beat result computed from the issuing context's registers and its pc. -/
def toReg (d : Reg) (f : Ctx → Word) (lat : Nat := 1) (s : State) : Out :=
  plain (fun s => .done (s.putG d (f s.me) lat)) s

/-- Word form of a condition. -/
def boolWord (b : Bool) : Word := if b then 1 else 0

/-! ### ALU (R90) -/
/-- ADD (R90). -/
def execAdd (d a b : Reg) (s : State) : Out := toReg d (fun k => let a := k.g a; let b := k.g b; a + b) 1 s
/-- SUB (R90). -/
def execSub (d a b : Reg) (s : State) : Out := toReg d (fun k => let a := k.g a; let b := k.g b; a - b) 1 s
/-- AND (R90). -/
def execAnd (d a b : Reg) (s : State) : Out := toReg d (fun k => let a := k.g a; let b := k.g b; a &&& b) 1 s
/-- OR (R90). -/
def execOr (d a b : Reg) (s : State) : Out := toReg d (fun k => let a := k.g a; let b := k.g b; a ||| b) 1 s
/-- XOR (R90). -/
def execXor (d a b : Reg) (s : State) : Out := toReg d (fun k => let a := k.g a; let b := k.g b; a ^^^ b) 1 s
/-- SLL (R90). -/
def execSll (d a b : Reg) (s : State) : Out := toReg d (fun k => let a := k.g a; let b := k.g b; a <<< (bits b 5 0)) 1 s
/-- SRL (R90). -/
def execSrl (d a b : Reg) (s : State) : Out := toReg d (fun k => let a := k.g a; let b := k.g b; a >>> (bits b 5 0)) 1 s
/-- SRA (R90). -/
def execSra (d a b : Reg) (s : State) : Out := toReg d (fun k => let a := k.g a; let b := k.g b; a.sshiftRight (bits b 5 0)) 1 s
/-- SLT (R90). -/
def execSlt (d a b : Reg) (s : State) : Out := toReg d (fun k => let a := k.g a; let b := k.g b; boolWord (a.slt b)) 1 s
/-- SLTU (R90). -/
def execSltu (d a b : Reg) (s : State) : Out := toReg d (fun k => let a := k.g a; let b := k.g b; boolWord (a.ult b)) 1 s
/-- MIN (R90). -/
def execMin (d a b : Reg) (s : State) : Out := toReg d (fun k => let a := k.g a; let b := k.g b; if a.slt b then a else b) 1 s
/-- MAX (R90). -/
def execMax (d a b : Reg) (s : State) : Out := toReg d (fun k => let a := k.g a; let b := k.g b; if b.slt a then a else b) 1 s
/-- ADDW (R90). -/
def execAddw (d a b : Reg) (s : State) : Out := toReg d (fun k => let a := k.g a; let b := k.g b; ((a + b).setWidth 32).signExtend 64) 1 s
/-- SUBW (R90). -/
def execSubw (d a b : Reg) (s : State) : Out := toReg d (fun k => let a := k.g a; let b := k.g b; ((a - b).setWidth 32).signExtend 64) 1 s

/-! ### MULDIV (R91, R44) -/

/-- Signed quotient toward zero: all ones by zero, the dividend for the most negative by −1 (R44). -/
def divS (a b : Word) : Word := if b = 0 then BitVec.allOnes 64 else BitVec.ofInt 64 (a.toInt.tdiv b.toInt)
/-- Unsigned quotient: all ones by zero (R44). -/
def divU (a b : Word) : Word := if b = 0 then BitVec.allOnes 64 else a / b
/-- Signed remainder with the sign of the dividend: the dividend by zero (R44). -/
def remS (a b : Word) : Word := if b = 0 then a else BitVec.ofInt 64 (a.toInt.tmod b.toInt)
/-- Unsigned remainder: the dividend by zero (R44). -/
def remU (a b : Word) : Word := if b = 0 then a else a % b

/-- MUL (R91). -/
def execMul (d a b : Reg) (s : State) : Out := toReg d (fun k => let a := k.g a; let b := k.g b; a * b) 3 s
/-- MULH (R91). -/
def execMulh (d a b : Reg) (s : State) : Out := toReg d (fun k => let a := k.g a; let b := k.g b; BitVec.ofInt 64 ((a.toInt * b.toInt) / 2 ^ 64)) 3 s
/-- MULHU (R91). -/
def execMulhu (d a b : Reg) (s : State) : Out := toReg d (fun k => let a := k.g a; let b := k.g b; BitVec.ofNat 64 (a.toNat * b.toNat / 2 ^ 64)) 3 s
/-- DIV (R91). -/
def execDiv (d a b : Reg) (s : State) : Out := toReg d (fun k => let a := k.g a; let b := k.g b; divS a b) 18 s
/-- DIVU (R91). -/
def execDivu (d a b : Reg) (s : State) : Out := toReg d (fun k => let a := k.g a; let b := k.g b; divU a b) 18 s
/-- REM (R91). -/
def execRem (d a b : Reg) (s : State) : Out := toReg d (fun k => let a := k.g a; let b := k.g b; remS a b) 18 s
/-- REMU (R91). -/
def execRemu (d a b : Reg) (s : State) : Out := toReg d (fun k => let a := k.g a; let b := k.g b; remU a b) 18 s

/-! ### BIT (R92) -/

/-- Number of one bits among the lowest `n` (R92 POPC). -/
def popGo (w : Word) : Nat → Nat
  | 0 => 0
  | n + 1 => popGo w n + (if w.getLsbD n then 1 else 0)

/-- Zero bits above the highest one bit among the lowest `n` (R92 CLZ). -/
def clzGo (w : Word) : Nat → Nat
  | 0 => 0
  | n + 1 => if w.getLsbD n then 0 else clzGo w n + 1

/-- Bits 64 − n … 63 reversed into bits n − 1 … 0 (R92 BREV). -/
def brevGo (w : Word) : Nat → Nat
  | 0 => 0
  | n + 1 => brevGo w n + (if w.getLsbD (63 - n) then 2 ^ n else 0)

/-- Every bit i moved to bit 63 − i (R92). -/
def brev (w : Word) : Word := BitVec.ofNat 64 (brevGo w 64)

/-- Every byte i moved to byte 7 − i (R92). -/
def bswap (w : Word) : Word := BitVec.ofNat 64 (leNat (leBytes 8 w.toNat).reverse)

/-- CLZ (R92). -/
def execClz (d a : Reg) (s : State) : Out := toReg d (fun k => BitVec.ofNat 64 (clzGo (k.g a) 64)) 1 s
/-- CTZ (R92). -/
def execCtz (d a : Reg) (s : State) : Out := toReg d (fun k => BitVec.ofNat 64 (clzGo (brev (k.g a)) 64)) 1 s
/-- POPC (R92). -/
def execPopc (d a : Reg) (s : State) : Out := toReg d (fun k => BitVec.ofNat 64 (popGo (k.g a) 64)) 1 s
/-- BREV (R92). -/
def execBrev (d a : Reg) (s : State) : Out := toReg d (fun k => brev (k.g a)) 1 s
/-- BSWAP (R92). -/
def execBswap (d a : Reg) (s : State) : Out := toReg d (fun k => bswap (k.g a)) 1 s

/-! ### Immediates (R93) -/

/-- ADDI (R93). -/
def execAddi (d a : Reg) (i : BitVec 16) (s : State) : Out := toReg d (fun k => k.g a + i.signExtend 64) 1 s
/-- ANDI (R93). -/
def execAndi (d a : Reg) (i : BitVec 16) (s : State) : Out := toReg d (fun k => k.g a &&& i.setWidth 64) 1 s
/-- ORI (R93). -/
def execOri (d a : Reg) (i : BitVec 16) (s : State) : Out := toReg d (fun k => k.g a ||| i.setWidth 64) 1 s
/-- XORI (R93). -/
def execXori (d a : Reg) (i : BitVec 16) (s : State) : Out := toReg d (fun k => k.g a ^^^ i.setWidth 64) 1 s
/-- SLTI (R93). -/
def execSlti (d a : Reg) (i : BitVec 16) (s : State) : Out := toReg d (fun k => boolWord ((k.g a).slt (i.signExtend 64))) 1 s

/-! ### SHIFT-FIELD (R94) -/

/-- SLLI (R94). -/
def execSlli (d a : Reg) (n : BitVec 6) (s : State) : Out := toReg d (fun k => k.g a <<< n.toNat) 1 s
/-- SRLI (R94). -/
def execSrli (d a : Reg) (n : BitVec 6) (s : State) : Out := toReg d (fun k => k.g a >>> n.toNat) 1 s
/-- SRAI (R94). -/
def execSrai (d a : Reg) (n : BitVec 6) (s : State) : Out := toReg d (fun k => (k.g a).sshiftRight n.toNat) 1 s

/-- Whether a field form names a field: len ≥ 1 and pos + len ≤ 64 (R94). -/
def fieldOk (p l : BitVec 6) : Bool := l != 0 && decide (p.toNat + l.toNat ≤ 64)

/-- A field form: a word with no field traps ILLEGAL_INSTRUCTION (R94). -/
def fieldOp (d : Reg) (p l : BitVec 6) (f : Ctx → Word) (s : State) : Out :=
  plain (fun s => if fieldOk p l then .done (s.putG d (f s.me)) else .trap .illegalInstruction 0) s

/-- EXTS (R94). -/
def execExts (d a : Reg) (p l : BitVec 6) (s : State) : Out := fieldOp d p l (fun k => sext (bits (k.g a) (p.toNat + l.toNat - 1) p.toNat) l.toNat) s
/-- EXTZ (R94). -/
def execExtz (d a : Reg) (p l : BitVec 6) (s : State) : Out := fieldOp d p l (fun k => BitVec.ofNat 64 (bits (k.g a) (p.toNat + l.toNat - 1) p.toNat)) s
/-- INS (R94). -/
def execIns (d a : Reg) (p l : BitVec 6) (s : State) : Out := fieldOp d p l (fun k => setBits (k.g d) (p.toNat + l.toNat - 1) p.toNat (k.g a).toNat) s

/-! ### Constants and addresses (R95) -/

/-- LI (R95). -/
def execLi (d : Reg) (i : BitVec 21) (s : State) : Out := toReg d (fun _ => i.signExtend 64) 1 s
/-- LIM (R95). -/
def execLim (d : Reg) (i : BitVec 21) (s : State) : Out := toReg d (fun k => (k.g d <<< 21) ||| i.setWidth 64) 1 s
/-- ADDPC (R95). -/
def execAddpc (d : Reg) (i : BitVec 21) (s : State) : Out := toReg d (fun k => k.pc + (i.signExtend 64) * 4) 1 s

/-! ### Control transfer (R97 to R100) -/

/-- A conditional branch (R97). -/
def branch (c : Word → Word → Bool) (a b : Reg) (o : BitVec 16) (s : State) : Out :=
  plain (fun s => if c (s.me.g a) (s.me.g b) then .jump s (s.pc + o.signExtend 64 * 4) else .done s) s

/-- BEQ (R97). -/
def execBeq (a b : Reg) (o : BitVec 16) (s : State) : Out := branch (fun x y => x == y) a b o s
/-- BNE (R97). -/
def execBne (a b : Reg) (o : BitVec 16) (s : State) : Out := branch (fun x y => x != y) a b o s
/-- BLT (R97). -/
def execBlt (a b : Reg) (o : BitVec 16) (s : State) : Out := branch (fun x y => x.slt y) a b o s
/-- BGE (R97). -/
def execBge (a b : Reg) (o : BitVec 16) (s : State) : Out := branch (fun x y => y.sle x) a b o s
/-- BLTU (R97). -/
def execBltu (a b : Reg) (o : BitVec 16) (s : State) : Out := branch (fun x y => x.ult y) a b o s
/-- BGEU (R97). -/
def execBgeu (a b : Reg) (o : BitVec 16) (s : State) : Out := branch (fun x y => y.ule x) a b o s
/-- J (R98). -/
def execJ (o : BitVec 26) (s : State) : Out := plain (fun s => .jump s (s.pc + o.signExtend 64 * 4)) s
/-- CALL (R98). -/
def execCall (o : BitVec 26) (s : State) : Out :=
  plain (fun s => .jump (s.putG 31 (s.pc + 4)) (s.pc + o.signExtend 64 * 4)) s

/-- A transfer to a register's value, which must be a multiple of 4 (R21, R99). -/
def transfer (link : State → State) (target : Word) (s : State) : Res :=
  if bits target 1 0 ≠ 0 then .trap .misaligned target else .jump (link s) target

/-- JR (R99). -/
def execJr (a : Reg) (s : State) : Out := plain (fun s => transfer id (s.me.g a) s) s
/-- CALLR (R99): the target is read before the link is written. -/
def execCallr (a : Reg) (s : State) : Out := plain (fun s => transfer (fun s => s.putG 31 (s.pc + 4)) (s.me.g a) s) s

/-- SEL (R101). -/
def execSel (d a b c : Reg) (s : State) : Out := toReg d (fun k => if k.g c ≠ 0 then k.g a else k.g b) 1 s

/-! ### Scratchpad loads and stores (R102, R103) -/

/-- Effective address of a load or store (R102). -/
def State.ea (s : State) (a : Reg) (o : BitVec 13) : Int := effAddr (s.me.g a) o.toInt

/-- A scratchpad load: usable three beats later (R20, R89). -/
def load (size : Nat) (f : Nat → Word) (d a : Reg) (o : BitVec 13) (s : State) : Out :=
  plain (fun s => s.spLoad (s.ea a o) size fun v => .done (s.putG d (f v) 3)) s

/-- A scratchpad store. -/
def store (size : Nat) (r a : Reg) (o : BitVec 13) (s : State) : Out :=
  plain (fun s => s.spStore (s.ea a o) size (s.me.g r)) s

/-- LDB (R102). -/
def execLdb (d a : Reg) (o : BitVec 13) (s : State) : Out := load 1 (sext · 8) d a o s
/-- LDBU (R102). -/
def execLdbu (d a : Reg) (o : BitVec 13) (s : State) : Out := load 1 (BitVec.ofNat 64 ·) d a o s
/-- LDH (R102). -/
def execLdh (d a : Reg) (o : BitVec 13) (s : State) : Out := load 2 (sext · 16) d a o s
/-- LDHU (R102). -/
def execLdhu (d a : Reg) (o : BitVec 13) (s : State) : Out := load 2 (BitVec.ofNat 64 ·) d a o s
/-- LDW (R102). -/
def execLdw (d a : Reg) (o : BitVec 13) (s : State) : Out := load 4 (sext · 32) d a o s
/-- LDWU (R102). -/
def execLdwu (d a : Reg) (o : BitVec 13) (s : State) : Out := load 4 (BitVec.ofNat 64 ·) d a o s
/-- LDD (R102). -/
def execLdd (d a : Reg) (o : BitVec 13) (s : State) : Out := load 8 (BitVec.ofNat 64 ·) d a o s
/-- STB (R103). -/
def execStb (r a : Reg) (o : BitVec 13) (s : State) : Out := store 1 r a o s
/-- STH (R103). -/
def execSth (r a : Reg) (o : BitVec 13) (s : State) : Out := store 2 r a o s
/-- STW (R103). -/
def execStw (r a : Reg) (o : BitVec 13) (s : State) : Out := store 4 r a o s
/-- STD (R103). -/
def execStd (r a : Reg) (o : BitVec 13) (s : State) : Out := store 8 r a o s

end Sys2Proof.Machine
end

