-- ==== Sys2Proof/Machine/ScalarFp.lean ====
section
/-! DEFINITION. Scalar floating point (04: R105 to R111, R89 for the latencies). -/

namespace Sys2Proof.Machine

/-- Format of a precision (R105). -/
def precFmt : Prec → Fmt | .s => fp32 | .d => fp64

/-- The encoding a scalar operand holds: the low 32 bits for .S, all 64 for .D (R105). -/
def Ctx.fop (k : Ctx) (p : Prec) (r : Reg) : Nat := match p with | .s => bits (k.g r) 31 0 | .d => (k.g r).toNat

/-- The number a scalar operand holds. -/
def Ctx.fval (k : Ctx) (p : Prec) (r : Reg) : FVal := (precFmt p).dec (k.fop p r)

/-- The rounding of an instruction without a prefix: ST.RM, no saturation, and under STO the next draw (R40, R41). -/
def Ctx.mode (k : Ctx) : Mode := ⟨rmOf k.rm, false, drawBits (drawStep k.rngseed)⟩

/-- Under STO a rounding instruction makes one draw (R41, R105). -/
def State.drewOne (s : State) : State :=
  if s.me.rm = 5 then s.onMe fun k => { k with rngseed := drawStep k.rngseed } else s

/-- A scalar floating instruction that rounds: its flags, its draw, its result after `lat` beats. -/
def fpRound (d : Reg) (lat : Nat) (f : Ctx → FRes) (s : State) : Out :=
  plain (fun s => let r := f s.me; .done ((s.drewOne.raise r.fl).putG d (BitVec.ofNat 64 r.bits) lat)) s

/-- A scalar floating instruction that never rounds. -/
def fpPlain (d : Reg) (lat : Nat) (f : Ctx → FRes) (s : State) : Out :=
  plain (fun s => let r := f s.me; .done ((s.raise r.fl).putG d (BitVec.ofNat 64 r.bits) lat)) s

/-- FADD (R106). -/
def execFadd (d a b : Reg) (p : Prec) (s : State) : Out := fpRound d 4 (fun k => fAdd (precFmt p) k.mode (k.fval p a) (k.fval p b)) s
/-- FSUB (R106): FADD with b negated. -/
def execFsub (d a b : Reg) (p : Prec) (s : State) : Out := fpRound d 4 (fun k => fAdd (precFmt p) k.mode (k.fval p a) (k.fval p b).neg) s
/-- FMUL (R106). -/
def execFmul (d a b : Reg) (p : Prec) (s : State) : Out := fpRound d 4 (fun k => fMul (precFmt p) k.mode (k.fval p a) (k.fval p b)) s
/-- FDIV (R106). -/
def execFdiv (d a b : Reg) (p : Prec) (s : State) : Out :=
  fpRound d (match p with | .s => 10 | .d => 16) (fun k => fDiv (precFmt p) k.mode (k.fval p a) (k.fval p b)) s
/-- FSQRT (R106). -/
def execFsqrt (d a : Reg) (p : Prec) (s : State) : Out :=
  fpRound d (match p with | .s => 12 | .d => 20) (fun k => fSqrt (precFmt p) k.mode (k.fval p a)) s
/-- FMIN (R107). -/
def execFmin (d a b : Reg) (p : Prec) (s : State) : Out := fpPlain d 2 (fun k => fMinMax (precFmt p) false (k.fop p a) (k.fop p b)) s
/-- FMAX (R107). -/
def execFmax (d a b : Reg) (p : Prec) (s : State) : Out := fpPlain d 2 (fun k => fMinMax (precFmt p) true (k.fop p a) (k.fop p b)) s

/-- A comparison result with NV (R108). -/
def cmpRes (r nv : Bool) : FRes := ⟨if r then 1 else 0, { nv := nv }, false⟩

/-- FEQ (R108): NV only for a signalling NaN. -/
def execFeq (d a b : Reg) (p : Prec) (s : State) : Out :=
  fpPlain d 2 (fun k => let x := k.fval p a; let y := k.fval p b; cmpRes (fEq x y) (x.isSig || y.isSig)) s
/-- FLT (R108): NV for any NaN. -/
def execFlt (d a b : Reg) (p : Prec) (s : State) : Out :=
  fpPlain d 2 (fun k => let x := k.fval p a; let y := k.fval p b; cmpRes (fLt x y) (x.isNan || y.isNan)) s
/-- FLE (R108): NV for any NaN. -/
def execFle (d a b : Reg) (p : Prec) (s : State) : Out :=
  fpPlain d 2 (fun k => let x := k.fval p a; let y := k.fval p b; cmpRes (fLe x y) (x.isNan || y.isNan)) s
/-- FCLASS (R109). -/
def execFclass (d a : Reg) (p : Prec) (s : State) : Out := fpPlain d 2 (fun k => ⟨fClass (precFmt p) (k.fop p a), {}, false⟩) s
/-- FCVT.S.D (R110). -/
def execFcvtSD (d a : Reg) (s : State) : Out := fpRound d 3 (fun k => fCvt fp32 k.mode (k.fval .d a)) s
/-- FCVT.D.S (R110): exact, never rounds. -/
def execFcvtDS (d a : Reg) (s : State) : Out := fpPlain d 3 (fun k => fCvt fp64 modeRne (k.fval .s a)) s

/-- An integer result as its sign-extended 64 bits (R110). -/
def intRes (r : Int × Fl) : FRes := ⟨(BitVec.ofInt 64 r.1).toNat, r.2, false⟩

/-- FCVT.W.S (R110). -/
def execFcvtWS (d a : Reg) (s : State) : Out := fpRound d 3 (fun k => intRes (fToInt 32 k.mode (k.fval .s a))) s
/-- FCVT.S.W (R110). -/
def execFcvtSW (d a : Reg) (s : State) : Out := fpRound d 3 (fun k => fCvt fp32 k.mode (ofInt (sInt (k.g a).toNat 32))) s
/-- FCVT.L.D (R110). -/
def execFcvtLD (d a : Reg) (s : State) : Out := fpRound d 3 (fun k => intRes (fToInt 64 k.mode (k.fval .d a))) s
/-- FCVT.D.L (R110). -/
def execFcvtDL (d a : Reg) (s : State) : Out := fpRound d 3 (fun k => fCvt fp64 k.mode (ofInt (k.g a).toInt)) s
/-- FMADD (R111). -/
def execFmadd (d a b c : Reg) (p : Prec) (s : State) : Out :=
  fpRound d 4 (fun k => fMa (precFmt p) k.mode false false (k.fval p a) (k.fval p b) (k.fval p c)) s
/-- FMSUB (R111). -/
def execFmsub (d a b c : Reg) (p : Prec) (s : State) : Out :=
  fpRound d 4 (fun k => fMa (precFmt p) k.mode false true (k.fval p a) (k.fval p b) (k.fval p c)) s
/-- FNMADD (R111). -/
def execFnmadd (d a b c : Reg) (p : Prec) (s : State) : Out :=
  fpRound d 4 (fun k => fMa (precFmt p) k.mode true false (k.fval p a) (k.fval p b) (k.fval p c)) s

end Sys2Proof.Machine
end

