-- ==== Sys2Proof/Machine/Lanes.lean ====
section
/-! DEFINITION. Vector registers by lanes, element formats, block formats, prefixes, exact sums and residues
(02: R32 to R57; 05: R112 to R115). -/

namespace Sys2Proof.Machine

/-! ### Lanes (R12, R113) -/

/-- Lane `i` of width `w` (R12). -/
def laneOf (v : VReg) (w i : Nat) : Nat := v.toNat / 2 ^ (w * i) % 2 ^ w

/-- The number whose lanes of width `w` below `n` are `f 0`, `f 1`, … -/
def ofLanes (w : Nat) (f : Nat → Nat) : Nat → Nat
  | 0 => 0
  | n + 1 => ofLanes w f n + f n % 2 ^ w * 2 ^ (w * n)

/-- The register whose `n` lanes of width `w` are given, every higher bit zero. -/
def vecOf (w n : Nat) (f : Nat → Nat) : VReg := BitVec.ofNat 1024 (ofLanes w f n)

/-- Whether predicate `p` makes lane `i` of width `w` active (R12, R113). -/
def active (p : Pred) (w i : Nat) : Bool := p.getLsbD (w * i / 32)

/-- A register mapped lane by lane under a predicate: masked lanes merge with the old register, or are zeroed (R113). -/
def mapLanes (p : Pred) (zero : Bool) (old : VReg) (w : Nat) (f : Nat → Nat) : VReg :=
  vecOf w (1024 / w) fun i => if active p w i then f i else if zero then 0 else laneOf old w i

/-- Width of a VALU lane. -/
def laneW : LaneW → Nat | .w32 => 32 | .w16 => 16 | .w8 => 8

/-! ### Element formats (R32, R37, R112) -/

/-- Element width of a format code (R32, R112). -/
def elemWidth (code : Nat) : Nat :=
  match code with
  | 0 => 32 | 1 => 16 | 2 => 16 | 3 => 8 | 4 => 8 | 5 => 6 | 6 => 6 | 7 => 4 | 8 => 8 | 9 => 4 | 10 => 2 | 11 => 8
  | 12 => 8 | 13 => 6 | 14 => 4 | _ => 32

/-- E(f): elements a register holds (R112). -/
def elemCount (code : Nat) : Nat :=
  match code with
  | 0 => 32 | 1 => 64 | 2 => 64 | 15 => 32 | _ => 128

/-- The floating-point format of a code, if it has one (R32). -/
def fmtOf (code : Nat) : Option Fmt :=
  match code with
  | 0 => some fp32 | 1 => some bf16 | 2 => some fp16 | 3 => some e4m3 | 4 => some e5m2 | 5 => some e3m2 | 6 => some e2m3
  | 7 => some e2m1 | _ => none

/-- Whether an encoding of a code is invalid (R37). -/
def invalidElem (code bits : Nat) : Bool := code == 10 && bits == 2

/-- Decode(e, code) for the codes that decode alone (R60, R37). -/
def decElem (code bits : Nat) : FVal :=
  match fmtOf code with
  | some f => f.dec bits
  | none =>
    if code = 10 then (if bits = 1 then ofInt 1 else if bits = 3 then ofInt (-1) else ofInt 0)
    else if code = 11 then ofInt bits
    else ofInt (sInt bits (elemWidth code))

/-- Smallest and largest integer of an integer code (R37). -/
def intRange (code : Nat) : Int × Int :=
  if code = 10 then (-1, 1)
  else (-(2 ^ (elemWidth code - 1) : Nat), (2 ^ (elemWidth code - 1) : Nat) - 1)

/-- RoundSat(x, code, rm, sat) (R38, R60). -/
def encElem (code : Nat) (md : Mode) (v : FVal) : Rounded :=
  match fmtOf code with
  | some f => f.round md.rm md.sat md.draw v
  | none =>
    let (lo, hi) := intRange code
    let (n, r) := roundToInt lo hi md.rm md.draw v
    { r with bits := (BitVec.ofInt (elemWidth code) n).toNat }

/-- M bits, bias B, Mmax and default Δ of a DBF format (R45, R47). -/
def dbfParams (code : Nat) : Nat × Int × Nat × Nat :=
  match code with
  | 12 => (6, 132, 63, 4) | 13 => (4, 130, 15, 3) | _ => (2, 128, 3, 2)

/-- Value of a DBF element in a block with exponents E_HI and E_LO (R45). -/
def decDbf (code ehi elo bits : Nat) : FVal :=
  let (mb, bias, _, _) := dbfParams code
  if ehi = 0xFF then .nan false
  else .fin (bits.testBit mb) (bits % 2 ^ mb) ((if bits.testBit (mb + 1) then elo else ehi : Nat) - bias)

/-- Value of an element under an E8M0 scale (R48). -/
def decMx (code scale bits : Nat) : FVal :=
  if scale = 0xFF then .nan false
  else match decElem code bits with
    | .fin n m e => .fin n m (e + scale - 127)
    | v => v

/-- P of R48. -/
def mxP (code : Nat) : Int :=
  match code with
  | 3 => 8 | 4 => 15 | 5 => 4 | 6 => 2 | 7 => 2 | 8 => 6 | _ => 2

/-! ### Events and draws of a lane -/

/-- What one element's conversion or operation comes to. -/
structure LaneOut where
  bits : Nat
  fl : Fl := {}
  ovf : Bool := false
  satd : Bool := false
  nan : Bool := false
  under : Bool := false
  inval : Bool := false
  deriving DecidableEq, Repr

/-- A rounded element; its events count when `counts` (R39: codes 1 to 14). -/
def LaneOut.ofRounded (r : Rounded) (counts : Bool) : LaneOut :=
  ⟨r.bits, r.fl, counts && r.ovf, counts && r.satd, counts && r.mkNan, counts && r.under, false⟩

/-- The state with the flags, the counts of R39 and EVC4 of a list of elements. -/
def State.tally (s : State) (l : List LaneOut) : State :=
  let s := s.raise (l.foldl (fun f o => f.or o.fl) {})
  s.onMy fun x => (x.countEvents (l.countP (·.ovf)) (l.countP (·.satd)) (l.countP (·.nan)) (l.countP (·.under))).bumpEvc 4
    (l.countP (·.inval))

/-- Number of active positions below `t` among `n` positions of a predicate (R113). -/
def activeBelow (act : Nat → Bool) : Nat → Nat
  | 0 => 0
  | t + 1 => activeBelow act t + (if act t then 1 else 0)

/-- The draw of the active element at position `t` (R41: one draw for each active element, ascending). -/
def drawAt (seed : Word) (act : Nat → Bool) (t : Nat) : Nat := drawBits (drawN (activeBelow act t + 1) seed)

/-- The elements of `n` positions, one result each; masked positions give none. -/
def elements (n : Nat) (act : Nat → Bool) (f : Nat → LaneOut) : List (Option LaneOut) :=
  (List.range n).map fun t => if act t then some (f t) else none

/-- The state after `n` draws under STO. -/
def State.drew (s : State) (rm : Rm) (n : Nat) : State :=
  if rm = .sto then s.onMe fun k => { k with rngseed := drawN n k.rngseed } else s

/-! ### Prefixes (R69, R70) -/

/-- The fields of a pending prefix (R69). -/
structure Pfx where
  a : Nat
  b : Nat
  c : Nat
  scale : Nat
  rnd : Nat
  sat : Bool
  delta : Nat
  deriving DecidableEq, Repr

/-- The fields of a payload (R69). -/
def pfxOf (p : BitVec 26) : Pfx :=
  let n := p.toNat
  ⟨n / 2 ^ 22 % 16, n / 2 ^ 18 % 16, n / 2 ^ 15 % 8, n / 2 ^ 13 % 4, n / 2 ^ 10 % 8, n.testBit 9, n / 2 ^ 5 % 16⟩

/-- The prefix an instruction consumes, if one is pending. -/
def Ctx.pfxNow (k : Ctx) : Option Pfx := if k.pendBit then some (pfxOf k.pfx) else none

/-! ### Exact sums (R50, R51, R118) -/

/-- The exact sum of finite numbers. -/
def sumFin (l : List (Bool × Nat × Int)) : Int × Int :=
  let e := l.foldl (fun m x => min m x.2.2) (match l with | [] => 0 | x :: _ => x.2.2)
  (l.foldl (fun a x => a + (if x.1 then -1 else 1) * (x.2.1 * 2 ^ (x.2.2 - e).toNat : Nat)) 0, e)

/-- The finite numbers of a list. -/
def finites (l : List FVal) : List (Bool × Nat × Int) :=
  l.filterMap fun v => match v with | .fin n m e => some (n, m, e) | _ => none

/-- The exact sum of a list of terms that holds no NaN and not both infinities; an exact zero takes the sign its terms
share, else −0 under RDN only (R118). -/
def sumTerms (rm : Rm) (l : List FVal) : FVal :=
  match l.find? (fun v => match v with | .inf _ => true | _ => false) with
  | some v => v
  | none =>
    let (n, e) := sumFin (finites l)
    if n = 0 then
      if l.all (fun v => v.isZero && !v.sign) then .fin false 0 0
      else if l.all (fun v => v.isZero && v.sign) then .fin true 0 0
      else .fin (rm == .rdn) 0 0
    else .fin (decide (n < 0)) n.natAbs e

/-- Whether a list of terms holds both infinities. -/
def bothInf (l : List FVal) : Bool := l.contains (.inf true) && l.contains (.inf false)

/-! ### Residues (R54 to R57) -/

/-- Modulus of a channel (R54). -/
def modulus (ch : Nat) : Nat :=
  match ch with
  | 0 => 251 | 1 => 247 | 2 => 241 | 3 => 239 | 4 => 233 | 5 => 229 | 6 => 227 | 7 => 223 | 8 => 255 | 9 => 253
  | _ => 1

/-- Residue(X, m) (R60). -/
def residue (x : Int) (m : Nat) : Nat := (x % (m : Int)).toNat

/-- The least integer congruent to every (residue, modulus), with the product of the moduli. -/
def crt (l : List (Nat × Nat)) : Nat × Nat :=
  l.foldl (fun (x, p) (r, m) =>
    (x + p * ((List.range m).find? (fun t => (x + p * t) % m = r % m)).getD 0, p * m)) (0, 1)

/-- Reconstruct(T) (R56): mapped into −(P−1)/2 … (P−1)/2. -/
def reconstruct (l : List (Nat × Nat)) : Int :=
  let (x, p) := crt l
  if x > (p - 1) / 2 then (x : Int) - p else x

/-- Class of a converted lane (R131). -/
inductive LaneClass | ok | corrected (u : Nat) | overflow | uncorrectable
  deriving DecidableEq, Repr

/-- L_k (R55). -/
def legit (k : Nat) : Nat := (((List.range k).foldl (fun p c => p * modulus c) 1) - 1) / 2

/-- Classification of one lane (R56): `res` gives the residues of the configured channels. -/
def classify (k c : Nat) (res : Nat → Nat) : LaneClass × Int :=
  let main := List.range k
  let chans := main ++ (List.range c).map (· + 8)
  let rec' (l : List Nat) : Int := reconstruct (l.map fun u => (res u, modulus u))
  let within (x : Int) : Bool := decide (x.natAbs ≤ legit k)
  let x := rec' chans
  if within x then (.ok, x)
  else if c ≤ 1 then (.uncorrectable, -(2 ^ 63 : Nat))
  else
    match chans.filter (fun u => within (rec' (chans.filter (· != u)))) with
    | [u] => (.corrected u, rec' (chans.filter (· != u)))
    | [] => if rec' (main ++ [8]) = rec' (main ++ [9]) then (.overflow, -(2 ^ 63 : Nat)) else (.uncorrectable, -(2 ^ 63 : Nat))
    | _ => (.uncorrectable, -(2 ^ 63 : Nat))

end Sys2Proof.Machine
end

