-- ==== Sys2Proof/Machine/Route.lean ====
section
/-! DEFINITION. Where messages travel (06: R170, R182, R183; 21: R423 to R427, R432): the torus of a die, the EXT links,
the route among dies and its detours, paths to other modules, and the neighbours of a tile. -/

namespace Sys2Proof.Machine

/-- X of a tile address (R6). -/
def xOf (t : Nat) : Nat := t % 32
/-- Y of a tile address (R6). -/
def yOf (t : Nat) : Nat := t / 32 % 32
/-- The address of die, Y and X inside a module. -/
def tileAt (die y x : Nat) : Nat := die * 1024 + y * 32 + x
/-- Die of an address inside a module. -/
def dieAt (t : Nat) : Nat := t / 1024 % 32
/-- Row of a compute die (R424: die 6r + c). -/
def rowOf (d : Nat) : Nat := d / 6
/-- Column of a compute die. -/
def colOfDie (d : Nat) : Nat := d % 6

/-- One hop on a ring of 32 toward a coordinate, the shorter way, upward at a distance of 16 (R170). -/
def ringStep (a b : Nat) : Nat :=
  let d := (b + 32 - a) % 32
  if d = 0 then a else if d ≤ 16 then (a + 1) % 32 else (a + 31) % 32

/-- One hop inside a die: first in X, then in Y (R170). -/
def stepIn (p q : Nat) : Nat :=
  if xOf p ≠ xOf q then tileAt (dieAt p) (yOf p) (ringStep (xOf p) (xOf q))
  else tileAt (dieAt p) (ringStep (yOf p) (yOf q)) (xOf p)

/-- Whether a die is fenced (R385). -/
def State.fenced (s : State) (d : Nat) : Bool := (vget s.dies d Die.reset).fenced

/-- Whether a tile counts as withdrawn or disabled (R2, R371, R427). -/
def State.gone (s : State) (t : Nat) : Bool := !(s.tile t).enabled || (s.tile t).withdrawn || s.fenced (dieAt t)

/-! ### Among dies (R424, R425, R427) -/

/-- The compute die that faces an edge die's tile of row `y` (R424). -/
def facingDie (e y : Nat) : Nat := if e < 26 then 6 * (2 * (e - 24) + y / 16) else 6 * (2 * (e - 26) + y / 16) + 5

/-- The tile of the facing compute die joined to an edge die's tile of row `y` (R424). -/
def landingTile (e y : Nat) : Nat := tileAt (facingDie e y) (2 * (y % 16)) (if e < 26 then 0 else 31)

/-- The edge tile of die `e` whose EXT link leads to row `y` of its facing dies (R424). -/
def extTile (e y : Nat) : Nat := tileAt e y (if e < 26 then 31 else 0)

/-- Dies of the die leg from `d` to `g`, the first excluded: columns first, or rows first on a detour (R425, R427). -/
def diePath (rowsFirst : Bool) : Nat → Nat → Nat → List Nat
  | 0, _, _ => []
  | n + 1, d, g =>
    let col : Option Nat := if colOfDie d < colOfDie g then some (d + 1) else if colOfDie g < colOfDie d then some (d - 1) else none
    let row : Option Nat := if rowOf d < rowOf g then some (d + 6) else if rowOf g < rowOf d then some (d - 6) else none
    match (if rowsFirst then row.or col else col.or row) with
    | none => []
    | some e => e :: diePath rowsFirst n e g

/-- Whether every die of a path is in service. -/
def State.clear (s : State) (l : List Nat) : Bool := l.all fun d => !s.fenced d

/-- The order of a die leg that avoids every fenced die: columns first if it can, else rows first (R427). -/
def State.legOrder (s : State) (detour : Bool) (d g : Nat) : Option Bool :=
  if !detour && s.clear (diePath false 9 d g) then some false
  else if s.clear (diePath true 9 d g) then some true
  else none

/-- The row of an edge die by which a leg crosses: `y`, or where the die it faces is fenced, the one that faces the other (R427). -/
def State.crossing (s : State) (e y : Nat) : Nat := if s.fenced (facingDie e y) then (y + 16) % 32 else y

/-- The compute-die tile a packet for `q` makes for, when it lands in row `y` of an edge die. -/
def landingFor (q y : Nat) : Nat := if 24 ≤ dieAt q then landingTile (dieAt q) y else q

/-- The edge row by which a packet leaves edge die `e` toward a compute tile (R425 step 1): the facing die in the nearer row. -/
def sourceRow (e target : Nat) : Nat :=
  let r0 := 2 * (if e < 26 then e - 24 else e - 26)
  let half := if rowOf (dieAt target) ≤ r0 then 0 else 16
  half + yOf target / 2

/-- A route for a packet at `p` bound for `q` inside the module (R425, R427): the edge row it leaves a source edge die by, the
edge row it lands by, and whether its die leg goes rows first. -/
def State.plan (s : State) (detour : Bool) (p q : Nat) : Option (Nat × Nat × Bool) :=
  let l := if 24 ≤ dieAt q then s.crossing (dieAt q) (yOf q) else 0
  let f := if 24 ≤ dieAt p then s.crossing (dieAt p) (sourceRow (dieAt p) (landingFor q l)) else 0
  let start := if 24 ≤ dieAt p then facingDie (dieAt p) f else dieAt p
  let goal := dieAt (landingFor q l)
  if s.fenced start || s.fenced goal || s.fenced (dieAt q) then none
  else (s.legOrder detour start goal).map fun o => (f, l, o)

/-- Whether a route to a tile of the module exists (R427). -/
def State.routable (s : State) (p q : Nat) : Bool := dieAt p == dieAt q || (s.plan false p q).isSome

/-- The exit tile of a die toward the next die, and the tile beyond (R425 step 2). -/
def exitTo (p d : Nat) : Nat × Nat :=
  let c := dieAt p
  if d = c + 1 then (tileAt c (yOf p) 31, tileAt d (yOf p) 0)
  else if d + 1 = c then (tileAt c (yOf p) 0, tileAt d (yOf p) 31)
  else if d = c + 6 then (tileAt c 31 (xOf p), tileAt d 0 (xOf p))
  else (tileAt c 0 (xOf p), tileAt d 31 (xOf p))

/-- Whether a hop inside a die goes over the wrap link of a ring (R177). -/
def wraps (p q : Nat) : Bool :=
  dieAt p == dieAt q && ((xOf p == 31 && xOf q == 0) || (xOf p == 0 && xOf q == 31) || (yOf p == 31 && yOf q == 0) || (yOf p == 0 && yOf q == 31))

/-- The ring class of a packet after a hop (R177): a ring is entered in the class before its wrap link, and left for the other ring or the
next die. -/
def ringClass (wrapped : Bool) (prev p q : Nat) : Bool :=
  wraps p q || (wrapped && dieAt p == dieAt q && dieAt prev == dieAt p && (xOf p == xOf q) == (xOf prev == xOf p))

/-- One hop toward a tile, and over the link when there (`beyond`). -/
def stepTo (p exit beyond : Nat) (now after : PClass) : Nat × PClass := if p = exit then (beyond, after) else (stepIn p exit, now)

/-- The next place of a packet inside the module, and its buffer class there (R425, R426): none where no route is left. -/
def State.hop (s : State) (p q : Nat) (cls : PClass) : Option (Nat × PClass) :=
  if dieAt p = dieAt q then some (stepIn p q, .dest)
  else
    let detour := cls == .detourY || cls == .detourX
    match s.plan detour p q with
    | none => none
    | some (f, l, rows) =>
      if 24 ≤ dieAt p then
        some (stepTo p (extTile (dieAt p) f) (landingTile (dieAt p) f) .source (if rows then .detourY else .x))
      else
        let goal := landingFor q l
        match diePath rows 9 (dieAt p) (dieAt goal) with
        | [] => some (stepTo p goal (extTile (dieAt q) l) .dest .dest)
        | d :: _ =>
          let isRow := colOfDie d == colOfDie (dieAt p)
          let c : PClass := if rows then (if isRow then .detourY else .detourX) else (if isRow then .y else .x)
          let (exit, beyond) := exitTo p d
          some (stepTo p exit beyond c c)

/-! ### Other modules (R423, R428, R432) -/

/-- Address inside a module of Forzen port `p` (R423). -/
def portTile (p : Nat) : Nat := tileAt (24 + p / 8) 8 (p % 8)

/-- The port a module's traffic leaves by (R428). -/
def State.routePort (s : State) (m : Nat) : Option Nat := (s.routes.find? (·.1 == m)).map (·.2)

/-- Whether the path to another module is up (R432, R448). -/
def State.pathUp (s : State) (m : Nat) : Bool :=
  s.modSet && !s.downPaths.contains m && match s.routePort m with
    | none => false
    | some p => decide (p < 32) && (vget s.ports p Port.reset).up

/-- Whether another module cannot be reached from a tile of this one: its path is down, or no route leads to its port (R427, R432). -/
def State.modGone (s : State) (src m : Nat) : Bool :=
  !s.pathUp m || match s.routePort m with
    | some p => !s.routable src (portTile p)
    | none => true

/-- Whether a destination fails check 2 of R188 (R423, R427, R432). -/
def State.dstGone (s : State) (src dst : Nat) : Bool :=
  let q := dst % 32768
  if 28 ≤ dieAt q then true
  else if 24 ≤ dieAt q ∧ q ≠ 0x6180 then true
  else if dst / 32768 ≠ s.modNo then s.modGone src (dst / 32768)
  else if 24 ≤ dieAt q then !s.routable src q
  else s.gone q || !s.routable src q

/-! ### Reservations (R434) -/

/-- The reservation of an agent at a module's ingress port. -/
def State.grantOf (s : State) (m : Nat) (a : Agent) : Option Grant := s.grants.find? fun g => g.mod == m && g.agent == a

/-- Whether an agent may send `n` bytes to a module under its reservation: it has begun, and its rate allows them (R434). -/
def State.granted (s : State) (m : Nat) (a : Agent) (n : Nat) : Bool :=
  match s.grantOf m a with
  | some g => decide (g.start ≤ s.beat) && decide (g.used + n ≤ g.rate * ((s.beat - g.start) / 256 + 1))
  | none => false

/-- `n` bytes sent under a reservation. -/
def State.useGrant (s : State) (m : Nat) (a : Agent) (n : Nat) : State :=
  { s with grants := s.grants.map fun g => if g.mod = m ∧ g.agent = a then { g with used := g.used + n, last := s.beat } else g }

/-- `n` bytes of droppable traffic of an agent toward a module: under its reservation while it has one, none while that does not let them
(R434). -/
def State.bulk (s : State) (m : Nat) (a : Agent) (n : Nat) : Option State :=
  if (s.grantOf m a).isNone then some s else if s.granted m a n then some (s.useGrant m a n) else none

/-! ### Neighbours (R182, R183) -/

/-- The neighbour tile of port `n`: 0 north, 1 east, 2 south, 3 west (R182). -/
def neighbour (t n : Nat) : Nat :=
  match n with
  | 0 => tileAt (dieAt t) ((yOf t + 31) % 32) (xOf t)
  | 1 => tileAt (dieAt t) (yOf t) ((xOf t + 1) % 32)
  | 2 => tileAt (dieAt t) ((yOf t + 1) % 32) (xOf t)
  | _ => tileAt (dieAt t) (yOf t) ((xOf t + 31) % 32)

/-- The neighbour's FIFO that port `n` feeds: the facing one (R182). -/
def facingPort (n : Nat) : Nat := (n + 2) % 4

/-- Whether port `n` of a tile is closed (R183). -/
def State.closed (s : State) (t n : Nat) : Bool :=
  s.gone (neighbour t n) || (s.tile t).dom == 0 || (s.tile (neighbour t n)).dom != (s.tile t).dom

end Sys2Proof.Machine
end

