-- ==== Sys2Proof/Machine/Memory.lean ====
section
/-! DEFINITION. Memory outside the tile (09, 10): the physical map, memory targets and multicast regions, the die caches,
page tables, TLBs and the translation of an access. -/

namespace Sys2Proof.Machine

/-! ### The physical map (R218, R219, R438) -/

/-- A memory target of R218. -/
inductive MemTarget
  | hbm (stack : Nat)
  | lpddr (die : Nat)
  | host (fn : Nat)
  | remote (m : Nat)
  deriving DecidableEq, Repr

/-- Stack of an HBM address (R219). -/
def State.stackOf (s : State) (pa : Nat) : Nat := s.stackList.getD (pa / 4096 % s.stackList.length) 0

/-- The target of a physical address for an access of a domain, if it has one (R218, R438; log 18 for the own module's number). -/
def State.memTarget (s : State) (dom pa : Nat) : Option MemTarget :=
  if pa < 2 ^ 40 then if pa < s.stackList.length * 2 ^ 36 then some (.hbm (s.stackOf pa)) else none
  else if pa < 2 ^ 42 then some (.lpddr (24 + (pa - 2 ^ 40) / 0xC000000000))
  else if pa < 2 ^ 44 then none
  else if pa < 2 ^ 45 then
    let f := (pa - 2 ^ 44) / 2 ^ 38
    if (vget s.fns f HostFn.reset).dom = some dom then some (.host f) else none
  else if pa < 2 ^ 52 ∧ pa % 2 ^ 43 < 2 ^ 42 ∧ pa / 2 ^ 43 ≠ s.modNo then some (.remote (pa / 2 ^ 43))
  else none

/-- What a target's link-up count is kept for (R244). -/
def MemTarget.link : MemTarget → LinkTarget
  | .hbm s => .edgeDie (24 + s / 4)
  | .lpddr d => .edgeDie d
  | .host f => .hostFn f
  | .remote m => .remote m

/-- A link-up count in a list of them: 0 where none is listed. -/
def upCount (l : List (LinkTarget × Nat)) (x : LinkTarget) : Nat := ((l.find? (·.1 == x)).map (·.2)).getD 0

/-- A list of link-up counts with one set. -/
def setUpCount (l : List (LinkTarget × Nat)) (x : LinkTarget) (n : Nat) : List (LinkTarget × Nat) := (x, n) :: l.filter (·.1 != x)

/-! ### Memory targets -/

/-- Host address of a byte of a host window (R438). -/
def State.hostAddr (s : State) (pa : Nat) : Nat := (vget s.fns ((pa - 2 ^ 44) / 2 ^ 38) HostFn.reset).winBase + (pa - 2 ^ 44) % 2 ^ 38

/-- Whether a physical address lies in a host window. -/
def inWindow (pa : Nat) : Bool := decide (2 ^ 44 ≤ pa ∧ pa < 2 ^ 45)

/-- Whether a physical address lies in a failed stack (R457). -/
def State.failedAt (s : State) (pa : Nat) : Bool := decide (pa < 2 ^ 40) && s.failedStacks.contains (s.stackOf pa)

/-- `n` bytes of the memory targets at a physical address. -/
def State.memRead (s : State) (pa n : Nat) : List Byte :=
  if inWindow pa then s.hostMem.getList (s.hostAddr pa) n else s.mem.getList pa n

/-- Whether `n` bytes of the memory targets touch a poisoned doubleword, or a granule of a failed stack (R374, R457). -/
def State.memPoisoned (s : State) (pa n : Nat) : Bool :=
  ((List.range ((pa % 4096 + n + 4095) / 4096)).any fun i => s.failedAt (pa / 4096 * 4096 + 4096 * i))
    || s.memPoison.any fun p => decide (p < pa + n) && decide (pa < p + 8)

/-- Bytes written at one target: those of the granules of a failed stack are discarded (R457), and the poison of each doubleword that is
written whole is cleared (R374). -/
def State.writeTarget (s : State) (pa : Nat) (bs : List Byte) : State :=
  if inWindow pa then { s with hostMem := s.hostMem.setList (s.hostAddr pa) bs }
  else { s with
    mem := if s.failedStacks = [] then s.mem.setList pa bs else s.mem.setWhere (fun a => !s.failedAt a) pa bs
    memPoison := s.memPoison.filter fun p => !(decide (pa ≤ p) && decide (p + 8 ≤ pa + bs.length) && !s.failedAt p) }

/-- The module of a physical address and its address there (R218). -/
def State.modOf (s : State) (pa : Nat) : Nat × Nat := if pa < 2 ^ 45 then (s.modNo, pa) else (pa / 2 ^ 43, pa % 2 ^ 43)

/-- `n` bytes of droppable traffic of an agent to a physical address (R434). -/
def State.bulkTo (s : State) (a : Agent) (pa n : Nat) : Option State :=
  if (s.modOf pa).1 = s.modNo then some s else s.bulk (s.modOf pa).1 a n

/-- The place of a module's local address: here its own address, and for another module its physical address.  Modules 0 to 3 have no
remote window (R218); what a multicast store writes there stands beyond the physical map (log 21). -/
def State.paOf (s : State) (m local' : Nat) : Nat :=
  if m = s.modNo then local' else if m < 4 then 2 ^ 52 + m * 2 ^ 43 + local' else m * 2 ^ 43 + local'

/-- The multicast group whose root region holds a physical address (R435). -/
def State.groupAt (s : State) (pa : Nat) : Option Group :=
  s.groups.find? fun g => g.root == (s.modOf pa).1 && decide (g.base ≤ (s.modOf pa).2) && decide ((s.modOf pa).2 < g.base + g.size)

/-- A multicast store of a group, at an offset of its region (R435, R264): performed by the root at every member, or by this member as the root
sends it. -/
def State.multicast (s : State) (r : Group) (off : Nat) (data : List Byte) : State :=
  if r.size < off + data.length then s
  else if r.root = s.modNo then r.members.foldl (fun s m => s.writeTarget (s.paOf m (r.base + off)) data) s
  else if r.members.contains s.modNo then s.writeTarget (r.base + off) data
  else s

/-- The stores of a group that another module's root has sequenced and sent here performed in the order in which it sent them (R264). -/
def State.drainGroup (s : State) (r : Group) : State :=
  let mine (e : Event) : Option (Nat × List Byte) := match e with
    | .multicastStore g off data => if g = r.g then some (off, data) else none
    | _ => none
  if r.root = s.modNo then s
  else (s.later.filterMap mine).foldl (fun s (off, data) => s.multicast r off data) { s with later := s.later.filter fun e => (mine e).isNone }

/-- Bytes written at their memory target, at every member for a multicast store (R435); one that another module's root sequences comes after
those that this module has from it already (R264). -/
def State.memWrite (s : State) (pa : Nat) (bs : List Byte) : State :=
  match s.groupAt pa with
  | none => s.writeTarget pa bs
  | some r => r.members.foldl (fun s m => s.writeTarget (s.paOf m (s.modOf pa).2) bs) (s.drainGroup r)

/-- A little-endian number read from the memory targets. -/
def State.memLe (s : State) (pa n : Nat) : Nat := leNat (s.memRead pa n)

/-- A little-endian number written to the memory targets. -/
def State.memSetLe (s : State) (pa n v : Nat) : State := s.memWrite pa (leBytes n v)

/-- Marks the doublewords that `n` bytes at a physical address touch as poisoned (R374). -/
def State.poisonMem (s : State) (pa n : Nat) : State :=
  let ds := (List.range ((pa + n + 7) / 8 - pa / 8)).map fun i => (pa / 8 + i) * 8
  { s with memPoison := s.memPoison.filter (!ds.contains ·) ++ ds }

/-- `n` bytes of the memory targets copied, a multiple of 8 from and to aligned addresses; poison travels with its doubleword (R374). -/
def State.copyMem (s : State) (src dst n : Nat) : State :=
  let bad := (List.range (n / 8)).filter fun i => s.memPoisoned (src + 8 * i) 8
  bad.foldl (fun s i => s.poisonMem (dst + 8 * i) 8) (s.memWrite dst (s.memRead src n))

/-! ### Die caches (R235, R236, R253) -/

/-- Die of a tile of the module (R6). -/
def dieOf (t : Nat) : Nat := t / 1024 % 32

/-- The line of a die's cache that holds a line address, if any. -/
def State.line? (s : State) (die line : Nat) : Option CacheLine := s.caches.find? fun l => l.die == die && l.line == line

/-- The number of the set a line belongs to (R235). -/
def cacheSetOf (line : Nat) : Nat := Config.cacheSet line % 49152

/-- The caches without a line. -/
def State.dropLine (s : State) (die line : Nat) : State :=
  { s with caches := s.caches.filter fun l => !(l.die == die && l.line == line) }

/-- The caches with a line set. -/
def State.setLine (s : State) (l : CacheLine) : State := let s := s.dropLine l.die l.line; { s with caches := l :: s.caches }

/-- The bytes of a line. -/
def CacheLine.bytes (l : CacheLine) : List Byte := leBytes 128 l.data.toNat

/-- A vector register of 128 bytes, the lowest first. -/
def vregOf (bs : List Byte) : VReg := BitVec.ofNat 1024 (leNat bs)

/-- `n` ones from bit `lo` of a 128-bit mask. -/
def byteMask (lo n : Nat) : BitVec 128 := BitVec.ofNat 128 ((2 ^ n - 1) * 2 ^ lo)

/-- The doublewords that bytes `lo` to `lo + n − 1` of a line touch. -/
def dwMask (lo n : Nat) : BitVec 16 := if n = 0 then 0 else BitVec.ofNat 16 ((2 ^ ((lo + n - 1) / 8 + 1 - lo / 8) - 1) * 2 ^ (lo / 8))

/-- Bytes chosen from two lists by a mask. -/
def mergeBytes (old new : List Byte) (m : BitVec 128) : List Byte :=
  (List.range 128).map fun i => if m.getLsbD i then new.getD i 0 else old.getD i 0

/-- Writes the dirty bytes of doubleword `i` of a line back to the memory target (R236, R374). -/
def State.writeBackDw (s : State) (l : CacheLine) (i : Nat) : State :=
  let pa := l.line * 128 + 8 * i
  let bs := (l.bytes.drop (8 * i)).take 8
  let mask := bits64 l.dirty i
  let s := if mask = 255 then s.memWrite pa bs
    else (List.range 8).foldl (fun s j => if mask / 2 ^ j % 2 = 1 then s.memWrite (pa + j) [bs.getD j 0] else s) s
  if mask ≠ 0 ∧ l.poison.getLsbD i then s.poisonMem pa 8 else s
where
  /-- The dirty bits of doubleword `i`. -/
  bits64 (m : BitVec 128) (i : Nat) : Nat := m.toNat / 2 ^ (8 * i) % 256

/-- Writes a line's dirty bytes back; it stays, clean. -/
def State.writeBack (s : State) (l : CacheLine) : State :=
  if l.dirty = 0 then s
  else ((List.range 16).foldl (fun s i => s.writeBackDw l i) s).setLine { l with dirty := 0 }

/-- Writes a line back and drops it, if the die's cache holds it (R253). -/
def State.flushLine (s : State) (die line : Nat) : State :=
  match s.line? die line with
  | none => s
  | some l => (s.writeBack l).dropLine die line

/-- Room for a line in its set of 16 ways (R235): one of the set's lines, freely chosen, leaves for a line the full set does not hold (log 6). -/
def State.makeRoom (s : State) (die line : Nat) : State :=
  let ways := s.caches.filter fun l => l.die == die && cacheSetOf l.line == cacheSetOf line
  if ways.length < 16 ∨ (s.line? die line).isSome then s
  else match ways[Config.pick s.fv % ways.length]? with
    | some l => { s with fv := s.fv + 1 }.flushLine l.die l.line
    | none => s

/-- The line with the bytes it does not hold read from the memory target, and whether that read met poison. -/
def State.filled (s : State) (l : CacheLine) : CacheLine :=
  let pa := l.line * 128
  let miss (i : Nat) : Bool := decide (l.held.toNat / 2 ^ (8 * i) % 256 ≠ 255) && s.memPoisoned (pa + 8 * i) 8
  { l with
    data := vregOf (mergeBytes (s.memRead pa 128) l.bytes l.held)
    held := BitVec.allOnes 128
    poison := l.poison ||| BitVec.ofNat 16 ((List.range 16).foldl (fun n i => if miss i then n + 2 ^ i else n) 0) }

/-- The doublewords of a line with a dirty byte. -/
def CacheLine.dirtyDws (l : CacheLine) : BitVec 16 :=
  BitVec.ofNat 16 ((List.range 16).foldl (fun n i => if l.dirty.toNat / 2 ^ (8 * i) % 256 = 0 then n else n + 2 ^ i) 0)

/-- A line newly allocated, holding nothing. -/
def newLine (die line sync dom : Nat) : CacheLine := ⟨die, line, 0, 0, 0, 0, sync, dom⟩

/-- Reads `n` bytes that do not cross a line through a die's cache: the state, the bytes and whether they carry poison. -/
def State.cacheRead (s : State) (die pa n sync dom : Nat) : State × List Byte × Bool :=
  let s := s.makeRoom die (pa / 128)
  let lo := pa % 128
  let l := (s.line? die (pa / 128)).getD (newLine die (pa / 128) sync dom)
  let l := if l.held &&& byteMask lo n = byteMask lo n then l else s.filled l
  (s.setLine l, (l.bytes.drop lo).take n, l.poison &&& dwMask lo n != 0)

/-- The tile of a die whose home slice holds a line: one of its enabled tiles (R235). -/
def State.homeTile (s : State) (die line : Nat) : Nat :=
  let on := (List.range 1024).filter fun i => (s.tile (die * 1024 + i)).enabled
  die * 1024 + on.getD (Config.homeHash line % on.length) 0

/-- A line written, as an event of UNIT 5 for the tile of its home slice (R407; log 20 for the line address of ADDR): FLIP changes
a bit of its first doubleword, UE poisons its dirty doublewords and drops a clean line (R373). -/
def State.putLine (s : State) (l : CacheLine) : State :=
  if s.tiles.any fun (t, x) => dieOf t == l.die && x.armed 5 then
    let t := s.homeTile l.die l.line
    match (s.tile t).injection 5 (l.line % 2 ^ 19) with
    | (x, some 0) => (s.setTile t x).setLine { l with data := l.data ^^^ BitVec.ofNat 1024 (2 ^ x.injectBit) }
    | (x, some 2) =>
      let s := s.setTile t x
      if l.dirty = 0 then s.dropLine l.die l.line else s.setLine { l with poison := l.poison ||| l.dirtyDws }
    | (x, _) => (s.setTile t x).setLine l
  else s.setLine l

/-- Writes bytes that do not cross a line into a die's cache, allocating without reading memory (R235). -/
def State.cacheWrite (s : State) (die pa : Nat) (bs : List Byte) (sync dom : Nat) : State :=
  let s := s.makeRoom die (pa / 128)
  let lo := pa % 128
  let l := (s.line? die (pa / 128)).getD (newLine die (pa / 128) sync dom)
  let m := byteMask lo bs.length
  let new := List.replicate lo (0 : Byte) ++ bs
  let whole (i : Nat) : Bool := decide (lo ≤ 8 * i) && decide (8 * i + 8 ≤ lo + bs.length)
  s.putLine { l with
    data := vregOf (mergeBytes l.bytes new m)
    held := l.held ||| m
    dirty := l.dirty ||| m
    poison := l.poison &&& ~~~(BitVec.ofNat 16 ((List.range 16).foldl (fun n i => if whole i then n + 2 ^ i else n) 0)) }

/-- A line of a die's cache with the bytes that are not dirty read again from the memory target. -/
def State.refreshed (s : State) (l : CacheLine) : CacheLine :=
  s.filled { l with held := l.dirty, poison := l.poison &&& l.dirtyDws }

/-- A read at the memory target by a die: what its own cache holds dirty of the line comes first, and what it holds clean follows the
target, so that no agent of the die reads an older value after it (R254, R257; log 13). -/
def State.plainRead (s : State) (die pa n : Nat) : State × List Byte × Bool :=
  match s.line? die (pa / 128) with
  | none => (s, s.memRead pa n, s.memPoisoned pa n)
  | some l =>
    let l := s.refreshed l
    (s.setLine l, (l.bytes.drop (pa % 128)).take n, l.poison &&& dwMask (pa % 128) n != 0)

/-- The doublewords of a line, dirty and poisoned, of which a write of `n` bytes from byte `lo` replaces a part: their poison stands (R374). -/
def CacheLine.halfWritten (l : CacheLine) (lo n : Nat) : List Nat :=
  (List.range 16).filter fun i => l.poison.getLsbD i && l.dirtyDws.getLsbD i && decide (lo < 8 * i + 8 ∧ 8 * i < lo + n ∧ ¬ (lo ≤ 8 * i ∧ 8 * i + 8 ≤ lo + n))

/-- A write at the memory target by a die, performed at die scope too (R253): a line of the die's cache takes the bytes, clean. -/
def State.plainWrite (s : State) (die pa : Nat) (bs : List Byte) : State :=
  let s := s.memWrite pa bs
  match s.line? die (pa / 128) with
  | none => s
  | some l =>
    let s := (l.halfWritten (pa % 128) bs.length).foldl (fun s i => s.poisonMem (l.line * 128 + 8 * i) 8) s
    s.putLine (s.refreshed { l with dirty := l.dirty &&& ~~~byteMask (pa % 128) bs.length })

/-- A global read by tile `t` (R253). -/
def State.globalRead (s : State) (t pa n : Nat) (cached : Bool) (sync : Nat) : State × List Byte × Bool :=
  if cached then s.cacheRead (dieOf t) pa n sync (s.tile t).dom else s.plainRead (dieOf t) pa n

/-- A global write by tile `t` (R253). -/
def State.globalWrite (s : State) (t pa : Nat) (bs : List Byte) (cached : Bool) (sync : Nat) : State :=
  if cached then s.cacheWrite (dieOf t) pa bs sync (s.tile t).dom else s.plainWrite (dieOf t) pa bs

/-- Writes back, and drops, every line of every die cache in a physical range. -/
def State.flushRange (s : State) (lo n : Nat) : State :=
  (s.caches.filter fun l => decide (lo < l.line * 128 + 128) && decide (l.line * 128 < lo + n)).foldl (fun s l => s.flushLine l.die l.line) s

/-! ### Page tables (R221 to R224) -/

/-- V, R, W, X, DUP, COW, CACHE, LEAF of a PTE (R223). -/
def pteBit (pte : Word) (i : Nat) : Bool := pte.getLsbD i
/-- PFN of a PTE. -/
def ptePfn (pte : Word) : Nat := bits pte 51 16
/-- SYNC of a PTE. -/
def pteSync (pte : Word) : Nat := bits pte 63 52

/-- Whether an entry met at a level lets a walk go on or end (R224). -/
def State.pteOk (s : State) (level : Nat) (pte : Word) : Bool :=
  let leaf := pteBit pte 7
  pteBit pte 0 && bits pte 15 13 == 0
    && (if leaf then
          level != 1
          && !(level == 2 && (ptePfn pte % 4096 != 0 || pteBit pte 5))
          && !(pteBit pte 12 && decide (ptePfn pte * 65536 < 2 ^ 40) && !s.stackList.contains (bits pte 11 8))
        else level != 3 && bits pte 63 52 == 0 && bits pte 12 1 == 0)

/-- Index of an address at a level (R222). -/
def walkIndex (va level : Nat) : Nat := va / 2 ^ (52 - 12 * level) % 4096

/-- A walk from a table (R222): the level, address and value of the leaf, or none where it fails. -/
def State.walkFrom (s : State) (va : Nat) : Nat → Nat → Nat → Option (Nat × Nat × Word)
  | 0, _, _ => none
  | n + 1, level, table =>
    let a := table + 8 * walkIndex va level
    let pte := BitVec.ofNat 64 (s.memLe a 8)
    if !s.pteOk level pte then none
    else if pteBit pte 7 then some (level, a, pte)
    else s.walkFrom va n (level + 1) (ptePfn pte * 65536)

/-- The walk of R222 from a domain's root. -/
def State.walk (s : State) (root va : Nat) : Option (Nat × Nat × Word) := if va < 2 ^ 52 then s.walkFrom va 3 1 root else none

/-! ### TLBs (R226) -/

/-- Whether an entry maps an address. -/
def TlbEntry.maps (e : TlbEntry) (va : Nat) : Bool := if e.big then e.vpn / 4096 == va / 2 ^ 28 else e.vpn == va / 2 ^ 16

/-- The entry of the bound domain that an address hits. -/
def Tile.tlbFind (x : Tile) (va : Nat) : Option TlbEntry := x.tlb.find? fun e => e.dom == x.dom && e.maps va

/-- A TLB after a hit: the entry is the most recently used. -/
def Tile.touchTlb (x : Tile) (e : TlbEntry) : Tile := { x with tlb := e :: x.tlb.filter (· != e) }

/-- The entry of bits [127:64] and [63:0] (R226). -/
def tlbOf (hi lo : Word) : TlbEntry := ⟨0, bits hi 63 52, bits hi 51 16, hi.getLsbD 15, bits hi 14 7, lo⟩

/-- Bits [127:64] of an entry (R226). -/
def TlbEntry.hi (e : TlbEntry) : Word := BitVec.ofNat 64 (e.dom * 2 ^ 52 + e.vpn * 2 ^ 16 + (if e.big then 2 ^ 15 else 0) + e.luc * 2 ^ 7)

/-- Whether two entries overlap (R400). -/
def TlbEntry.overlaps (a b : TlbEntry) : Bool := a.dom == b.dom && (if a.big || b.big then a.vpn / 4096 == b.vpn / 4096 else a.vpn == b.vpn)

/-- The index a new entry takes: the lowest free one, or that of the least recently used (R226). -/
def tlbSlot (l : List TlbEntry) : Nat :=
  match (List.range 64).find? fun i => !l.any (·.slot == i) with
  | some i => i
  | none => (l.getLast?.map (·.slot)).getD 0

/-- A TLB with an entry installed (R226, R400): those it overlaps removed, then the least recently used when all 64 are used;
the write is an event of UNIT 4 (R407). -/
def Tile.installTlb (x : Tile) (e : TlbEntry) : Tile :=
  let keep := x.tlb.filter (!·.overlaps e)
  let e := { e with slot := tlbSlot keep }
  let (y, hit) := x.injection 4 e.slot
  match hit with
  | some 0 => { y with tlb := ({ e with pte := e.pte ^^^ BitVec.ofNat 64 (2 ^ y.injectBit) } :: keep).take 64 }
  | some 2 => { y with tlb := keep.take 64 }
  | _ => { y with tlb := (e :: keep).take 64 }

/-- The physical address of a page offset under a leaf PTE, hint applied (R220). -/
def State.pageAddr (s : State) (pte : Word) (off : Nat) : Nat :=
  let base := ptePfn pte * 65536
  if pteBit pte 12 ∧ base < 2 ^ 40 then
    let n := s.stackList.length
    let i := s.stackList.findIdx (· == bits pte 11 8)
    let g := base / 4096
    (g + (i + n - g % n) % n + off / 4096 * n) * 4096 + off % 4096
  else base + off

/-- The physical address of an address under an entry. -/
def State.entryAddr (s : State) (e : TlbEntry) (va : Nat) : Nat := s.pageAddr e.pte (if e.big then va % 2 ^ 28 else va % 2 ^ 16)

/-- Whether a physical address lies in the page of a leaf PTE of `size` bytes (R220). -/
def State.inPage (s : State) (pte : Word) (size pa : Nat) : Bool :=
  let base := ptePfn pte * 65536
  if pteBit pte 12 ∧ base < 2 ^ 40 then
    let n := s.stackList.length
    let first := s.pageAddr pte 0 / 4096
    let g := pa / 4096
    decide (first ≤ g) && (g - first) % n == 0 && decide ((g - first) / n < size / 4096)
  else decide (base ≤ pa) && decide (pa < base + size)

/-- What the access tables of a kind of target grant a class of masters of a domain (R450): nothing where they hold no entry; the management
registers grant firmware only, of whatever domain. -/
def State.rightsAt (s : State) (a : TableAt) (dom : Nat) (c : MasterClass) : Rights :=
  if a = .management then let all := c == .firmware; ⟨all, all, all, all⟩
  else match s.tables.find? fun r => r.at' == a && r.dom == dom && r.cls == c with
    | some r => r.rights
    | none => ⟨false, false, false, false⟩

/-- Whether rights include those an access needs. -/
def Rights.covers (have' need : Rights) : Bool :=
  (!need.r || have'.r) && (!need.w || have'.w) && (!need.x || have'.x) && (!need.a || have'.a)

/-- The table that checks an access at a memory target; another module's is not here (log 21). -/
def MemTarget.table : MemTarget → Option TableAt
  | .hbm _ => some .hbm
  | .lpddr _ => some .lpddr
  | .host _ => some .host
  | .remote _ => none

/-- Whether the access table of a byte's target denies an access of a class of masters of a domain (R450), or the loader placed the byte for
another domain (log 44). -/
def State.denied (s : State) (c : MasterClass) (dom pa : Nat) (need : Rights) : Bool :=
  (match (s.memTarget dom pa).bind MemTarget.table with
    | some a => !(s.rightsAt a dom c).covers need
    | none => false)
  || (decide (pa < 2 ^ 42) && s.placed.any fun (d, f, n) => d != dom && decide (f * 65536 ≤ pa ∧ pa < (f + n) * 65536))

/-- What translation makes of an access: an address, a park, or a trap. -/
inductive Access
  | ok (pa : Nat) (cached : Bool) (sync : Nat)
  | miss
  | trap (c : Cause)
  deriving DecidableEq, Repr

/-- The endpoint of a memory target of this module (R423). -/
def MemTarget.endpoint : MemTarget → Nat
  | .hbm k => tileAt (24 + k / 4) 4 (k % 4)
  | .lpddr d => tileAt d 6 0
  | .host _ => 0x6180
  | .remote _ => 0

/-- Whether no way leads from a place to a target: no route (R427), or for another module no path or no route to its port (R429, R432). -/
def State.cutOff (s : State) (src : Nat) (g : MemTarget) : Bool :=
  match g with
  | .remote m => s.modGone src m
  | g => !s.routable src g.endpoint

/-- Whether a target takes no traffic from a place: its link is down, or no way leads to it (R244, R245, R427, R432, R448). -/
def State.isDown (s : State) (src : Nat) (g : MemTarget) : Bool := s.downTargets.contains g.link || s.cutOff src g

/-- Whether a target's link-up count in an entry is current and the target up (R245, R432). -/
def State.linkCurrent (s : State) (t : Nat) (g : MemTarget) (luc : Nat) : Bool :=
  upCount (s.tile t).linkUp g.link == luc && !s.isDown t g

/-- Whether an entry of tile `t` is stale for an address: its frame has a target whose count differs, or that is down (R245).  DESIGN CHOICE
(log 65): of an interleaved frame, whose granules lie on several edge dies, the target is that of the granule accessed, and the entry's count
is that of the granule missed at. -/
def State.stale (s : State) (t : Nat) (e : TlbEntry) (va : Nat) : Bool :=
  match s.memTarget (s.tile t).dom (s.entryAddr e va) with
  | some g => !s.linkCurrent t g e.luc
  | none => false

/-- Whether the page of an entry may be written once collapsed or copied (R230, R231): a read-duplicated page as its region declares. -/
def State.willWrite (s : State) (e : TlbEntry) : Bool :=
  pteBit e.pte 5 || (pteBit e.pte 4 &&
    match (s.domain e.dom).bind fun d => d.dups.find? (·.vpn == e.vpn) with | some p => p.w | none => false)

/-- What an access needs of its page (R225) and of its target's access table (R450): reading and writing both is an atomic. -/
def needOf (r w x : Bool) : Rights := ⟨r, w, x, r && w⟩

/-- Whether the permissions of an entry allow an access (check 4 of R265). -/
def State.allows (s : State) (e : TlbEntry) (n : Rights) : Bool :=
  (!n.r || pteBit e.pte 1) && (!n.w || pteBit e.pte 2 || s.willWrite e) && (!n.x || pteBit e.pte 3)

/-- What the access tables of the targets need to grant: A alone for an atomic (R450). -/
def Rights.atTable (n : Rights) : Rights := if n.a then ⟨n.r, false, n.x, true⟩ else n

/-- Checks 3 to 6 of R265 for an access of tile `t` by a class of masters that needs the permissions given and writes or not, and that of the
target's access table (R450); `again` after the refill that R226 allows.  A write to a DUP or COW page is a miss until the service has made it
an ordinary one (R230, R231); an access to a host window is cached only when it reads (R253, R268). -/
def State.access (s : State) (m : MasterClass) (t : Nat) (again : Bool) (va : Nat) (r w x write : Bool) : Access :=
  let tile := s.tile t
  match tile.tlbFind va with
  | none => .miss
  | some e =>
    if write && (pteBit e.pte 4 || pteBit e.pte 5) then .miss
    else if !s.allows e (needOf r w x) then
      if again then .trap .protection else .miss
    else
      let pa := s.entryAddr e va
      match s.memTarget tile.dom pa with
      | none => .trap .pageFault
      | some g =>
        if s.stale t e va then .miss
        else
          let cached := pteBit e.pte 6 && (match g with | .remote _ => false | .host _ => !write | _ => true)
          let need := (needOf r w x).atTable
          if s.denied m tile.dom pa need || (cached && !(s.rightsAt .home tile.dom m).covers need) then .trap .protection
          else .ok pa cached (pteSync e.pte)

/-- The state after an access found its entry. -/
def State.touched (s : State) (t va : Nat) : State :=
  s.onTile t fun x => match x.tlbFind va with | some e => x.touchTlb e | none => x

/-- Whether two addresses of a domain lie in one page: 64 KB, or the 256 MB of a leaf of level 2 (R222). -/
def State.samePage (s : State) (dom a b : Nat) : Bool :=
  a / 65536 == b / 65536 || (a / 2 ^ 28 == b / 2 ^ 28 &&
    match (s.domain dom).bind fun d => s.walk d.root a with | some (2, _, _) => true | _ => false)

/-- Whether a context of a tile is parked on the page of an address. -/
def State.parkedOn (s : State) (t va : Nat) : Bool :=
  (s.tile t).ctxs.toList.any fun k => k.status == .parked && match k.parkedVa with | some a => s.samePage (s.tile t).dom a va | none => false

/-- The tile whose S runs the cluster service of tile `t` (R227): that of the corner of its 8 × 8 cluster, or when it is disabled or
withdrawn the enabled one of the lowest address. -/
def State.serviceTile (s : State) (t : Nat) : Nat :=
  let corner := t % 32768 / 256 * 256 + t % 32 / 8 * 8
  let cluster := (List.range 64).map fun i => corner + i / 8 * 32 + i % 8
  (cluster.find? fun u => (s.tile u).enabled && !(s.tile u).withdrawn).getD corner

/-- The entry a fill carries in its 128 bits (R226). -/
def entryOf (w : BitVec 128) : TlbEntry := tlbOf (w.extractLsb' 64 64) (w.extractLsb' 0 64)

/-- Whether a fill for an address is on its way to a tile. -/
def State.fillComes (s : State) (t va : Nat) : Bool :=
  s.later.any fun e => match e with
    | .tlbFill u w => u == t && (entryOf w).dom == (s.tile t).dom && (entryOf w).maps va
    | _ => false

/-- Whether a request for the page of an address is outstanding, for a context or an engine of the tile (R227 step 4): a further miss joins
it. -/
def State.requested (s : State) (t va : Nat) : Bool := s.parkedOn t va || s.fillComes t va

/-- The issuing context PARKED on a translation, with a request under way (R227). -/
def State.parkFor (s : State) (t c va : Nat) (need : Rights) (write : Bool) : State :=
  let s := if s.requested t va then s else s.onTile t (·.bumpEvc 13 1)
  (s.onCtx t c fun k => { k with status := .parked, parkedVa := some va, parkedNeed := need, parkedWrite := write }).post
    (.translationRequest t c)

/-- An instruction parked (R227). -/
def State.park (s : State) (va : Nat) (need : Rights) (write : Bool) : Res := .wait (s.parkFor s.cur s.who va need write)

/-- The class of masters the issuing context is (R450; log 44): S runs firmware. -/
def State.myClass (s : State) : MasterClass := if s.isS then .firmware else .context

/-- The lines of every die's cache that hold the page of a leaf PTE written back and dropped. -/
def State.flushPages (s : State) (pte : Word) (size : Nat) : State :=
  (s.caches.filter fun l => s.inPage pte size (l.line * 128)).foldl (fun s l => s.flushLine l.die l.line) s

/-- A translated access of the issuing instruction (checks 3 to 6 of R265). -/
def State.translated (s : State) (va : Nat) (r w write : Bool) (k : State → Nat → Bool → Nat → Res) : Res :=
  match s.access s.myClass s.cur s.me.refilled va r w false write with
  | .miss => s.park va (needOf r w false) write
  | .trap c => .trap c (BitVec.ofNat 64 va)
  | .ok pa cached sync => k (s.touched s.cur va) pa cached sync

/-! ### Instruction fetch (R19, R21, R22) -/

/-- The state after context `c` fetched its word: a fetch of L0 to L3 and H used a TLB entry. -/
def State.fetched (s : State) (c : Fin 6) : State := if c = 5 then s else s.touched s.cur s.pc.toNat

/-- What a fetch comes to. -/
inductive Fetched
  | word (w : BitVec 32)
  | miss
  | trap (c : Cause)
  deriving DecidableEq, Repr

/-- The word of context `c` of tile `t` at its pc.  DEDUCED (log 19): S runs untranslated from its own panes 124 to 127 (R19, R371), and an
address outside them is unmapped for it; the others run from the placed code. -/
def State.fetchAt (s : State) (t c : Nat) : Fetched :=
  let x := s.tile t
  let k := x.ctx c
  let va := k.pc.toNat
  if c = 5 then
    if va < 0x7C000 ∨ 0x80000 < va + 4 then .trap .pageFault
    else if x.spPoisoned va 4 then .trap .uncorrectableData
    else .word (BitVec.ofNat 32 (x.sp.le va 4))
  else if 2 ^ 52 ≤ va then .trap .pageFault
  else match s.access .context t k.refetched va false false true false with
    | .miss => .miss
    | .trap cause => .trap cause
    | .ok pa _ _ =>
      if s.memPoisoned pa 4 then .trap .uncorrectableData else .word (BitVec.ofNat 32 (s.code.le pa 4))


end Sys2Proof.Machine
end

