-- ==== Sys2Proof/Machine/Ni.lean ====
section
/-! DEFINITION. The network interface (06: R139 to R178): headers and tags, handler tables, arrival, queues and
spills, the matching store and votes, counters, dispatch; and the start of a kill (17: R375, R379, R381, R392). -/

namespace Sys2Proof.Machine

/-! ### Headers and tags (R141, R148, R149) -/

/-- The fields of H0 (R148). -/
structure H0 where
  dst : Nat
  hid : Nat
  vn : Bool
  pri : Bool
  port : Bool
  len : Nat
  triple : Bool
  copy : Nat
  drop : Bool
  cnt : Nat
  deriving DecidableEq, Repr

/-- The fields of H1 (R149). -/
structure H1 where
  src : Nat
  sctx : Nat
  orighid : Nat
  returned : Bool
  seq : Nat
  deriving DecidableEq, Repr

/-- A bit as a number. -/
def bitN (b : Bool) : Nat := if b then 1 else 0

/-- H0 read from its word (R148; reserved bits are ignored, R150). -/
def h0Of (w : Word) : H0 :=
  ⟨bits w 63 40, bits w 39 28, w.getLsbD 27, w.getLsbD 26, w.getLsbD 25, bits w 24 20, w.getLsbD 19, bits w 18 17,
    w.getLsbD 16, bits w 15 10⟩

/-- The word of an H0, reserved bits zero (R150). -/
def H0.word (h : H0) : Word :=
  BitVec.ofNat 64 (h.dst % 2 ^ 24 * 2 ^ 40 + h.hid % 2 ^ 12 * 2 ^ 28 + bitN h.vn * 2 ^ 27 + bitN h.pri * 2 ^ 26
    + bitN h.port * 2 ^ 25 + h.len % 32 * 2 ^ 20 + bitN h.triple * 2 ^ 19 + h.copy % 4 * 2 ^ 17 + bitN h.drop * 2 ^ 16
    + h.cnt % 64 * 2 ^ 10)

/-- H1 read from its word (R149). -/
def h1Of (w : Word) : H1 := ⟨bits w 63 40, bits w 39 37, bits w 36 25, w.getLsbD 24, bits w 23 8⟩

/-- The word of an H1, reserved bits zero (R150). -/
def H1.word (h : H1) : Word :=
  BitVec.ofNat 64 (h.src % 2 ^ 24 * 2 ^ 40 + h.sctx % 8 * 2 ^ 37 + h.orighid % 2 ^ 12 * 2 ^ 25 + bitN h.returned * 2 ^ 24
    + h.seq % 2 ^ 16 * 2 ^ 8)

/-- A tag with its DOM replaced (R146). -/
def setDom (tag : Word) (dom : Nat) : Word := setBits tag 63 52 dom

/-- NF of a TX (R142). -/
def txNf (tx : Word) : Nat := bits tx 51 48
/-- Wi of a TX (R142). -/
def txW (tx : Word) (i : Nat) : Nat := bits tx (6 * i + 5) (6 * i)
/-- W0 + … + Wi (R141). -/
def txSum (tx : Word) : Nat → Nat
  | 0 => txW tx 0
  | i + 1 => txSum tx i + txW tx (i + 1)
/-- Lowest body bit of field `i` (R141). -/
def fieldLo (tx : Word) (i : Nat) : Nat := 40 - txSum tx i
/-- Field `i` of a tag (R141). -/
def fieldOf (tx tag : Word) (i : Nat) : Nat := if txW tx i = 0 then 0 else bits tag (fieldLo tx i + txW tx i - 1) (fieldLo tx i)
/-- A tag with field `i` replaced (R141). -/
def setField (tx tag : Word) (i v : Nat) : Word := if txW tx i = 0 then tag else setBits tag (fieldLo tx i + txW tx i - 1) (fieldLo tx i) v

/-- Whether a TX passes the checks of R143 for a depth. -/
def txOk (tx : Word) (depth : Nat) : Bool :=
  let nf := txNf tx
  decide (1 ≤ nf ∧ nf ≤ 8) && (List.range 8).all (fun i => if i < nf then txW tx i != 0 else txW tx i == 0)
    && decide (txSum tx 7 ≤ 40) && decide (depth < nf)

/-- The TX a context takes from TXDEF at dispatch (R145). -/
def txAtDispatch (txdef : Word) : Word :=
  let tx := txdef &&& 0x000FFFFFFFFFFFFF
  if txOk tx 0 then tx else 0x0001000000000028

/-- TDEPTH at dispatch (R145): the largest field below NF that is not zero, else 0. -/
def depthAtDispatch (tx tag : Word) : Nat :=
  (List.range (txNf tx)).foldl (fun d i => if fieldOf tx tag i ≠ 0 then i else d) 0

/-! ### Domains -/

/-- Whether (DOM, COL) of a tag is in a tile's kill list (R153). -/
def Tile.killed (x : Tile) (tag : Word) : Bool := x.kills.any fun k => k == (domOf tag, colOf tag)

/-! ### Sequence numbers and the networks -/

/-- A tile's next sequence number, taken (R149). -/
def State.takeSeq (s : State) (t : Nat) : State := s.onTile t fun x => { x with seq := x.seq + 1 }

/-- A message given to a tile's router (R169, R170), which it enters at its source. -/
def State.inject (s : State) (t : Nat) (m : Msg) (reply : Bool) (pos : Nat := 0) : State :=
  { s with net := s.net ++ [⟨m, reply, t, false, false, .source, false, t, none, none, false, false, pos⟩] }

/-- Whether a tile's output buffer of a network has room: it holds one message until the router takes it (log 16). -/
def State.outFree (s : State) (t : Nat) (reply : Bool) : Bool :=
  !s.net.any fun p => p.place == t && p.reply == reply && !p.injected && !p.dropped

/-! ### Kills (R375, R379, R381, R392) -/

/-- Whether a domain is being switched, is switched out or is being resumed (R392, R403). -/
def Domain.moving (d : Domain) : Bool := match d.gang with | .switching _ => true | .out => true | .resuming _ => true | _ => false

/-- Whether a switch of a domain is accepted and not complete (R388). -/
def Domain.switching (d : Domain) : Bool := match d.gang with | .switching _ => true | _ => false

/-- The tiles a kill has work on: those listed and those of the domain (log 17). -/
def State.killTiles (s : State) (dom : Nat) : List Nat :=
  let own := ((s.domain dom).map fun d => d.tiles ++ d.spares).getD []
  own ++ (s.tiles.map (·.1)).filter fun t => !own.contains t

/-- Starts a domain kill (R381): one in progress stays as it is (R402). -/
def State.killDomain (s : State) (dom cause : Nat) : State :=
  if s.later.any fun e => match e with | .domainKill d _ => d == dom | _ => false then s else s.post (.domainKill dom cause)

/-- A colour kill carried out on this module (R375, R436): a colour of 0 is killed as the domain (R368, R402), one that finds a full
kill list as the domain with cause 0x26 (R379), one of a domain switched out is held by the Gong root (R392); a second
kill in progress adds nothing (R402).  DESIGN CHOICE (log 17): a kill of a domain that the module has no record of does nothing: no tile of the
module is bound to it, and R402 names no trap for it. -/
def State.killHere (s : State) (start dom col cause : Nat) : State :=
  if col = 0 then s.killDomain dom cause
  else if s.gong.any (fun k => k.dom == dom && k.col == col) then s
  else
    match s.domain dom with
    | none => s
    | some d =>
      if d.moving then
        if d.heldKills.any (·.1 == col) then s
        else s.onDomain dom fun d => { d with heldKills := d.heldKills ++ [(col, cause, start)] }
      else if (d.tiles.any fun t => decide (64 ≤ (s.tile t).kills.length)) then s.killDomain dom 0x26
      else
        let s := { s with gong := s.gong ++ [({ dom := dom, col := col, cause := cause, start := start } : GongKill)] }
        let s := s.onDomain dom fun d => { d with colours := d.colours.map fun (c : Colour) => if c.col = col then { c with killed := true } else c }
        (s.killTiles dom).foldl (fun s t => s.post (.colourKillArrival t dom col cause start)) s

/-- Whether a kill of a colour is in progress on this module: held, or on the Gong tree. -/
def State.colourDying (s : State) (dom col : Nat) : Bool :=
  s.gong.any (fun k => k.dom == dom && k.col == col)
    || ((s.domain dom).map fun d => d.heldKills.any (·.1 == col)).getD false

/-- Starts a colour kill from a tile of this module (R375).  The S of the starting module sends that of a federated domain to the S of
each other member (R436). -/
def State.killColour (s : State) (start dom col cause : Nat) : State :=
  let mods := (((s.domain dom).map (·.federation)).getD []).filter (· != s.modNo)
  if col = 0 ∨ s.colourDying dom col = true then s.killHere start dom col cause
  else { s with outKills := s.outKills ++ mods.map fun m => (m, (⟨dom, col, cause, start⟩ : GongKill)) }.killHere start dom col cause

/-! ### Handler tables (R82, R152) -/

/-- A handler table entry read from its 16 bytes (R82): none without V. -/
def handlerOf (lo hi : Word) : Option Handler :=
  if hi.getLsbD 5 then
    let triple := hi.getLsbD 4
    some ⟨lo.toNat % 2 ^ 52 / 4 * 4, if triple then bits hi 23 8 % 16 else bits hi 11 8, hi.getLsbD 3, triple⟩
  else none

/-- The entry of a HID as the NI finds it (R152): in the handler cache, or in the domain's table in memory. -/
def State.handler (s : State) (t dom hid : Nat) : Option Handler :=
  match (s.tile t).hcache.find? fun e => e.1 == dom && e.2.1 == hid with
  | some e => some e.2.2
  | none =>
    match s.domain dom with
    | none => none
    | some d =>
      if hid = 0 ∨ d.nhid ≤ hid then none
      else handlerOf (BitVec.ofNat 64 (s.mem.le (d.htab + 16 * hid) 8)) (BitVec.ofNat 64 (s.mem.le (d.htab + 16 * hid + 8) 8))

/-- The entry if it is valid on the tile (R152): its queue is enabled there. -/
def State.validHandler (s : State) (t dom hid : Nat) : Option Handler :=
  match s.handler t dom hid with
  | some h => if (vget (s.tile t).queues h.queue Queue.reset).en then some h else none
  | none => none

/-- The handler cache after an entry is used: 64 entries, the least recently used replaced (R152). -/
def Tile.useHandler (x : Tile) (dom hid : Nat) (h : Handler) : Tile :=
  { x with hcache := ((dom, hid, h) :: x.hcache.filter fun e => !(e.1 == dom && e.2.1 == hid)).take 64 }

/-! ### Queues (R155 to R158) -/

/-- Queue `q` of a tile. -/
def Tile.queue (x : Tile) (q : Nat) : Queue := vget x.queues q Queue.reset

/-- A tile with a queue changed. -/
def Tile.onQueue (x : Tile) (q : Nat) (f : Queue → Queue) : Tile := { x with queues := vset x.queues q (f (x.queue q)) }

/-- Slots of queue `q` held by activations (R156). -/
def Tile.held (x : Tile) (q : Nat) : Nat :=
  x.ctxs.toList.countP fun k => match k.act with | some a => a.queue == q && k.status != .free | none => false

/-- Occupancy (R156). -/
def Tile.occupancy (x : Tile) (q : Nat) : Nat := (x.queue q).waiting.length + x.held q

/-- Depth (R84). -/
def Queue.depth (q : Queue) : Nat := 2 ^ q.logDepth

/-- 16 KB segments that `n` 160-byte entries take (R158).  DESIGN CHOICE (log 66): an entry of a ring or of the area takes the 160 bytes of a queue
slot, entries lie one behind another, and a segment goes back when none is left in it. -/
def segments (n : Nat) : Nat := (n * 160 + 16383) / 16384

/-- Entries of a tile's match-overflow area: operands, and vote entries that obey R161 alike (R384). -/
def Tile.areaUsed (x : Tile) : Nat := x.area.length + x.votes.countP (·.overflowed)

/-- Segments of the spill pool a tile has taken (R158, R161). -/
def Tile.poolSegments (x : Tile) : Nat := x.queues.toList.foldl (fun n q => n + segments q.ring.length) (segments x.areaUsed)

/-- Whether the domain's spill pool has room for one more entry in a ring or area of `n` entries (R158). -/
def State.poolRoom (s : State) (dom n : Nat) : Bool :=
  segments (n + 1) == segments n ||
    match s.domain dom with
    | none => false
    | some d => decide ((d.tiles.foldl (fun k t => k + (s.tile t).poolSegments) 0 + 1) * 16384 ≤ d.spillPool)

/-- Whether an entry that S writes to the spill pool, by its arrival order, lies in a failed stack: the write is discarded, and it reads as
poisoned (R457).  The manual gives the pool no place, so that is free (log 66). -/
def State.spillBad (s : State) (order : Nat) : Bool := s.failedStacks != [] && (Config.openWord s.fv (2 ^ 64 + order)).getLsbD 0

/-- Where an arrival comes from (R153). -/
inductive Src | net | counter | loopb | refill | barrier
  deriving DecidableEq, Repr

/-- KIND of a log record (R393). -/
def Src.kind : Src → Nat | .net => 0 | .counter => 1 | .loopb => 2 | .refill => 2 | .barrier => 3

/-- Bytes of a tile's log ring: as many as the part gives it, of the 64 KB the loader lays up (R393; log 28). -/
def logRoom : Nat := min Config.logRing 65536

/-- The bytes of a record: 32 of an arrival (R393), those of an input alone (log 28). -/
def LogRec.bytes (r : LogRec) : List Byte :=
  if r.kind ≤ 3 then
    leBytes 4 (r.src % 2 ^ 24 + r.kind * 2 ^ 24) ++ leBytes 4 (r.seq % 2 ^ 16 + r.hid % 2 ^ 12 * 2 ^ 16 + r.queue % 16 * 2 ^ 28)
      ++ leBytes 8 r.order ++ leBytes 8 r.tag.toNat ++ leBytes 8 r.beat
  else r.data

/-- A record appended to a tile's log ring in HBM (R393).  A ring that has no room for another record of 32 bytes, or for this one, has
filled: its domain's GAP is set, nothing is overwritten, and logging pauses (R404). -/
def State.logRecord (s : State) (t : Nat) (d : Domain) (r : LogRec) : State :=
  let x := s.tile t
  let bs := r.bytes
  let gap (s : State) : State := (s.onTile t fun x => { x with logFull := true }).onDomain d.dom fun d => { d with logGap := true }
  if x.logFull then s
  else if logRoom < x.logUsed + bs.length then gap s
  else
    let s := (s.onTile t fun x => { x with log := x.log ++ [r], logUsed := x.logUsed + bs.length }).memWrite (x.logBase + x.logUsed) bs
    if logRoom < x.logUsed + bs.length + 32 then gap s else s

/-- A tile's next arrival order taken (R155). -/
def State.takeOrder (s : State) (t : Nat) : State := s.onTile t fun x => { x with order := x.order + 1 }

/-- Logs a message the NI resolves into a queue or the matching store (R393), with the arrival order it has just taken. -/
def State.logArrival (s : State) (t : Nat) (m : Msg) (queue : Nat) (src : Src) : State :=
  let x := s.tile t
  match s.domain x.dom with
  | none => s
  | some d =>
    if d.logLevel = 0 then s
    else s.logRecord t d ⟨src.kind, (h1Of m.h1).src, (h1Of m.h1).seq, (h0Of m.h0).hid, queue, x.order - 1, m.tag, s.beat, []⟩

/-- An input the NI logs at level FULL (R393). -/
def State.logInput (s : State) (t : Nat) (data : List Byte) : State :=
  let x := s.tile t
  match s.domain x.dom with
  | none => s
  | some d => if d.logLevel ≠ 2 then s else s.logRecord t d ⟨4, 0, 0, 0, 0, x.order, 0, s.beat, data⟩

/-! ### The service buffer (R159) -/

/-- Work placed in a tile's service buffer, if an entry is free; S is woken. -/
def Tile.serve (x : Tile) (i : SvcItem) : Tile :=
  if 8 ≤ x.svc.length then x else { x with svc := x.svc ++ [i], sEvents := x.sEvents ++ [.serviceBuffer] }

/-- The service buffer with one such entry served. -/
def Tile.served (x : Tile) (i : SvcItem) : Tile := { x with svc := x.svc.erase i }

/-- A queue's refill is due (R157): the ring holds entries and occupancy is at or below half the depth. -/
def Tile.refillDue (x : Tile) (q : Nat) : Bool := (x.queue q).ring != [] && decide (x.occupancy q ≤ (x.queue q).depth / 2)

/-- S is set to refill a queue when that is due (R157). -/
def State.refillIfDue (s : State) (t q : Nat) : State := if (s.tile t).refillDue q then s.postOnce (.spillRefill t q) else s

/-- An error injected into a structure tagged with a colour (R373, R407): FLIP changes a bit of the entry's first doubleword
(log 20), UE kills the colour. -/
def State.injectSlot (s : State) (t unit addr : Nat) (m : Msg) (flip : Tile → Word → Tile) : State :=
  match (s.tile t).injection unit addr with
  | (x, some 0) => s.setTile t (flip x (h0Of (m.h0 ^^^ BitVec.ofNat 64 (2 ^ x.injectBit))).word)
  | (x, some 2) => (s.setTile t x).killColour (s.addr t) (domOf m.tag) (colOf m.tag) 0x20
  | (x, _) => s.setTile t x

/-- A message as an NI takes it: the reserved bits of its headers are zero (R148 to R150). -/
def Msg.normal (m : Msg) : Msg := { m with h0 := (h0Of m.h0).word, h1 := (h1Of m.h1).word }

/-- A slot with its H0 replaced. -/
def Slot.setH0 (sl : Slot) (w : Word) : Slot := { sl with msg := { sl.msg with h0 := w } }

/-- A slot appended to a queue's waiting slots with the next arrival order; the write is an event of UNIT 2 (R407). -/
def State.enqueue (s : State) (t q : Nat) (sl : Slot) : State :=
  let x := s.tile t
  let sl := { sl with order := x.order, owed := [] }
  let s := s.setTile t ({ x with order := x.order + 1 }.onQueue q fun u => { u with waiting := u.waiting ++ [sl] })
  s.injectSlot t 2 q sl.msg fun x w => x.onQueue q fun u => { u with waiting := u.waiting.dropLast ++ [sl.setH0 w] }

/-- Whether an arrival at a queue does not find it OPEN (R156). -/
def Tile.overflows (x : Tile) (q : Nat) : Bool := (x.queue q).spilling || decide ((x.queue q).depth ≤ x.occupancy q)

/-- What Place comes to (R153): the slot stands in its queue, was passed to S, or was refused. -/
inductive Placing | queued | passed | refused
  deriving DecidableEq, Repr

/-- Place (R153).  A slot passed to S sets SPILLING and wakes S; one that finds the pool exhausted is discarded and kills its colour
(R158). -/
def State.place (s : State) (t q : Nat) (sl : Slot) (src : Src) : State × Placing :=
  let x := s.tile t
  let qu := x.queue q
  if src = .refill then
    ((s.enqueue t q sl).onTile t fun x => x.onQueue q fun u => { u with spilling := u.spilling && u.ring != [] }, .queued)
  else if x.overflows q then
    if qu.spill || (h0Of sl.msg.h0).vn then
      let y := ((x.onQueue q fun u => { u with spilling := true }).bumpEvc 11 1).serve (.spill q)
      let s := (s.setTile t y).post (.spillRefill t q)
      if s.poolRoom x.dom qu.ring.length then
        (s.onTile t fun y => { y with order := y.order + 1 }.onQueue q fun u => { u with ring := u.ring ++ [{ sl with order := x.order, bad := s.spillBad x.order }] }, .passed)
      else (s.killColour (s.addr t) (domOf sl.msg.tag) (colOf sl.msg.tag) 0x23, .passed)
    else (s, .refused)
  else (s.enqueue t q sl, .queued)

/-- The operands of a placed slot that have no record yet logged, when it stands in its queue (R393); one in the spill ring owes them.  The
first has the slot's arrival order, and each further one takes its own. -/
def State.placed' (s : State) (p : Placing) (t : Nat) (ms : List Msg) (q : Nat) (src : Src) : State :=
  match p, ms with
  | .queued, m :: rest => rest.foldl (fun s m => (s.takeOrder t).logArrival t m q src) (s.logArrival t m q src)
  | _, _ => s

/-- ReturnOrDrop (R154). -/
def State.returnOrDrop (s : State) (t : Nat) (m : Msg) : State :=
  match s.domain (domOf m.tag) with
  | none => s
  | some d =>
    if (h1Of m.h1).returned then s.killColour (s.addr t) (domOf m.tag) (colOf m.tag) 0x22
    else
      let h0 := h0Of m.h0
      let h1 := h1Of m.h1
      let r : Msg := { m with
        h0 := { h0 with dst := h1.src, hid := d.refusal, vn := true, cnt := 0, triple := false, copy := 0, drop := false }.word
        h1 := ({ src := s.addr t, sctx := 6, orighid := h0.hid, returned := true, seq := (s.tile t).seq.toNat } : H1).word }
      (((s.onTile t (·.bumpEvc 10 1)).takeSeq t).inject t r true)

/-! ### The matching store (R160, R161) -/

/-- Whether two operands are partners: same HID and tag, opposite ports (R160). -/
def partners (a b : Msg) : Bool :=
  (h0Of a.h0).hid == (h0Of b.h0).hid && a.tag == b.tag && (h0Of a.h0).port != (h0Of b.h0).port

/-- The slot of a pair (R160): the left operand's header, tag and payload, the right operand's payload and SRC. -/
def pairSlot (a b : Msg) : Slot :=
  let (l, r) := if (h0Of a.h0).port then (b, a) else (a, b)
  ⟨l, 0, (h1Of r.h1).src, some r.pay, false, []⟩

/-- The slot of a single operand. -/
def oneSlot (m : Msg) : Slot := ⟨m, 0, 0, none, false, []⟩

/-- A slot that owes log records (R393). -/
def Slot.owing (sl : Slot) (ms : List Msg) : Slot := { sl with owed := ms }

/-- Index of the first element of a list that satisfies a condition. -/
def indexOf? {α : Type} (p : α → Bool) (l : List α) : Option Nat := l.findIdx? p

/-- Entries of the matching store in use, votes included (R160, R384). -/
def Tile.storeUsed (x : Tile) : Nat := x.store.length + x.votes.countP (!·.overflowed)

/-- Whether an operand without a partner in the store, or a first copy, goes to S (R161, R384). -/
def Tile.storeFull (x : Tile) : Bool := decide (0 < x.areaUsed) || decide (512 ≤ x.storeUsed)

/-- S is set to write the match-overflow area back when store occupancy is at or below 256 (R161). -/
def State.overflowIfDue (s : State) (t : Nat) : State :=
  if decide (0 < (s.tile t).areaUsed) && decide ((s.tile t).storeUsed ≤ 256) then s.postOnce (.matchOverflowService t) else s

/-- An operand or vote passed to S (R161): counted, and S woken. -/
def State.passToS (s : State) (t : Nat) : State :=
  (s.onTile t fun x => (x.bumpEvc 11 1).serve .overflow).post (.matchOverflowService t)

/-- Stores an operand that found no partner in the store (R160; the write is an event of UNIT 3, R407): true; or passes it to S (R161), which
needs no room for one whose partner stands in the area. -/
def State.storeOperand (s : State) (t : Nat) (m : Msg) : State × Bool :=
  let x := s.tile t
  if x.storeFull then
    let s := s.passToS t
    if x.area.any (fun u => partners u.msg m) || s.poolRoom x.dom x.areaUsed then
      (s.onTile t fun y => { y with area := y.area ++ [{ oneSlot m with bad := s.spillBad x.order }], order := x.order + 1 }, false)
    else (s.killColour (s.addr t) (domOf m.tag) (colOf m.tag) 0x23, false)
  else
    let s := s.setTile t { x with store := x.store ++ [oneSlot m], order := x.order + 1 }
    (s.injectSlot t 3 x.store.length m fun y w => { y with store := y.store.dropLast ++ [(oneSlot m).setH0 w] }, true)

/-! ### Arrival (R153) -/

/-- A message of the bound domain counted as resolved (R387). -/
def State.countResolved (s : State) (t : Nat) (m : Msg) : State :=
  s.onTile t fun x => { x with resolved := (x.resolved + bitN (domOf m.tag == x.dom)) % 2 ^ 32 }

/-- Arrive without the bump of CNT: the state and whether the message was accepted: placed, stored or spilled, which one given to the service
handler is not. -/
def State.arriveCore (s : State) (t : Nat) (m : Msg) (src : Src) : State × Bool :=
  let s := if src = .net ∨ src = .refill then s else s.countResolved t m
  let x := s.tile t
  let h0 := h0Of m.h0
  if x.killed m.tag then (s, false)
  else if x.withdrawn then (s.returnOrDrop t m, false)
  else if h0.hid = 0xFFF then
    -- the service handler (R370): an arrival of the bound domain from the tile itself goes to S, every other is discarded
    if domOf m.tag = x.dom ∧ x.dom ≠ 0 ∧ (h1Of m.h1).src = s.addr t then
      ((s.setTile t { x with svc := x.svc ++ [.verdict m], sEvents := x.sEvents ++ [.serviceBuffer] }).post (.serviceVerdict t), false)
    else (s, false)
  else if domOf m.tag ≠ x.dom ∨ x.dom = 0 then (s.returnOrDrop t m, false)
  else
    match s.validHandler t x.dom h0.hid with
    | none => (s.returnOrDrop t m, false)
    | some e =>
      if e.arity2 && decide (8 < h0.len) then (s.returnOrDrop t m, false)
      else
        let s := s.onTile t (·.useHandler x.dom h0.hid e)
        if e.arity2 && src != .refill then
          match indexOf? (fun u => partners u.msg m) x.store with
          | some i =>
            let partner := (x.store.getD i (oneSlot m)).msg
            match s.place t e.queue ((pairSlot partner m).owing [m]) src with
            | (_, .refused) => (s.returnOrDrop t m, false)
            | (s', p) => (((s'.onTile t fun y => { y with store := dropAt y.store i }).overflowIfDue t).placed' p t [m] e.queue src, true)
          | none => match s.storeOperand t m with
            | (s', true) => (s'.logArrival t m e.queue src, true)
            | (s', false) => (s', true)
        else
          match s.place t e.queue ((oneSlot m).owing [m]) src with
          | (_, .refused) => (s.returnOrDrop t m, false)
          | (s', p) => (s'.placed' p t [m] e.queue src, true)

/-- Counter `c` of a tile. -/
def Tile.counter (x : Tile) (c : Nat) : Counter := vget x.counters c Counter.reset

/-- A tile with a counter replaced. -/
def Tile.setCounter (x : Tile) (c : Nat) (k : Counter) : Tile := { x with counters := vset x.counters c k }

/-- The message a counter of the tile with address `t` fires (R163). -/
def firedMsg (t seq : Nat) (k : Counter) : Msg where
  h0 := ({ dst := t, hid := k.hid, vn := false, pri := false, port := false, len := 1, triple := false, copy := 0, drop := false, cnt := 0 } : H0).word
  h1 := ({ src := t, sctx := 7, orighid := 0, returned := false, seq := seq } : H1).word
  tag := k.tag
  pay := [BitVec.ofNat 64 k.value]

/-- Fires a counter whose VALUE has reached THRESHOLD (R163 steps 1 to 4); on a tile that replays, its log feeds what it fired (R394). -/
def State.fireIfFull (s : State) (t c : Nat) : State :=
  let k := (s.tile t).counter c
  if k.armed && decide (k.threshold ≤ k.value) then
    let m := firedMsg (s.addr t) (s.tile t).seq.toNat k
    let s := (s.takeSeq t).onTile t fun x => x.setCounter c { k with value := 0, armed := k.rearm }
    if (s.tile t).replay then s else (s.arriveCore t m .counter).1
  else s

/-- A bump (R163): ignored when disarmed or for counter 0, saturating, and the counter may fire. -/
def State.bump (s : State) (t c inc : Nat) : State :=
  let k := (s.tile t).counter c
  if c = 0 ∨ 64 ≤ c ∨ !k.armed then s
  else (s.onTile t fun x => x.setCounter c { k with value := min (k.value + inc) (2 ^ 32 - 1) }).fireIfFull t c

/-- Arrive (R153): an accepted network arrival bumps the counter it names. -/
def State.arrive (s : State) (t : Nat) (m : Msg) (src : Src) : State :=
  match s.arriveCore t m src with
  | (s', true) => if src = .net then s'.bump t (h0Of m.h0).cnt 1 else s'
  | (s', false) => s'

/-! ### Votes (R384) -/

/-- X column of a tile address with a distance subtracted, mod 32 (R383, R384). -/
def shiftX (t : Nat) (d : Int) : Nat := t / 32 * 32 + ((t % 32 : Int) + d).toNat % 32

/-- Group origin of a copy: SRC − COPY in X (R384). -/
def voteOrigin (m : Msg) : Nat := shiftX (h1Of m.h1).src (32 - ((h0Of m.h0).copy : Int))

/-- Whether two copies are equal bit for bit in LEN and payload (R384). -/
def sameCopy (a b : Msg) : Bool := (h0Of a.h0).len == (h0Of b.h0).len && a.pay == b.pay

/-- A winner as it enters Arrive: its own header with TRIPLE ← 0, and COPY the receiving tile's position when its handler is TRIPLE (R384). -/
def State.winner (s : State) (t : Nat) (m : Msg) (pos : Nat) : Msg :=
  let h := h0Of m.h0
  let triple := match s.handler t (domOf m.tag) h.hid with | some e => e.triple | none => false
  { m with h0 := { h with triple := false, copy := if triple then pos else h.copy }.word }

/-- The bytes of a message: headers, tag and payload. -/
def Msg.bytes (m : Msg) : List Byte := ([m.h0, m.h1, m.tag] ++ m.pay).flatMap fun w => leBytes 8 w.toNat

/-- An unequal or missing copy logged: EVC14, and header, tag and payload at the end of the domain's vote log in HBM (R384; log 28 for its
place and size). -/
def State.logVote (s : State) (t : Nat) (m : Msg) : State :=
  let s := s.onTile t (·.bumpEvc 14 1)
  match s.domain (domOf m.tag) with
  | none => s
  | some d =>
    let bs := m.bytes
    if 65536 < d.voteUsed + bs.length then s
    else (s.memWrite (d.voteBase + d.voteUsed) bs).onDomain d.dom fun d =>
      { d with voteLog := d.voteLog ++ [m], voteUsed := d.voteUsed + bs.length }

/-- Whether a vote entry is that of a copy (R384). -/
def Vote.isFor (v : Vote) (m : Msg) : Bool :=
  v.hid == (h0Of m.h0).hid && v.tag == m.tag && v.port == (h0Of m.h0).port && v.origin == voteOrigin m

/-- The copy that wins when a further copy arrives, if one does (R384). -/
def Vote.elects (v : Vote) (m : Msg) : Option Msg :=
  match v.copies with
  | [a] => if sameCopy a m then some a else none
  | a :: b :: _ => if v.decided then none else if sameCopy a m then some a else if sameCopy b m then some b else none
  | [] => none

/-- What enters Arrive when a message is resolved from a network, if anything does: the message, or for a copy the one it makes win. -/
def Tile.enters (x : Tile) (m : Msg) : Option Msg :=
  if (h0Of m.h0).triple && !x.withdrawn then (x.votes.find? (·.isFor m)).bind (·.elects m) else some m

/-- A vote entry of the matching store with another H0 in its first copy. -/
def Vote.setH0 (v : Vote) (w : Word) : Vote :=
  match v.copies with
  | m :: l => { v with copies := { m with h0 := w } :: l }
  | [] => v

/-- Vote entry `i` written in the matching store: an event of UNIT 3 for its place, past the operands (R407; log 20); none in the area. -/
def State.voteEvent (s : State) (t i : Nat) : State :=
  let x := s.tile t
  match x.votes[i]? with
  | none => s
  | some v => match v.overflowed, v.copies with
    | false, m :: _ =>
      s.injectSlot t 3 (x.store.length + (x.votes.take i).countP (!·.overflowed)) m fun y w => { y with votes := y.votes.set i (v.setH0 w) }
    | _, _ => s

/-- One arriving copy voted (R384); each write of its entry in the matching store is an event of UNIT 3 (R407). -/
def State.vote (s : State) (t : Nat) (m : Msg) (pos : Nat) : State :=
  let x := s.tile t
  let h := h0Of m.h0
  let key (v : Vote) : Bool := v.isFor m
  if x.killed m.tag then s
  else match indexOf? key x.votes with
    | none =>
      let add (s : State) (overflowed : Bool) : State :=
        s.onTile t fun x => { x with votes := x.votes ++
          [⟨h.hid, m.tag, h.port, voteOrigin m, [m], false, s.beat, overflowed, overflowed && s.spillBad x.order⟩] }
      if !x.storeFull then (add s false).voteEvent t x.votes.length
      else
        let s := s.passToS t
        if s.poolRoom x.dom x.areaUsed then add s true
        else s.killColour (s.addr t) (domOf m.tag) (colOf m.tag) 0x23
    | some i =>
      let v := x.votes.getD i ⟨0, 0, false, 0, [], false, 0, false, false⟩
      let setV (w : Vote) (s : State) : State := s.onTile t fun y => { y with votes := y.votes.map fun u => if key u then w else u }
      let retire (s : State) : State := (s.onTile t fun y => { y with votes := dropAt y.votes i }).overflowIfDue t
      match v.copies with
      | [a] =>
        let s' := (setV { v with copies := [a, m], decided := sameCopy a m } s).voteEvent t i
        if sameCopy a m then s'.arrive t (s.winner t a pos) .net else s'
      | a :: b :: _ =>
        if v.decided then retire (if sameCopy a m then s else s.logVote t m)
        else if sameCopy a m then (retire (s.logVote t b)).arrive t (s.winner t a pos) .net
        else if sameCopy b m then (retire (s.logVote t a)).arrive t (s.winner t b pos) .net
        else (retire s).killColour (s.addr t) (domOf m.tag) (colOf m.tag) 0x21
      | [] => retire s

/-! ### Dispatch (R28, R165, R166) -/

/-- Whether a queue class belongs to H. -/
def QClass.isHigh : QClass → Bool | .high => true | .rhigh => true | _ => false
/-- Whether a queue class is a reply class (R175). -/
def QClass.isReply : QClass → Bool | .rlow => true | .rhigh => true | _ => false

/-- Whether queue `q` is ready (R165). -/
def Tile.ready (x : Tile) (q : Nat) : Bool :=
  let u := x.queue q
  u.en && u.waiting != [] && !(u.excl && x.held q != 0)

/-- TXDEF and CTXDEF of pane 0 (R83). -/
def Tile.txdef (x : Tile) : Word := BitVec.ofNat 64 (x.sp.le 0 8)
/-- CTXDEF of pane 0 (R83). -/
def Tile.ctxdef (x : Tile) : Nat := x.sp.le 8 8

/-- The ST fields a dispatch sets (R28, R83): flags clear, RM, RNSOVT and ZM from CTXDEF, PEND zero, TDEPTH. -/
def stAtDispatch (c ctxdef depth : Nat) : Word :=
  let rm := if 6 ≤ ctxdef % 8 then 0 else ctxdef % 8
  Ctx.resetSt c + BitVec.ofNat 64 (rm * 2 ^ 13 + ctxdef / 8 % 2 * 2 ^ 16 + ctxdef / 16 % 2 * 2 ^ 17 + depth * 2 ^ 5)

/-- Element `i` of a payload, zero beyond it (R17). -/
def payAt (l : List Word) (i : Nat) : Word := l.getD i 0

/-- The window of a slot (R17). -/
def windowOf (sl : Slot) : Vector Word 16 :=
  match sl.rightPay with
  | none => ⟨⟨(List.range 16).map fun i => payAt sl.msg.pay i⟩, by simp⟩
  | some r => ⟨⟨(List.range 16).map fun i => if i < 8 then payAt sl.msg.pay i else payAt r (i - 8)⟩, by simp⟩

/-- Load (R28, R166): a FREE context takes a slot. -/
def Tile.load (x : Tile) (c : Nat) (a : Activation) (beat : Nat) : Tile :=
  let m := a.slot.msg
  let tx := txAtDispatch x.txdef
  let right := (a.slot.rightPay.map (·.length)).getD 0
  x.onCtx c fun k =>
    let k := ((k.setG 1 (BitVec.ofNat 64 m.pay.length)).setG 2 (BitVec.ofNat 64 (h1Of m.h1).src)).setG 3 (BitVec.ofNat 64 a.queue)
    { k with
      pc := BitVec.ofNat 64 a.handler.entry
      tg := m.tag
      mh0 := m.normal.h0
      mh1 := m.normal.h1
      mlen := BitVec.ofNat 64 (m.pay.length + right * 256)
      ms := windowOf a.slot
      icount := 0
      tx := tx
      st := stAtDispatch c x.ctxdef (depthAtDispatch tx m.tag)
      wdog := BitVec.ofNat 32 (x.queue a.queue).watchdog
      status := .running
      act := some a
      pend := []
      wait := none
      parkedVa := none
      refilled := false
      refetched := false
      word := none
      waitsOn := []
      issueFrom := beat + 3 }

/-- The state with context `c` of a tile loaded from the head of queue `q`. -/
def State.loadFrom (s : State) (t c q : Nat) : State :=
  let x := s.tile t
  let u := x.queue q
  match u.waiting with
  | [] => s
  | sl :: rest =>
    let hid := (h0Of sl.msg.h0).hid
    let e := (s.handler t x.dom hid).getD ⟨0, q, false, false⟩
    let x := x.onQueue q fun u => { u with waiting := rest }
    s.setTile t (x.load c ⟨sl, q, u.cls, hid, e, (h0Of sl.msg.h0).copy⟩ s.beat)

/-- The context of L0 to L3 that a dispatch takes: the lowest-numbered FREE one. -/
def Tile.freeL (x : Tile) : Option Nat := (List.range 4).find? fun c => (x.ctx c).status == .free

/-- The member of `r` with the largest credit, the lower index on ties (R166). -/
def bestCredit (x : Tile) : List Nat → Option Nat
  | [] => none
  | q :: r => match bestCredit x r with
    | none => some q
    | some p => if (x.queue q).credit ≥ (x.queue p).credit then some q else some p

/-- Whether a tile's domain dispatches: it is bound, not withdrawn and not stopped (R387, R388). -/
def Tile.dispatches (x : Tile) : Bool := x.enabled && !x.withdrawn && !x.frozen && x.dom != 0

/-- The dispatch of one beat (R166). -/
def State.dispatchBeat (s : State) (t : Nat) : State :=
  let x := s.tile t
  let qs := (List.range 16).filter x.ready
  let high := qs.filter fun q => (x.queue q).cls.isHigh
  let low := qs.filter fun q => !(x.queue q).cls.isHigh
  if !x.dispatches then s
  else match (x.ctx 4).status, high with
    | .free, q :: _ => s.loadFrom t 4 q
    | _, _ =>
      match x.freeL with
      | none => s
      | some c =>
        if low = [] then s
        else
          let y := low.foldl (fun y q => y.onQueue q fun u => { u with credit := u.credit + u.weight }) x
          let sum : Nat := low.foldl (fun n q => n + (x.queue q).weight) 0
          match bestCredit y low with
          | none => s
          | some q => (s.setTile t (y.onQueue q fun u => { u with credit := u.credit - sum })).loadFrom t c q

end Sys2Proof.Machine
end

