-- ==== Sys2Proof/Machine/Blocks.lean ====
section
/-! DEFINITION. The KV block tables (09: R237 to R243; 11: R277 to R280): addresses, entries, frames, quarantine, and the
operations of the block-table service. -/

namespace Sys2Proof.Machine

/-- A BT address resolved (R237). -/
structure BtPlace where
  bt : BlockTable
  entry : Nat
  off : Nat
  deriving DecidableEq, Repr

/-- What the service answers: a result, a trap with its address, or a wait (MIG set, R240) or a copy (REF above 1). -/
inductive BtAnswer
  | done (s : State) (w : Word)
  | trap (c : Cause) (va : Word)
  | held
  | copy
  deriving Repr

/-- A block table of a domain. -/
def State.blockTable (s : State) (dom btid : Nat) : Option BlockTable := ((s.domain dom).map (·.bts)).bind fun l => l.find? (·.btid == btid)

/-- The state with a block table changed. -/
def State.onTable (s : State) (dom btid : Nat) (f : BlockTable → BlockTable) : State :=
  s.onDomain dom fun d => { d with bts := d.bts.map fun b => if b.btid = btid then f b else b }

/-- BTID of a BT address. -/
def btidOf (a : Word) : Nat := bits a 63 62

/-- The place of a BT address: none for an undeclared table or an index at or above its limit (R237, R277). -/
def State.btPlace (s : State) (dom : Nat) (a : Word) : Option BtPlace :=
  match s.blockTable dom (btidOf a) with
  | none => none
  | some b =>
    let seq := bits a 61 40
    let blk := bits a 39 16
    let off := bits a 15 0
    if seq < b.seqs ∧ blk < b.blocks ∧ off < b.blkSize then some ⟨b, b.base + (seq * b.blocks + blk) * 8, off⟩ else none

/-- Whether an entry is valid (R238). -/
def entryOk (e : Word) : Bool := e.getLsbD 0 && bits e 11 4 == 0
/-- REF of an entry. -/
def entryRef (e : Word) : Nat := bits e 63 52
/-- FRAME of an entry. -/
def entryFrame (e : Word) : Nat := bits e 51 12
/-- FULL, MIG and TIER of an entry. -/
def entryFull (e : Word) : Bool := e.getLsbD 3
/-- MIG of an entry. -/
def entryMig (e : Word) : Bool := e.getLsbD 2
/-- TIER of an entry. -/
def entryTier (e : Word) : Bool := e.getLsbD 1

/-- The word of an entry (R238). -/
def entryWord (ref frame : Nat) (full mig tier v : Bool) : Word :=
  BitVec.ofNat 64 (ref * 2 ^ 52 + frame * 2 ^ 12 + bitN full * 8 + bitN mig * 4 + bitN tier * 2 + bitN v)

/-- The entry at an address of a table. -/
def State.entryAt (s : State) (a : Nat) : Word := BitVec.ofNat 64 (s.memLe a 8)
/-- What the service, which is firmware, reads of a table's entries for a context of a domain: one that the access table does not grant it traps
PROTECTION (R450), a poisoned one UNCORRECTABLE_DATA (R374). -/
def State.readEntries (s : State) (dom : Nat) (as : List Nat) (write : Bool) (va : Word) (k : BtAnswer) : BtAnswer :=
  if as.any fun a => s.denied .firmware dom a ⟨true, write, false, false⟩ then .trap .protection va
  else if as.any fun a => s.memPoisoned a 8 then .trap .uncorrectableData va else k
/-- An entry written. -/
def State.setEntry (s : State) (a : Nat) (e : Word) : State := s.memSetLe a 8 e.toNat

/-- The addresses of a table's valid entries that name a frame (R239). -/
def State.naming (s : State) (b : BlockTable) (frame : Nat) : List Nat :=
  ((List.range (b.seqs * b.blocks)).map fun i => b.base + 8 * i).filter fun a => entryOk (s.entryAt a) && entryFrame (s.entryAt a) == frame

/-- Every entry of a table that names a frame changed. -/
def State.onNaming (s : State) (b : BlockTable) (frame : Nat) (f : Word → Word) : State :=
  (s.naming b frame).foldl (fun s a => s.setEntry a (f (s.entryAt a))) s

/-- A table with a frame returned to its tier's free list. -/
def BlockTable.free (b : BlockTable) (frame : Nat) (tier : Bool) : BlockTable :=
  if tier then { b with freeLpddr := b.freeLpddr ++ [frame] } else { b with freeHbm := b.freeHbm ++ [frame] }

/-- The first frame of a tier's free list and the table without it. -/
def BlockTable.take (b : BlockTable) (tier : Bool) : Option (Nat × BlockTable) :=
  if tier then match b.freeLpddr with | [] => none | f :: r => some (f, { b with freeLpddr := r })
  else match b.freeHbm with | [] => none | f :: r => some (f, { b with freeHbm := r })

/-- The stream engines that run a program of a domain (R242). -/
def State.enginesOf (s : State) (dom : Nat) : List Nat :=
  (s.engines.filter fun (_, e) => (e.slots ++ e.back).any fun p => p.started && p.req.dom == dom).map (·.1)

/-- A frame put in quarantine (R242): freed at once when no engine runs a program of the domain. -/
def State.quarantine (s : State) (dom btid frame : Nat) (tier : Bool) : State :=
  match s.enginesOf dom with
  | [] => s.onTable dom btid fun b => b.free frame tier
  | l => s.onTable dom btid fun b => { b with quarantine := b.quarantine ++ [(frame, tier, l)] }

/-- A program boundary of an engine (R242): frames no engine has still to pass are freed. -/
def BlockTable.boundary (b : BlockTable) (e : Nat) : BlockTable :=
  let q := b.quarantine.map fun (f, t, l) => (f, t, l.filter (· != e))
  let done := q.filter fun (_, _, l) => l.isEmpty
  done.foldl (fun b (f, t, _) => b.free f t) { b with quarantine := q.filter fun (_, _, l) => !l.isEmpty }

/-- A program boundary of an engine in a domain (R242). -/
def State.passBoundary (s : State) (dom e : Nat) : State := s.onDomain dom fun d => { d with bts := d.bts.map (·.boundary e) }


/-- BTLD with WRITE (R278, R240). -/
def State.btWrite (s : State) (dom : Nat) (a : Word) : BtAnswer :=
  match s.btPlace dom a with
  | none => .trap .pageFault a
  | some p => s.readEntries dom [p.entry] false a <|
    let e := s.entryAt p.entry
    if !entryOk e then .trap .pageFault a
    else if entryFull e then .trap .protection a
    else if entryMig e then .held
    else if 1 < entryRef e then .copy
    else .done s e

/-- The copy on write of a block (R240): a frame of the same tier, the block's bytes with their poison (R374), the entry,
and REF lowered elsewhere;
with no frame the write fails as for FULL. -/
def State.btCopy (s : State) (dom : Nat) (a : Word) : BtAnswer :=
  match s.btPlace dom a with
  | none => .trap .pageFault a
  | some p =>
    let e := s.entryAt p.entry
    let tier := entryTier e
    match p.bt.take tier with
    | none => .trap .protection a
    | some (f, b) =>
      let old := entryFrame e
      let s := s.onTable dom b.btid fun _ => b
      let s := s.copyMem (old * 4096) (f * 4096) b.blkSize
      let w := entryWord 1 f false false tier true
      let s := s.setEntry p.entry w
      let s := if entryRef e < 4095 then s.onNaming b old fun x => setBits x 63 52 (entryRef x - 1) else s
      .done s w

/-- BTSWAP (R279): the entry is checked first, then g[b], then the comparison. -/
def State.btSwap (s : State) (dom : Nat) (a expected new : Word) : BtAnswer :=
  match s.btPlace dom a with
  | none => .trap .pageFault a
  | some p => s.readEntries dom [p.entry] true a <|
    let old := s.entryAt p.entry
    let b := p.bt
    let nf := entryFrame new
    let ofr := entryFrame old
    let reserved := b.reserved.contains (nf, entryTier new)
    if !entryOk old then .trap .pageFault a
    else if !new.getLsbD 0 ∨ bits new 11 4 ≠ 0 ∨ nf * 4096 % b.blkSize ≠ 0 ∨ (!reserved ∧ nf ≠ ofr) then .trap .illegalInstruction 0
    else if old ≠ expected then .done s old
    else
      let s := s.onNaming b ofr fun x => setBits (setBits x 51 12 nf) 3 1 (bits new 3 1)
      let s := if nf = ofr then s else
        let s := s.onTable dom b.btid fun b => { b with reserved := b.reserved.filter (· != (nf, entryTier new)) }
        if entryRef old < 4095 then s.quarantine dom b.btid ofr (entryTier old)
        else s.onTable dom b.btid fun b => { b with kept := b.kept ++ [ofr] }
      .done s old

/-- BTREF DROP (R280, R239). -/
def State.btDrop (s : State) (dom : Nat) (a : Word) : BtAnswer :=
  match s.btPlace dom a with
  | none => .trap .pageFault a
  | some p => s.readEntries dom [p.entry] true a <|
    let old := s.entryAt p.entry
    let f := entryFrame old
    if !entryOk old then .trap .pageFault a
    else
      let s := s.setEntry p.entry 0
      let sticky := decide (4095 ≤ entryRef old)
      let s := if sticky then s else s.onNaming p.bt f fun x => setBits x 63 52 (entryRef x - 1)
      let s := if !(s.naming p.bt f).isEmpty then s
        else if sticky then s.onTable dom p.bt.btid fun b => { b with kept := b.kept ++ [f] }
        else s.quarantine dom p.bt.btid f (entryTier old)
      .done s old

/-- BTREF SHARE (R280): `src` is the source BT address; its PAGE_FAULT names g[a], as every one of R277 does. -/
def State.btShare (s : State) (dom : Nat) (a src : Word) : BtAnswer :=
  if btidOf src ≠ btidOf a then .trap .illegalInstruction src
  else match s.btPlace dom a with
    | none => .trap .pageFault a
    | some p => s.readEntries dom [p.entry] true a <|
      if (s.entryAt p.entry).getLsbD 0 then .done s 0
      else match s.btPlace dom src with
        | none => .trap .pageFault a
        | some q => s.readEntries dom [q.entry] true a <|
          let e := s.entryAt q.entry
          if !entryOk e then .trap .pageFault a
          else
            let new := setBits e 63 52 (min (entryRef e + 1) 4095)
            let s := s.onNaming p.bt (entryFrame e) fun x => setBits x 63 52 (min (entryRef x + 1) 4095)
            .done (s.setEntry p.entry new) new

/-- BTREF NEW (R280). -/
def State.btNew (s : State) (dom : Nat) (a : Word) (tier full : Bool) : BtAnswer :=
  match s.btPlace dom a with
  | none => .trap .pageFault a
  | some p => s.readEntries dom [p.entry] true a <|
    if (s.entryAt p.entry).getLsbD 0 then .done s 0
    else match p.bt.take tier with
      | none => .done s 0
      | some (f, b) =>
        let w := entryWord 1 f full false tier true
        .done ((s.onTable dom b.btid fun _ => b).setEntry p.entry w) w

/-- BTREF FRESERVE (R280). -/
def State.btReserve (s : State) (dom : Nat) (a : Word) (tier : Bool) : BtAnswer :=
  match s.blockTable dom (btidOf a) with
  | none => .trap .pageFault a
  | some b => match b.take tier with
    | none => .done s 0
    | some (f, b) =>
      .done (s.onTable dom b.btid fun _ => { b with reserved := b.reserved ++ [(f, tier)] }) (entryWord 0 f false false tier false)

/-- BTREF FRELEASE (R280): `v` is a value from FRESERVE. -/
def State.btRelease (s : State) (dom : Nat) (a v : Word) : BtAnswer :=
  match s.blockTable dom (btidOf a) with
  | none => .trap .pageFault a
  | some b =>
    let f := entryFrame v
    let tier := entryTier v
    if v = entryWord 0 f false false tier false ∧ b.reserved.contains (f, tier) then
      .done (s.onTable dom b.btid fun b => { b.free f tier with reserved := b.reserved.filter (· != (f, tier)) }) 0
    else .trap .illegalInstruction 0

/-- BTREF (R280): `x` is the control word, `y` the value gd held at issue. -/
def State.btRef (s : State) (dom : Nat) (a x y : Word) : BtAnswer :=
  match bits x 2 0 with
  | 0 => s.btDrop dom a
  | 1 => s.btShare dom a y
  | 2 => s.btNew dom a (x.getLsbD 3) (x.getLsbD 4)
  | 3 => s.btReserve dom a (x.getLsbD 3)
  | _ => s.btRelease dom a y

end Sys2Proof.Machine
end

