-- ==== Sys2Proof/Machine/Msg.lean ====
section
/-! DEFINITION. The message, tag, queue, counter and barrier instructions (07: R185 to R209; 17: R383). -/

namespace Sys2Proof.Machine

/-! ### The store queue (R252, R268, R269) -/

/-- Whether a memory target that an access was translated to takes no traffic now (R244, R245, R432). -/
def State.targetDown (s : State) (t pa : Nat) : Bool :=
  match s.memTarget (s.tile t).dom pa with
  | some g => s.isDown t g
  | none => false

/-- The oldest store of a queue whose link has failed (R269): performed or not; it is recorded, and the stores queued to the same
target go. -/
def State.storeFails (s : State) (t c : Nat) (q : Store) : State :=
  let dom := (s.tile t).dom
  let link (pa : Nat) : Option LinkTarget := (s.memTarget dom pa).map (·.link)
  let s' := if Config.performed s.fv then s.memWrite q.pa (leBytes q.size q.val.toNat) else s
  { s' with fv := s'.fv + 1 }.onCtx t c fun k => { k with
    failedStore := some (k.failedStore.getD q.va)
    storeQ := k.storeQ.filter fun p => link p.pa != link q.pa }

/-- Whether a tile's die is viral: nothing of it leaves by its memory channels (R385). -/
def State.viralAt (s : State) (t : Nat) : Bool := (vget s.dies (dieAt t) Die.reset).viral

/-- The oldest store of a context's queue performed (R252, R268); a tile that replays drops it (R394). -/
def State.performStore (s : State) (t c : Nat) : State :=
  match (s.ctxAt t c).storeQ with
  | [] => s
  | q :: rest =>
    let s := s.onCtx t c fun k => { k with storeQ := rest }
    if (s.tile t).replay then s
    else if s.targetDown t q.pa then s.storeFails t c q
    else
      let s := s.globalWrite t q.pa (leBytes q.size q.val.toNat) q.cached q.sync
      if q.cached then s.onCtx t c fun k => { k with dirtied := q.pa / 128 :: k.dirtied.filter (· != q.pa / 128) } else s

/-- The issuing context's queued stores performed before an instruction whose effect happens before what other contexts of the die do
(R256, R257: CNTADD, CNTSET, GIVE), which may be at any beat (R252). -/
def State.drained (s : State) : State :=
  if s.viralAt s.cur then s else s.me.storeQ.foldl (fun s _ => s.performStore s.cur s.who) s

/-! ### Waiting for stores (R255, R269) -/

/-- The trap a failed store makes a later instruction take (R269): the record of the failure is then spent. -/
def State.trapGone (s : State) (va : Nat) : Res :=
  .wait ((s.onMe fun k => { k with failedStore := none }).trapMe .targetGone (BitVec.ofNat 64 va))

/-- Holds the instruction until the context's store queue is empty (R255). -/
def State.afterStores (s : State) (k : State → Res) : Res :=
  match s.me.failedStore with
  | some va => s.trapGone va
  | none => if s.me.storeQ = [] then k s else s.stall

/-! ### Sending (R187 to R190, R383) -/

/-- `tg` with its DOM replaced for L and H (R146). -/
def State.sentTag (s : State) : Word := if s.isS then s.me.tg else setDom s.me.tg s.my.dom

/-- H0 built from a template (R187). -/
def State.sentH0 (s : State) (template : Word) (vn : Bool) (len : Nat) : H0 :=
  let h := h0Of template
  match s.me.act with
  | some a => { h with vn := vn, len := len, triple := a.handler.triple, copy := if a.handler.triple then a.copy else 0 }
  | none => { h with vn := vn, len := len, triple := false, copy := 0 }

/-- H1 of a message the context sends, before it has its number (R187). -/
def State.sentH1 (s : State) (t seq : Nat) : H1 := ⟨s.addr t, s.who.val, 0, false, seq⟩

/-- Destination, COPY and group position of each copy of a message: three when it names a TRIPLE handler (R383). -/
def State.copies (s : State) (h : H0) (tag : Word) : List (Nat × Nat × Nat) :=
  match s.handler s.cur (domOf tag) h.hid with
  | some e => if e.triple then [0, 1, 2].map fun (i : Nat) => (shiftX h.dst i, if h.triple then h.copy else i, i) else [(h.dst, h.copy, 0)]
  | none => [(h.dst, h.copy, 0)]

/-- The NI accepts a message: one of a killed colour is discarded with no number taken (R189); each copy of another takes
its own number (R383); DROP is carried as 0 inside the module (R148); a tile that replays sends nothing (R394). -/
def State.accept (s : State) (h : H0) (tag : Word) (pay : List Word) : State :=
  if s.my.killed tag then s
  else (s.copies h tag).foldl (fun s (dst, copy, pos) =>
    let m : Msg := { h0 := { h with dst := dst, copy := copy, drop := h.drop && dst / 32768 != s.modNo }.word, h1 := (s.sentH1 s.cur s.my.seq.toNat).word, tag := tag, pay := pay }
    let s' := (s.takeSeq s.cur).onMy fun x => { x with sent := (x.sent + bitN (domOf tag == x.dom)) % 2 ^ 32 }
    if s.my.replay then s' else s'.inject s.cur m h.vn pos) s

/-- Checks 1 and 2 of R188; a message that S sends is not checked at check 2 (R459). -/
def State.sendCheck (s : State) (dst : Nat) (req : Bool) : Option (Cause × Word) :=
  if req && (match s.me.act with | some a => a.cls.isReply | none => false) then some (.replyVnViolation, 0)
  else if !s.isS && s.dstGone s.cur dst then some (.targetGone, BitVec.ofNat 64 dst)
  else none

/-- Check 3 of R188: the payload's doublewords in ascending order. -/
def State.payloadCheck (s : State) (base : Word) : Nat → Nat → Option (Cause × Word)
  | 0, _ => none
  | n + 1, j => match s.spCheck (effAddr base (8 * j)) 8 with
    | some c => some c
    | none => s.payloadCheck base n (j + 1)

/-- The first poisoned doubleword of a payload (R374). -/
def State.payloadPoison (s : State) (base : Word) (n : Nat) : Option Nat :=
  (List.range n).find? fun j => s.my.spPoisoned (base.toNat + 8 * j) 8

/-- The payload of a SEND or REPLY (R187). -/
def State.payload (s : State) (vec : Bool) (b : Reg) (n : Nat) : List Word :=
  (List.range n).map fun j =>
    if vec then (s.me.v b).extractLsb' (64 * j) 64 else BitVec.ofNat 64 (s.my.sp.le ((s.me.g b).toNat + 8 * j) 8)

/-- The waits of R189 and R255 before a message is accepted. -/
def State.whenTaken (s : State) (reply : Bool) (k : State → Res) : Res :=
  s.afterStores fun s => if s.my.killed s.sentTag || s.outFree s.cur reply then k s else s.stall

/-- The checks of R188 that are made when the instruction first issues, and are not made again. -/
def State.atFirst (s : State) (c : Option (Cause × Word)) (k : Res) : Res :=
  match if s.firstIssue then c else none with
  | some (c, va) => .trap c va
  | none => k

/-- SEND and REPLY (R187 to R189): check 3 is made when it first issues and again in the beat in which it retires. -/
def State.sendMsg (s : State) (vn vec : Bool) (a b : Reg) (n : BitVec 5) : Res :=
  let n := n.toNat
  let base := s.me.g b
  let check3 (s : State) : Option (Cause × Word) := if vec then none else s.payloadCheck base n 0
  if 16 < n then .trap .illegalInstruction 0
  else s.atFirst ((s.sendCheck (h0Of (s.me.g a)).dst (!vn)).or (check3 s))
    (s.whenTaken vn fun s =>
      match check3 s with
      | some (c, va) => .trap c va
      | none => match if vec then none else s.payloadPoison base n with
        | some j => .trap .uncorrectableData (eaWord (effAddr base (8 * j)))
        | none => .done (s.accept (s.sentH0 (s.me.g a) vn n) s.sentTag (s.payload vec b n)))

/-- SEND (R187). -/
def execSend (v : Bool) (a b : Reg) (n : BitVec 5) (s : State) : Out := plain (fun s => s.sendMsg false v a b n) s
/-- REPLY (R187). -/
def execReply (v : Bool) (a b : Reg) (n : BitVec 5) (s : State) : Out := plain (fun s => s.sendMsg true v a b n) s

/-- The payload of the current message as dispatch loaded it (R190). -/
def Ctx.window (k : Ctx) : List Word :=
  let m := k.ms.toList
  m.take (bits k.mlen 4 0) ++ (m.drop 8).take (bits k.mlen 12 8)

/-- FWD (R190). -/
def execFwd (a : Reg) (n : Bool) (s : State) : Out :=
  plain (fun s =>
    s.atFirst (s.sendCheck (h0Of (s.me.g a)).dst (!n)) (s.whenTaken n fun s =>
      .done (s.accept (s.sentH0 (s.me.g a) n s.me.window.length) s.sentTag s.me.window))) s

/-! ### Ending an activation (R191, R192) -/

/-- The context made FREE, its activation gone. -/
def Ctx.freed (k : Ctx) : Ctx :=
  { k with status := .free, act := none, wait := none, parkedVa := none, parkedNeed := needOf false false false, parkedWrite := false, refilled := false, refetched := false,
           word := none, waitsOn := [], icount := k.icount + 1 }

/-- The queue a context's activation holds a slot of, refilled if that is now due (R157, R191). -/
def State.afterSlot (s : State) (t : Nat) (a : Option Activation) : State :=
  match a with
  | some a => s.refillIfDue t a.queue
  | none => s

/-- END (R191). -/
def execEndAct (s : State) : Out :=
  plain (fun s => if s.me.pend = [] then .ended ((s.drained.onMe Ctx.freed).afterSlot s.cur s.me.act) else s.stall) s

/-- The slot of an activation at the tail of its queue again (R192), a write of a slot and so an event of UNIT 2 (R407). -/
def State.backToQueue (s : State) (t : Nat) (a : Activation) : State := s.enqueue t a.queue a.slot

/-- DEFER (R192). -/
def execDefer (s : State) : Out :=
  plain (fun s =>
    if s.isS then .trap .illegalInstruction 0
    else if s.me.pend ≠ [] then s.stall
    else match s.me.act with
      | some a => .ended ((s.onMe Ctx.freed).backToQueue s.cur a)
      | none => .ended (s.onMe Ctx.freed)) s

/-! ### Tag operations (R193, R194) -/

/-- The field an operand names: 8 names field TDEPTH (R193). -/
def Ctx.tagField (k : Ctx) (f : BitVec 5) : Nat := if f.toNat = 8 then k.tdepth else f.toNat
/-- ST with TDEPTH replaced. -/
def Ctx.setDepth (k : Ctx) (d : Nat) : Ctx := { k with st := setBits k.st 7 5 d }
/-- `tg` with a field replaced. -/
def Ctx.setTagField (k : Ctx) (f v : Nat) : Ctx := { k with tg := setField k.tx k.tg f v }

/-- TGGET (R193). -/
def execTgget (d : Reg) (f : BitVec 5) (s : State) : Out :=
  plain (fun s =>
    let k := s.me
    if 8 < f.toNat then .trap .illegalInstruction 0
    else if txNf k.tx ≤ k.tagField f then .trap .tagOverflow 0
    else .done (s.putG d (BitVec.ofNat 64 (fieldOf k.tx k.tg (k.tagField f))))) s

/-- TGSET (R193). -/
def execTgset (a : Reg) (f : BitVec 5) (s : State) : Out :=
  plain (fun s =>
    let k := s.me
    let i := k.tagField f
    if 8 < f.toNat then .trap .illegalInstruction 0
    else if k.tdepth < i ∨ 2 ^ txW k.tx i ≤ (k.g a).toNat then .trap .tagOverflow 0
    else .done (s.onMe (·.setTagField i (k.g a).toNat))) s

/-- TGINC (R193). -/
def execTginc (a : Reg) (i f : BitVec 5) (s : State) : Out :=
  plain (fun s =>
    let k := s.me
    let n := k.tagField f
    let sum := fieldOf k.tx k.tg n + (k.g a).toNat + i.toNat
    if 8 < f.toNat then .trap .illegalInstruction 0
    else if k.tdepth < n ∨ 2 ^ txW k.tx n ≤ sum then .trap .tagOverflow 0
    else .done (s.onMe (·.setTagField n sum))) s

/-- TGPUSH (R193). -/
def execTgpush (a : Reg) (s : State) : Out :=
  plain (fun s =>
    let k := s.me
    let n := k.tdepth + 1
    if txNf k.tx ≤ n ∨ 2 ^ txW k.tx n ≤ (k.g a).toNat then .trap .tagOverflow 0
    else .done (s.onMe fun k => (k.setDepth n).setTagField n (k.g a).toNat)) s

/-- TGPOP (R193). -/
def execTgpop (d : Reg) (s : State) : Out :=
  plain (fun s =>
    let k := s.me
    let n := k.tdepth
    .done ((s.onMe fun k => (k.setTagField n 0).setDepth (n - 1)).putG d (BitVec.ofNat 64 (fieldOf k.tx k.tg n)))) s

/-- A result that level FULL logs (R393): logged, or replaced by the logged one on a tile that replays (R394). -/
def State.fed (s : State) (w : Word) : State × Word :=
  match s.my.replay, s.my.feed with
  | true, bs :: rest => (s.onMy fun x => { x with feed := rest }, BitVec.ofNat 64 (leNat bs))
  | _, _ => (s.logInput s.cur (leBytes 8 w.toNat), w)

/-- Such a result written to a general register. -/
def State.putLogged (s : State) (d : Reg) (w : Word) : State := let (s', w') := s.fed w; s'.putG d w'

/-- A request of the issuing context sent, with the step that answers it; the context is STALLED until then. -/
def State.ask (s : State) (r : GReq) (answer : Event) : Res :=
  .wait ((s.onMe fun k => { k with status := .stalled, wait := some (.sent r) }).post answer)

/-- An instruction that sends one request and completes on its answer: `first` makes the request, `last` retires it. -/
def State.exchange (s : State) (first : Res) (last : GReq → VReg → Res) : Res :=
  match s.me.wait with
  | none => first
  | some (.sent _) => .wait s
  | some (.answered r d) => last r d
  | some (.failed _ c va) => .trap c va

/-- TGNEW (R194). -/
def execTgnew (d : Reg) (s : State) : Out :=
  plain (fun s => s.exchange
    (s.ask ⟨.tgNew, 0, 0, 0, false, 0, BitVec.ofNat 64 (if s.isS then domOf s.me.tg else s.my.dom), 0⟩ (.colourAllocatorAnswer s.cur s.who))
    (fun _ v =>
      let (s, w) := s.fed (BitVec.ofNat 64 (v.toNat % 4096))
      let s := if w = 0 then s else s.onMe fun k => { k with tg := setBits k.tg 51 40 w.toNat }
      .done (s.putG d w))) s

/-! ### Neighbour ports (R195 to R198) -/

/-- A neighbour FIFO of a tile. -/
def Tile.fifoAt (x : Tile) (n : Nat) : List FifoEntry := vget x.fifo n []
/-- A tile with a neighbour FIFO replaced. -/
def Tile.setFifo (x : Tile) (n : Nat) (l : List FifoEntry) : Tile := { x with fifo := vset x.fifo n l }
/-- The entries of a FIFO that are visible at a beat (R196). -/
def visible (l : List FifoEntry) (beat : Nat) : List FifoEntry := l.filter fun e => decide (e.since < beat)

/-- A QGET's writes: the data, and the mark unless b is 0 (R195).  DESIGN CHOICE (log 63): of one register named for both the mark stays. -/
def State.takeEntry (s : State) (d m : Reg) (e : FifoEntry) : State := (s.putG d e.data).putG m (boolWord e.mark)

/-- What level FULL logs of a dequeued value (R393): the data and its MARK (log 28). -/
def FifoEntry.logged (e : FifoEntry) : List Byte := leBytes 8 e.data.toNat ++ leBytes 8 (bitN e.mark)

/-- The entry a QGET of port `n` takes and the state without it: the oldest visible one, logged (R195, R393), and on a tile that replays the
next of its log (R394). -/
def State.nextEntry (s : State) (n : Nat) : Option (FifoEntry × State) :=
  if s.my.replay then
    match s.my.feed with
    | [] => none
    | bs :: rest => some (⟨BitVec.ofNat 64 (leNat (bs.take 8)), decide (leNat (bs.drop 8) % 2 = 1), 0, 0, 0⟩, s.onMy fun x => { x with feed := rest })
  else match s.my.fifoAt n with
    | [] => none
    | e :: rest => if s.beat ≤ e.since then none else some (e, (s.onMy (·.setFifo n rest)).logInput s.cur e.logged)

/-- QGET (R195). -/
def execQget (d m : Reg) (n : BitVec 2) (s : State) : Out :=
  plain (fun s =>
    let n := n.toNat
    match s.nextEntry n with
    | none =>
      if s.my.fifoAt n = [] ∧ s.closed s.cur n = true ∧ s.my.replay = false then .trap .targetGone (BitVec.ofNat 64 (s.addr (neighbour s.cur n)))
      else s.stall
    | some (e, s') =>
      let vec := vget s.me.mvec n 0
      if e.mark ∧ vec ≠ 0 then
        if bits vec 1 0 ≠ 0 then .trap .misaligned vec
        else .jump ((s'.takeEntry d m e).onMe fun k => { k with mret := s.pc + 4 }) vec
      else .done (s'.takeEntry d m e)) s

/-- QPUT (R196); a tile that replays puts nothing (R394). -/
def execQput (a : Reg) (m : Bool) (n : BitVec 2) (s : State) : Out :=
  plain (fun s =>
    let n := n.toNat
    let nb := neighbour s.cur n
    if s.my.replay then s.afterStores fun s => .done s
    else if s.closed s.cur n then .trap .targetGone (BitVec.ofNat 64 (s.addr nb))
    else s.afterStores fun s =>
      let l := (s.tile nb).fifoAt (facingPort n)
      if 8 ≤ l.length then s.stall
      else
        let tag := s.sentTag
        .done (s.onTile nb fun x => x.setFifo (facingPort n) (l ++ [⟨s.me.g a, m, domOf tag, colOf tag, s.beat⟩]))) s

/-- The word QPOLL writes (R197). -/
def State.pollWord (s : State) (n : Nat) : Word :=
  let mine := visible (s.my.fifoAt n) s.beat
  let closed := s.closed s.cur n
  let room := if closed then 0 else 8 - ((s.tile (neighbour s.cur n)).fifoAt (facingPort n)).length
  BitVec.ofNat 64 (bitN closed * 2 ^ 15 + room * 2 ^ 8 + bitN ((mine.head?.map (·.mark)).getD false) * 2 ^ 4 + mine.length)

/-- QPOLL (R197). -/
def execQpoll (d : Reg) (n : BitVec 2) (s : State) : Out :=
  plain (fun s => .done (s.putLogged d (s.pollWord n.toNat))) s

/-- MRTN (R198). -/
def execMrtn (s : State) : Out :=
  plain (fun s => if bits s.me.mret 1 0 ≠ 0 then .trap .misaligned s.me.mret else .jump s s.me.mret) s

/-! ### Counters (R199 to R202) -/

/-- An instruction on the counter that a register names (R199). -/
def State.onCounter (s : State) (a : Reg) (k : Nat → Res) : Res :=
  let c := (s.me.g a).toNat
  if 1 ≤ c ∧ c ≤ 63 then k c else .trap .illegalInstruction (s.me.g a)

/-- CNTADD (R200). -/
def execCntadd (a b : Reg) (i : BitVec 5) (s : State) : Out :=
  plain (fun s => s.onCounter a fun c => .done (s.drained.bump s.cur c ((s.me.g b).toNat % 2 ^ 32 + i.toNat))) s

/-- The counter a control word, a value and a tag describe (R201). -/
def counterOf (w v tag : Word) : Counter :=
  ⟨v.toNat % 2 ^ 32, w.toNat % 2 ^ 32, bits w 43 32, tag, w.getLsbD 44, w.getLsbD 45, w.getLsbD 46⟩

/-- CNTSET (R201). -/
def execCntset (a b c : Reg) (s : State) : Out :=
  plain (fun s => s.onCounter a fun n =>
    let w := s.me.g b
    if bits w 63 47 ≠ 0 ∨ w.toNat % 2 ^ 32 = 0 then .trap .illegalInstruction 0
    else .done ((s.drained.onMy fun x =>
      { x.setCounter n (counterOf w (s.me.g c) s.sentTag) with freshCnt := some n }).fireIfFull s.cur n)) s

/-- The word CNTGET writes (R202). -/
def Counter.word (k : Counter) : Word := BitVec.ofNat 64 (bitN k.rearm * 2 ^ 34 + bitN k.timer * 2 ^ 33 + bitN k.armed * 2 ^ 32 + k.value % 2 ^ 32)

/-- CNTGET (R202). -/
def execCntget (d a : Reg) (s : State) : Out :=
  plain (fun s => s.onCounter a fun c => .done (s.putG d (s.my.counter c).word)) s

/-! ### Barriers (R204, R207) -/

/-- The event counters as a join carries them. -/
def Tile.evcList (x : Tile) : List Nat := x.evc.toList.map (·.toNat)

/-- BARJOIN (R204); the join of a tile that replays goes nowhere (R394).  DESIGN CHOICE (log 63): of several checks that fail, the control word
comes first, then the alignment of the address, then its translation. -/
def execBarjoin (a b c : Reg) (s : State) : Out :=
  plain (fun s =>
    let w := s.me.g a
    let va := s.me.g c
    let n := bits w 35 20
    if bits w 63 36 ≠ 0 ∨ bits w 3 2 ≠ 0 ∨ bits w 1 0 = 3 ∨ n = 0 then .trap .illegalInstruction 0
    else if va.toNat % 128 ≠ 0 then .trap .misaligned va
    else if bits va 63 52 ≠ 0 then .trap .pageFault va
    else s.translated va.toNat false true true fun s pa _ _ =>
      s.afterStores fun s =>
        if s.my.replay then .done s
        else if 4 ≤ s.my.joins.length then s.stall
        else .done ((s.onMy fun x =>
          { x with joins := x.joins ++ [(⟨s.cur, s.sentTag, bits w 7 4, n, bits w 1 0, bits w 19 8, s.me.g b, pa, x.evcList⟩ : Join)] }).post
            (.barrierJoinArrival s.cur))) s

/-- BARVAL (R207). -/
def execBarval (d : Reg) (g : BitVec 4) (s : State) : Out :=
  plain (fun s => .done (s.putG d (vget s.my.barval g.toNat 0))) s

end Sys2Proof.Machine
end

