-- ==== Sys2Proof/Machine/Global.lean ====
section
/-! DEFINITION. Global loads and stores, atomics, acquire and release, fences and the block-table instructions
(11: R265 to R280; 10: R252 to R263; 02: R58, R59). -/

namespace Sys2Proof.Machine

/-! ### Fixed-point cells (R58, R59) -/

/-- The largest 127-bit value. -/
def cellMax : Int := 2 ^ 126 - 1
/-- The smallest 127-bit value. -/
def cellMin : Int := -2 ^ 126
/-- A cell from OV and VAL. -/
def cellOf (ov : Bool) (v : Int) : Nat := (v % 2 ^ 127).toNat + (if ov then 2 ^ 127 else 0)
/-- OV of a cell. -/
def cellOv (c : Nat) : Bool := c / 2 ^ 127 % 2 == 1
/-- VAL of a cell. -/
def cellVal (c : Nat) : Int := sInt (c % 2 ^ 127) 127

/-- FXADD of an FP32 addend (R58). -/
def fxAdd (c : Nat) (f : Nat) : Nat :=
  match fp32.dec f with
  | .nan _ => cellOf true (cellVal c)
  | .inf n => cellOf true (if n then cellMin else cellMax)
  | .fin n m e =>
    let v := cellVal c + (roundInt .rne 0 n m (e + 60)).1
    if cellMax < v then cellOf true cellMax else if v < cellMin then cellOf true cellMin else cellOf (cellOv c) v

/-- FXRD in FP32 or FP64 (R59): the result, NX and NV. -/
def fxRead (c : Nat) (f : Fmt) : Nat × Bool × Bool :=
  if cellOv c then (f.nan.getD 0, false, true)
  else
    let v := cellVal c
    let r := f.round .rne false 0 (.fin (decide (v < 0)) v.natAbs (-60))
    if v = 0 then (0, false, false) else (r.bits, r.nx, false)

/-- The FP32 or FP64 of an FXRD. -/
def fxFmt (p : Prec) : Fmt := match p with | .s => fp32 | .d => fp64

/-! ### Address checks (R265) -/

/-- Checks 1 to 6 of R265 for an access of `size` bytes. -/
def State.gcheck (s : State) (ea : Int) (size : Nat) (r w write : Bool) (k : State → Nat → Bool → Nat → Res) : Res :=
  if ea < 0 ∨ 2 ^ 52 ≤ ea then .trap .pageFault (eaWord ea)
  else if ea.toNat % size ≠ 0 then .trap .misaligned (eaWord ea)
  else s.translated ea.toNat r w write k

/-- The effective address of the LS format. -/
def Ctx.ls (k : Ctx) (a : Reg) (o : BitVec 13) : Int := effAddr (k.g a) o.toInt

/-! ### Loads (R266, R267) -/

/-- A global load of `size` bytes whose register value is a function of them. -/
def gload (size : Nat) (d : Dst) (ext : VReg → VReg) (a : Reg) (o : BitVec 13) (s : State) : Out :=
  plain (fun s => s.exchange
    (let ea := s.me.ls a o
     s.gcheck ea size true false false fun s pa cached sync =>
       s.ask ⟨.load, ea.toNat, pa, size, cached, sync, 0, 0⟩ (.globalAnswerReturn s.cur s.who))
    (fun _ v => .done (s.put d (ext v) 1))) s

/-- Zero extension of a loaded value. -/
def zextTo (n : Nat) (v : VReg) : VReg := BitVec.ofNat 1024 (v.toNat % 2 ^ n)
/-- Sign extension to 64 bits of a loaded value. -/
def sextTo (n : Nat) (v : VReg) : VReg := (sext v.toNat n).setWidth 1024

/-- GLDB (R266). -/
def execGldb (d a : Reg) (o : BitVec 13) (s : State) : Out := gload 1 (.g d) (sextTo 8) a o s
/-- GLDBU (R266). -/
def execGldbu (d a : Reg) (o : BitVec 13) (s : State) : Out := gload 1 (.g d) (zextTo 8) a o s
/-- GLDH (R266). -/
def execGldh (d a : Reg) (o : BitVec 13) (s : State) : Out := gload 2 (.g d) (sextTo 16) a o s
/-- GLDHU (R266). -/
def execGldhu (d a : Reg) (o : BitVec 13) (s : State) : Out := gload 2 (.g d) (zextTo 16) a o s
/-- GLDW (R266). -/
def execGldw (d a : Reg) (o : BitVec 13) (s : State) : Out := gload 4 (.g d) (sextTo 32) a o s
/-- GLDWU (R266). -/
def execGldwu (d a : Reg) (o : BitVec 13) (s : State) : Out := gload 4 (.g d) (zextTo 32) a o s
/-- GLDD (R266). -/
def execGldd (d a : Reg) (o : BitVec 13) (s : State) : Out := gload 8 (.g d) (zextTo 64) a o s
/-- GLDV (R267). -/
def execGldv (v a : Reg) (o : BitVec 13) (s : State) : Out := gload 128 (.v v) id a o s

/-! ### Stores (R268) -/

/-- A global store of `size` bytes. -/
def gstore (size : Nat) (r a : Reg) (o : BitVec 13) (s : State) : Out :=
  plain (fun s =>
    let ea := s.me.ls a o
    s.gcheck ea size false true true fun s pa cached sync =>
      if 16 ≤ s.me.storeQ.length then s.stall
      else .done ((s.onMe fun k => { k with storeQ := k.storeQ ++ [⟨ea.toNat, pa, size, k.g r, cached, sync⟩] }).post
        (.storeQueuePerform s.cur s.who))) s

/-- GSTB (R268). -/
def execGstb (r a : Reg) (o : BitVec 13) (s : State) : Out := gstore 1 r a o s
/-- GSTH (R268). -/
def execGsth (r a : Reg) (o : BitVec 13) (s : State) : Out := gstore 2 r a o s
/-- GSTW (R268). -/
def execGstw (r a : Reg) (o : BitVec 13) (s : State) : Out := gstore 4 r a o s
/-- GSTD (R268). -/
def execGstd (r a : Reg) (o : BitVec 13) (s : State) : Out := gstore 8 r a o s

/-! ### Atomics (R270, R271) -/

/-- Whether an atomic whose operand is `w` writes it (R270). -/
def atomWrites (kind : ReqKind) (w : Nat) (x y : Word) : Bool :=
  match kind with
  | .atomCas => BitVec.ofNat 64 w == y
  | .atomMax => (BitVec.ofNat 64 w).slt x
  | .atomMin => x.slt (BitVec.ofNat 64 w)
  | .fxrd => false
  | _ => true

/-- The operand after an atomic (R270). -/
def atomNew (kind : ReqKind) (w : Nat) (x y : Word) : Nat :=
  match kind with
  | .atomAdd => (BitVec.ofNat 64 w + x).toNat
  | .atomCas => if BitVec.ofNat 64 w = y then x.toNat else w
  | .atomSwap => x.toNat
  | .atomMax => if (BitVec.ofNat 64 w).slt x then x.toNat else w
  | .atomMin => if x.slt (BitVec.ofNat 64 w) then x.toNat else w
  | .fxadd => fxAdd w (x.toNat % 2 ^ 32)
  | _ => w

/-- What an atomic answers: the old operand, or for FXRD its result with NX and NV above it. -/
def atomResult (kind : ReqKind) (w : Nat) (y : Word) : VReg :=
  if kind = .fxrd then
    let (r, nx, nv) := fxRead w (if y = 1 then fp64 else fp32)
    BitVec.ofNat 1024 (r + (if nx then 2 ^ 64 else 0) + (if nv then 2 ^ 65 else 0))
  else BitVec.ofNat 1024 (w % 2 ^ 64)

/-- The operand an atomic finds: dirty bytes of the issuing die's line are written back first (R253). -/
def State.atomPeek (s : State) (t pa size : Nat) : Nat := (s.flushLine (dieOf t) (pa / 128)).memLe pa size

/-- A GATOM (R265, R270, R271): `x` and `y` are its register operands. -/
def State.gatom (s : State) (kind : ReqKind) (a : Reg) (size : Nat) (x y : Word) : Res :=
  let ea := effAddr (s.me.g a) 0
  s.gcheck ea size true (kind != .fxrd) false fun s pa cached sync =>
    let k (s : State) : Res :=
      if inWindow pa || (s.groupAt pa).isSome then .trap .protection (eaWord ea)
      else s.ask ⟨kind, ea.toNat, pa, size, cached, sync, x, y⟩ (.globalAnswerReturn s.cur s.who)
    if atomWrites kind (s.atomPeek s.cur pa size) x y then s.translated ea.toNat true true true fun s _ _ _ => k s
    else k s

/-- An atomic with a result in gd (R270, R393). -/
def gatomTo (kind : ReqKind) (d a b : Reg) (s : State) : Out :=
  plain (fun s => s.exchange (s.gatom kind a 8 (s.me.g b) (s.me.g d))
    (fun _ v => .done (s.putLogged d (v.setWidth 64)))) s

/-- GATOM.ADD (R270). -/
def execGatomAdd (d a b : Reg) (s : State) : Out := gatomTo .atomAdd d a b s
/-- GATOM.CAS (R270). -/
def execGatomCas (d a b : Reg) (s : State) : Out := gatomTo .atomCas d a b s
/-- GATOM.SWAP (R270). -/
def execGatomSwap (d a b : Reg) (s : State) : Out := gatomTo .atomSwap d a b s
/-- GATOM.MAX (R270). -/
def execGatomMax (d a b : Reg) (s : State) : Out := gatomTo .atomMax d a b s
/-- GATOM.MIN (R270). -/
def execGatomMin (d a b : Reg) (s : State) : Out := gatomTo .atomMin d a b s
/-- GATOM.FXADD (R270, R58). -/
def execGatomFxadd (a b : Reg) (s : State) : Out :=
  plain (fun s => s.exchange (s.gatom .fxadd a 16 (s.me.g b) 0) (fun _ _ => .done s)) s
/-- GATOM.FXRD (R270, R59). -/
def execGatomFxrd (d a : Reg) (p : Prec) (s : State) : Out :=
  plain (fun s => s.exchange (s.gatom .fxrd a 16 0 (match p with | .s => 0 | .d => 1))
    (fun _ v =>
      let fl : Fl := { nx := v.getLsbD 64, nv := v.getLsbD 65 }
      .done ((s.raise fl).putLogged d (v.setWidth 64)))) s

/-! ### Sync objects (R258 to R260, R272 to R274) -/

/-- The domain whose sync objects the context names (R272). -/
def State.syncDom (s : State) : Nat := if s.isS then domOf s.me.tg else s.my.dom

/-- An instruction on the sync object that a register names: its number and address (R272). -/
def State.onSync (s : State) (a : Reg) (k : Nat → Nat → Res) : Res :=
  let n := (s.me.g a).toNat
  match s.domain s.syncDom with
  | none => .trap .illegalInstruction (s.me.g a)
  | some d => if n = 0 ∨ d.syncCount < n ∨ 2 ^ 12 ≤ n then .trap .illegalInstruction (s.me.g a) else k n (d.syncBase + 8 * n)

/-- ACQ (R273).  DESIGN CHOICE (log 62): TRAPVA is 0 when the object's target is down, and the object's physical address when it is
poisoned or its access table denies the access (R450); an object has no virtual address. -/
def execAcq (d a b c : Reg) (s : State) : Out :=
  plain (fun s => s.exchange
    (s.onSync a fun n pa => s.ask ⟨.acq, 0, pa, 8, false, n, s.me.g b, s.me.g c⟩ (.globalAnswerReturn s.cur s.who))
    (fun _ v => .done (s.putLogged d (v.setWidth 64)))) s

/-- Step 3 of R259: the dirty bytes of a die's lines of a sync object written back. -/
def State.releaseLines (s : State) (die dom n : Nat) : State :=
  (s.caches.filter fun l => l.die == die && l.dom == dom && l.sync == n).foldl (fun s l => s.writeBack l) s

/-- R260: a die's clean lines of a sync object dropped, the bytes of its dirty lines that are not dirty read again. -/
def State.acquireLines (s : State) (die dom n : Nat) : State :=
  let mine (l : CacheLine) : Bool := l.die == die && l.dom == dom && l.sync == n
  { s with caches := (s.caches.filter fun l => !(mine l && l.dirty == 0)).map fun l => if mine l then s.refreshed l else l }

/-! ### Outstanding asynchronous operations (R259, R261) -/

/-- Whether an operation is one a FENCE.PUT waits for. -/
def ReqOp.isPut : ReqOp → Bool
  | .put => true
  | .putx => true
  | .ratom _ => true
  | _ => false

/-- Whether a context has an operation of a kind whose token is not yet written. -/
def Tile.outstanding (x : Tile) (c : Nat) (f : ReqOp → Bool) : Bool :=
  x.asyncQ.any (fun r => r.ctx == c && f r.op) || x.rmaOps.any (fun o => o.req.ctx == c && f o.req.op)
    || x.rmaDone.any (fun r => r.ctx == c && f r.op)

/-- Whether a SEGO of a context waits at an engine for a slot (R295). -/
def State.segoWaits (s : State) (t c : Nat) : Bool := s.engines.any fun (_, e) => e.waits.any fun w => w.tile == t && w.req.ctx == c

/-- Whether a context has a stream program that has not ended (R259). -/
def State.streaming (s : State) (t c : Nat) : Bool :=
  (s.tile t).asyncQ.any (fun r => r.ctx == c && r.op == .sego)
    || s.segoWaits t c || s.engines.any fun (_, e) => (e.slots ++ e.back).any fun p => p.tile == t && p.req.ctx == c

/-- REL (R259, R274); a tile that replays writes no variable (R394); one that the object's access table denies traps PROTECTION (R450).  DESIGN
CHOICE (log 62): the release store of an object whose target is down is made all the same, since R274 names no trap for it; TRAPVA of a denied
one is the object's physical address. -/
def execRel (a b : Reg) (s : State) : Out :=
  plain (fun s => s.onSync a fun n pa => s.afterStores fun s =>
    if s.my.outstanding s.who ReqOp.isPut || s.streaming s.cur s.who then s.stall
    else if s.denied s.myClass s.syncDom pa (needOf false true false) then .trap .protection (BitVec.ofNat 64 pa)
    else
      let s := s.releaseLines (dieOf s.cur) s.syncDom n
      .done (if s.my.replay then s else s.memSetLe pa 8 (s.me.g b).toNat)) s

/-- FENCE.LOCAL (R261): an operation is accepted once it has left the issue queue, and a SEGO once a slot of its engine is free (R295). -/
def execFenceLocal (s : State) : Out :=
  plain (fun s => if s.my.asyncQ.any (fun r => r.ctx == s.who.val) || s.segoWaits s.cur s.who then s.stall else .done s) s
/-- FENCE.PUT (R261). -/
def execFencePut (s : State) : Out :=
  plain (fun s => if s.my.outstanding s.who ReqOp.isPut then s.stall else .done s) s
/-- FENCE.DIE (R261, R269). -/
def execFenceDie (s : State) : Out := plain (fun s => s.afterStores fun s => .done s) s
/-- The lines that stores of the tile's contexts dirtied, written back if the die's cache still holds them dirty (R261).  DEDUCED (log 61):
those of every context, since R285 has the fence of one activation cover the stores that an earlier one made on another context and ended. -/
def State.writeBackDirtied (s : State) : State :=
  (s.my.ctxs.toList.flatMap (·.dirtied)).foldl
    (fun s line => match s.line? (dieOf s.cur) line with | some l => s.writeBack l | none => s) s
/-- FENCE.MODULE (R261, R269, R285). -/
def execFenceModule (s : State) : Out :=
  plain (fun s => s.afterStores fun s =>
    .done (s.writeBackDirtied.onMy fun x => { x with ctxs := vmap (fun k => { k with dirtied := [] }) x.ctxs })) s

/-! ### Block tables (R277 to R280) -/

/-- A request to the block-table service: the context is PARKED until its answer (R277). -/
def State.askService (s : State) (kind : ReqKind) (a x y : Word) : Res :=
  .wait ((s.onMe fun k => { k with status := .parked, wait := some (.sent ⟨kind, a.toNat, 0, 8, false, 0, x, y⟩) }).post
    (.btServiceAnswer s.cur s.who))

/-- BTLD (R277, R278).  DESIGN CHOICE (log 63): its checks in the order control word, BT address, alignment of DATA, entry. -/
def execBtld (d a b : Reg) (s : State) : Out :=
  plain (fun s => s.exchange
    (let ctl := s.me.g b
     let addr := s.me.g a
     if bits ctl 63 2 ≠ 0 ∨ bits ctl 1 0 = 3 then .trap .illegalInstruction 0
     else match s.btPlace s.my.dom addr with
      | none => .trap .pageFault addr
      | some p =>
        if ctl = 0 then s.ask ⟨.btRead, addr.toNat, p.entry, 8, false, 0, addr, 0⟩ (.globalAnswerReturn s.cur s.who)
        else if ctl = 1 then
          if p.off % 8 ≠ 0 then .trap .misaligned addr
          else s.ask ⟨.btData, addr.toNat, p.entry, 8, false, 0, addr, 0⟩ (.globalAnswerReturn s.cur s.who)
        else s.askService .btWrite addr 0 0)
    (fun _ v => .done (s.putLogged d (v.setWidth 64)))) s

/-- BTSWAP (R277, R279). -/
def execBtswap (d a b : Reg) (s : State) : Out :=
  plain (fun s => s.exchange
    (match s.btPlace s.my.dom (s.me.g a) with
      | none => .trap .pageFault (s.me.g a)
      | some _ => s.askService .btSwap (s.me.g a) (s.me.g d) (s.me.g b))
    (fun _ v => .done (s.putG d (v.setWidth 64)))) s

/-- BTREF (R277, R280).  DESIGN CHOICE (log 63): its control word is checked before its BT address. -/
def execBtref (d a b : Reg) (s : State) : Out :=
  plain (fun s => s.exchange
    (if bits (s.me.g b) 63 5 ≠ 0 ∨ 4 < bits (s.me.g b) 2 0 then .trap .illegalInstruction 0
     else s.askService .btRef (s.me.g a) (s.me.g b) (s.me.g d))
    (fun _ v => .done (s.putG d (v.setWidth 64)))) s

/-! ### What a request comes to -/

/-- Whether a request is a GATOM (R270). -/
def ReqKind.isAtomic : ReqKind → Bool
  | .atomAdd => true
  | .atomCas => true
  | .atomSwap => true
  | .atomMax => true
  | .atomMin => true
  | .fxadd => true
  | .fxrd => true
  | _ => false

/-- Whether the access table at a memory target denies context `c` of tile `t` a read (R450). -/
def State.readDenied (s : State) (t c pa : Nat) : Bool :=
  s.denied (if c = 5 then .firmware else .context) (s.tile t).dom pa (needOf true false false)

/-- A request performed at its memory target or in the die's cache, for tile `t` and context `c` (R253, R260, R266, R270, R273,
R278, R450): the state, and its data or the trap it ends in. -/
def State.performReq (s : State) (t : Nat) (c : Nat) (r : GReq) : State × Except (Cause × Word) VReg :=
  let va := BitVec.ofNat 64 r.va
  match r.kind with
  | .load =>
    let (s, bs, _) := s.globalRead t r.pa r.size r.cached r.sync
    -- bytes of the context's own queued stores come first (R252)
    let covers (q : Store) (i : Nat) : Bool := decide (q.pa ≤ r.pa + i ∧ r.pa + i < q.pa + q.size)
    let own := (s.ctxAt t c).storeQ
    let bs := own.foldl (fun bs q =>
      (List.range r.size).map fun i => if covers q i then BitVec.ofNat 8 (q.val.toNat / 2 ^ (8 * (r.pa + i - q.pa))) else bs.getD i 0) bs
    -- poison counts in the doublewords of which a byte was read (R266, R374)
    let bad := (List.range ((r.size + 7) / 8)).any fun j =>
      !((List.range (min 8 (r.size - 8 * j))).all fun i => own.any (covers · (8 * j + i)))
        && (s.globalRead t (r.pa + 8 * j) (min 8 (r.size - 8 * j)) r.cached r.sync).2.2
    if bad then (s, .error (.uncorrectableData, va)) else (s, .ok (vregOf bs))
  | .acq =>
    let dom := if c = 5 then domOf (s.ctxAt t c).tg else (s.tile t).dom
    if s.denied (if c = 5 then .firmware else .context) dom r.pa (needOf true true false).atTable then
      (s, .error (.protection, BitVec.ofNat 64 r.pa))
    else if s.memPoisoned r.pa 8 then (s, .error (.uncorrectableData, BitVec.ofNat 64 r.pa))
    else
      let w := BitVec.ofNat 64 (s.memLe r.pa 8)
      if w = r.x then
        let s := if r.y = w then s else s.memSetLe r.pa 8 r.y.toNat
        (s.acquireLines (dieOf t) dom r.sync, .ok 1)
      else (s, .ok 0)
  | .btRead =>
    if s.readDenied t c r.pa then (s, .error (.protection, va))
    else if s.memPoisoned r.pa 8 then (s, .error (.uncorrectableData, va)) else (s, .ok (BitVec.ofNat 1024 (s.memLe r.pa 8)))
  | .btData =>
    let e := s.entryAt r.pa
    let at' := entryFrame e * 4096 + bits r.x 15 0
    if s.readDenied t c r.pa then (s, .error (.protection, va))
    else if s.memPoisoned r.pa 8 then (s, .error (.uncorrectableData, va))
    else if !entryOk e then (s, .error (.pageFault, va))
    else if s.readDenied t c at' then (s, .error (.protection, va))
    else if s.memPoisoned at' 8 then (s, .error (.uncorrectableData, va))
    else (s, .ok (BitVec.ofNat 1024 (s.memLe at' 8)))
  | kind =>
    let s := s.flushLine (dieOf t) (r.pa / 128)
    if s.memPoisoned r.pa r.size then (s, .error (.uncorrectableData, va))
    else
      let w := s.memLe r.pa r.size
      let s := if atomWrites kind w r.x r.y then s.memSetLe r.pa r.size (atomNew kind w r.x r.y) else s
      (s, .ok (atomResult kind w r.y))

/-- Whether a request writes a page that is now read-duplicated or copy on write (R230, R231): it is then made again. -/
def State.mustRetry (s : State) (t : Nat) (r : GReq) : Bool :=
  match r.kind with
  | .load => false
  | .acq => false
  | .btRead => false
  | .btData => false
  | kind => atomWrites kind (s.atomPeek t r.pa r.size) r.x r.y &&
      match (s.tile t).tlbFind r.va with | some e => pteBit e.pte 4 || pteBit e.pte 5 | none => false

/-- A request of the block-table service (R277): BTLD with WRITE, BTSWAP or BTREF. -/
def State.serve (s : State) (dom : Nat) (r : GReq) : BtAnswer :=
  let a := BitVec.ofNat 64 r.va
  match r.kind with
  | .btWrite => s.btWrite dom a
  | .btSwap => s.btSwap dom a r.x r.y
  | _ => s.btRef dom a r.x r.y

end Sys2Proof.Machine
end

