-- ==== Sys2Proof/Machine/Service.lean ====
section
/-! DEFINITION. The cluster translation service (09: R226 to R231, R245) and what it sends: fills, faults, the collapse of a
read-duplicated page and the copy of a copy-on-write page; and translation for the engines (R297, R304, R329, R349). -/

namespace Sys2Proof.Machine

/-! ### What the service answers (R228, R245) -/

/-- The edge die whose copy of a read-duplicated page a tile reads (R229). -/
def nearestEdge (t : Nat) : Nat :=
  (if colOfDie (dieOf t) < 3 then 24 else 26) + (if rowOf (dieOf t) < 2 then 0 else 1)

/-- Bytes of a leaf's page (R222). -/
def leafSize (level : Nat) : Nat := if level = 2 then 2 ^ 28 else 65536

/-- First 64 KB page of the page a leaf maps at an address. -/
def leafVpn (level va : Nat) : Nat := if level = 2 then va / 2 ^ 28 * 4096 else va / 65536

/-- The read-duplicated page at an address of a domain (R229). -/
def Domain.dupAt (d : Domain) (vpn : Nat) : Option DupPage := d.dups.find? (·.vpn == vpn)

/-- A leaf PTE that names a copy of a read-duplicated page, which lies in one stack (R220, R229). -/
def copyPte (pte : Word) (c : Nat × Nat) : Word := setBits (setBits pte 51 16 c.1) 12 8 (16 + c.2 % 16)

/-- The entry a fill carries for tile `t` (R226, R229): of a read-duplicated page, the nearest copy. -/
def fillEntry (t : Nat) (d : Domain) (level va : Nat) (pte : Word) : TlbEntry :=
  let vpn := leafVpn level va
  let pte := match if pteBit pte 4 then d.dupAt vpn else none with
    | some p => match p.copies[nearestEdge t - 24]? with | some c => copyPte pte c | none => pte
    | none => pte
  ⟨0, d.dom, vpn, level == 2, 0, pte⟩

/-- What the service makes of a translation (R228, R230, R231, R245). -/
inductive Served
  | fill (e : TlbEntry)
  | fault (prot : Bool)
  | gone
  | collapse
  | copy
  deriving DecidableEq, Repr

/-- Whether tile `t` holds a stale entry for an address that allows the access: what the service does is then a re-validation (checks 4 and 5 of
R265, R245). -/
def State.revalidates (s : State) (t va : Nat) (need : Rights) : Bool :=
  match (s.tile t).tlbFind va with | some e => s.stale t e va && s.allows e need | none => false

/-- The target of the frame an entry names for an address. -/
def State.entryTarget (s : State) (e : TlbEntry) (va : Nat) : Option MemTarget := s.memTarget e.dom (s.entryAddr e va)

/-- The walk of R222 for an access of tile `t` and what it comes to; `write` tells a write.  A fill carries the link-up count of its target. -/
def State.walked (s : State) (t va : Nat) (write : Bool) : Served :=
  match s.domain (s.tile t).dom with
  | none => .fault false
  | some d =>
    match s.walk d.root va with
    | none => .fault false
    | some (level, _, pte) =>
      if write && pteBit pte 4 then
        if ((d.dupAt (leafVpn level va)).map (·.w)).getD (pteBit pte 2) then .collapse else .fault true
      else if write && pteBit pte 5 then .copy
      else
        let e := fillEntry t d level va pte
        match s.entryTarget e va with
        | none => .fill e
        | some g => .fill { e with luc := upCount s.linkCount g.link % 256 }

/-- What the service answers a request of tile `t`: a re-validation ends TARGET_GONE where its walk fails or the target is down (R245); another
request is filled whether its target is up or not, and the access is checked again (R265). -/
def State.served (s : State) (t va : Nat) (need : Rights) (write : Bool) : Served :=
  if !s.revalidates t va need then s.walked t va write
  else match s.walked t va write with
    | .fault _ => .gone
    | .fill e => if (s.entryTarget e va).any (s.isDown t ·) then .gone else .fill e
    | a => a

/-! ### Waking parked contexts (R228) -/

/-- A context parked on an address of a set. -/
def Ctx.parkedIn (k : Ctx) (f : Nat → Bool) : Bool :=
  k.status == .parked && match k.parkedVa with | some a => f a | none => false

/-- A parked context RUNNING again, to make its access or its fetch again; `fresh` and `shared` tell whether an entry was filled, and whether
its page is DUP or COW: for a write such an entry is no fill (R226, R228, R230). -/
def Ctx.awake (k : Ctx) (fresh shared : Bool) : Ctx :=
  { k with
    status := .running
    parkedVa := none
    parkedNeed := needOf false false false
    parkedWrite := false
    refilled := fresh && k.word.isSome && !(k.parkedWrite && shared)
    refetched := fresh && k.word.isNone
    word := none }

/-- Every context of a tile that is parked on an address of a set makes its access again (R228). -/
def Tile.wake (x : Tile) (f : Nat → Bool) (fresh shared : Bool) : Tile :=
  { x with ctxs := vmap (fun k => if k.parkedIn f then k.awake fresh shared else k) x.ctxs }

/-- A fill installed (R228, R400): the contexts parked on its page run again. -/
def Tile.takeFill (x : Tile) (e : TlbEntry) : Tile := (x.installTlb e).wake e.maps true (pteBit e.pte 4 || pteBit e.pte 5)

/-- The 128 bits of an entry (R226). -/
def TlbEntry.word (e : TlbEntry) : BitVec 128 := e.hi ++ e.pte

/-! ### Collapse and copy (R230, R231) -/

/-- Whether a request was made through the TLB. -/
def ReqKind.usesTlb : ReqKind → Bool
  | .load => true
  | .atomAdd => true
  | .atomCas => true
  | .atomSwap => true
  | .atomMax => true
  | .atomMin => true
  | .fxadd => true
  | .fxrd => true
  | _ => false

/-- Whether a context has an access in flight to an address of a set. -/
def Ctx.inFlight (k : Ctx) (f : Nat → Bool) : Bool :=
  k.storeQ.any (fun q => f q.va) || match k.wait with
    | some (.sent r) => r.kind.usesTlb && f r.va
    | _ => false

/-- Whether a tile of a domain has an access in flight to a page, or a SAC operation whose writes are still to be made. -/
def State.pageBusy (s : State) (d : Domain) (f : Nat → Bool) : Bool :=
  d.tiles.any fun t => (s.tile t).sac.isSome || (s.tile t).ctxs.toList.any (·.inFlight f)


/-- Every TLB entry of a domain's tiles that maps an address removed (R230 step 1), and every fill of one under way: it is asked for
again, for the contexts that wait for it, and then names what the page table says after the change. -/
def State.invalidate (s : State) (d : Domain) (va : Nat) : State :=
  let hit (w : BitVec 128) : Bool := (entryOf w).dom == d.dom && (entryOf w).maps va
  let lost (e : Event) : Bool := match e with | .tlbFill t w => d.tiles.contains t && hit w | _ => false
  let again := s.later.filter lost
  let s := d.tiles.foldl (fun s t => s.onTile t fun x => { x with
    tlb := x.tlb.filter fun e => !(e.dom == d.dom && e.maps va)
    svc := x.svc.filter fun i => match i with | .fill w => !hit w | _ => true }) (s.dropEvents lost)
  again.foldl (fun s e => match e with
    | .tlbFill t w => (List.range 6).foldl (fun s c =>
        if (s.ctxAt t c).parkedIn (entryOf w).maps then s.postOnce (.translationRequest t c) else s) s
    | _ => s) s

/-- Frames of 64 KB returned to the domain's pool of their tier. -/
def Domain.freeFrames (d : Domain) (l : List Nat) : Domain :=
  { d with freeHbm := d.freeHbm ++ l.filter (fun f => decide (f * 65536 < 2 ^ 40))
           freeLpddr := d.freeLpddr ++ l.filter (fun f => !decide (f * 65536 < 2 ^ 40)) }

/-- A read-duplicated page collapsed (R230 steps 1 to 3): the entries and cached lines of its other copies go, the PTE takes
DUP = 0 and W as the region declares, and the other copies are freed. -/
def State.collapse (s : State) (d : Domain) (va level addr : Nat) (pte : Word) : State :=
  let vpn := leafVpn level va
  let w := ((d.dupAt vpn).map (·.w)).getD (pteBit pte 2)
  let others := (((d.dupAt vpn).map (·.copies)).getD []).filter (·.1 != ptePfn pte)
  let span := leafSize level / 65536 * s.stackList.length
  let s := s.invalidate d va
  let s := others.foldl (fun s (c : Nat × Nat) => s.flushPages (copyPte pte c) (leafSize level)) s
  let s := s.memSetLe addr 8 (setBits (setBits pte 4 4 0) 2 2 (bitN w)).toNat
  s.onDomain d.dom fun d =>
    { d with dups := d.dups.filter (·.vpn != vpn) }.freeFrames
      (others.flatMap fun (c : Nat × Nat) => (List.range span).map (c.1 + ·))

/-- Whether a leaf of a table, or of one below it, names a 64 KB frame. -/
def State.tableNames (s : State) (frame : Nat) : Nat → Nat → Nat → Bool
  | 0, _, _ => false
  | n + 1, level, table => (List.range 4096).any fun i =>
      let pte := BitVec.ofNat 64 (s.memLe (table + 8 * i) 8)
      s.pteOk level pte &&
        (if pteBit pte 7 then (if level = 2 then ptePfn pte / 4096 == frame / 4096 else ptePfn pte == frame)
         else s.tableNames frame n (level + 1) (ptePfn pte * 65536))

/-- Whether any page table of the module names a frame. -/
def State.frameNamed (s : State) (frame : Nat) : Bool := s.domains.any fun d => s.tableNames frame 3 1 d.root

/-- A copy-on-write page copied, with the code placed in it, which a fetch goes on to read (R22, R231): none when the pool of its tier is
empty. -/
def State.cowPage (s : State) (d : Domain) (va addr : Nat) (pte : Word) : Option State :=
  let old := ptePfn pte
  let hbm := decide (old * 65536 < 2 ^ 40)
  match if hbm then d.freeHbm else d.freeLpddr with
  | [] => none
  | f :: rest =>
    let s := s.onDomain d.dom fun d => if hbm then { d with freeHbm := rest } else { d with freeLpddr := rest }
    let s := s.invalidate d va
    let s := s.flushPages pte 65536
    let s := (List.range 16).foldl (fun s i => s.copyMem (s.pageAddr pte (4096 * i)) (f * 65536 + 4096 * i) 4096) s
    let new := setBits (setBits (setBits (setBits (setBits pte 51 16 f) 12 12 0) 11 8 0) 5 5 0) 2 2 1
    let s := s.memSetLe addr 8 new.toNat
    let s := { s with code := (List.range 16).foldl (fun (c : Cells) i =>
      c.setList (f * 65536 + 4096 * i) (s.code.getList (s.pageAddr pte (4096 * i)) 4096)) s.code }
    some (if s.frameNamed old then s else s.onDomain d.dom (·.freeFrames [old]))

/-! ### The service's steps -/

/-- The address a context is parked on. -/
def State.parkedAt (s : State) (t c : Nat) : Option Nat :=
  if (s.ctxAt t c).status = .parked then (s.ctxAt t c).parkedVa else none

/-- TRANSLATION_REQUEST (R227, R228, R245): the service of the tile's cluster answers; a request of a context that is no longer parked, or that
has joined one whose fill is on its way, has no effect, and one waits while no tile of the cluster can run the service. -/
def execTranslationRequest (t c : Nat) (s : State) : Out :=
  .next (match s.parkedAt t c with
    | none => s
    | some va =>
      if s.fillComes t va then s
      else if s.gone (s.serviceTile t) then s.post (.translationRequest t c)
      else match s.served t va (s.ctxAt t c).parkedNeed (s.ctxAt t c).parkedWrite with
      | .fill e => s.post (.tlbFill t e.word)
      | .fault prot => s.post (.tlbFaultAnswer t (BitVec.ofNat 64 va) prot)
      | .gone => s.takeTrap t c .targetGone (BitVec.ofNat 64 va) (s.ctxAt t c).trapIw
      | .collapse => s.post (.dupCollapse t c)
      | .copy => s.post (.copyOnWrite t c))

/-- TLB_FILL (R159, R228, R400): a fill enters the service buffer when an entry is free and wakes S, which installs it; one for a domain no
longer bound is discarded. -/
def execTlbFill (t : Nat) (entry : BitVec 128) (s : State) : Out :=
  .next (if (entryOf entry).dom ≠ (s.tile t).dom then s.onTile t (·.served (.fill entry))
    else if (s.tile t).svc.contains (.fill entry) then s.onTile t fun x => (x.served (.fill entry)).takeFill (entryOf entry)
    else (s.onTile t (·.serve (.fill entry))).post (.tlbFill t entry))

/-- TLB_FAULT_ANSWER (R228, R230): the contexts parked on the page trap, PROTECTION only those that write; the others run again. -/
def execTlbFaultAnswer (t : Nat) (va : Word) (prot : Bool) (s : State) : Out :=
  let page (a : Nat) : Bool := a / 65536 == va.toNat / 65536
  let hit := (List.range 6).filter fun c => ((s.ctxAt t c).parkedIn page) && (!prot || (s.ctxAt t c).parkedWrite)
  let s := hit.foldl (fun s c =>
    s.takeTrap t c (if prot then .protection else .pageFault) (BitVec.ofNat 64 ((s.ctxAt t c).parkedVa.getD 0)) (s.ctxAt t c).trapIw) s
  .next (s.onTile t (·.wake page false false))

/-- The leaf an access meets, with its domain. -/
def State.leafAt (s : State) (t va : Nat) : Option (Domain × Nat × Nat × Word) :=
  match s.domain (s.tile t).dom with
  | none => none
  | some d => (s.walk d.root va).map fun (l, a, p) => (d, l, a, p)

/-- DUP_COLLAPSE (R230): held while an access to the page is in flight; the writer is then filled. -/
def execDupCollapse (t c : Nat) (s : State) : Out :=
  .next (match s.parkedAt t c with
    | none => s
    | some va => match s.leafAt t va with
      | none => s.post (.translationRequest t c)
      | some (d, level, addr, pte) =>
        if !pteBit pte 4 then s.post (.translationRequest t c)
        else if s.pageBusy d fun a => leafVpn level a == leafVpn level va then s.post (.dupCollapse t c)
        else (s.collapse d va level addr pte).post (.translationRequest t c))

/-- COPY_ON_WRITE (R231): an exhausted pool makes the write trap PAGE_FAULT. -/
def execCopyOnWrite (t c : Nat) (s : State) : Out :=
  .next (match s.parkedAt t c with
    | none => s
    | some va => match s.leafAt t va with
      | none => s.post (.translationRequest t c)
      | some (d, _, addr, pte) =>
        if !pteBit pte 5 then s.post (.translationRequest t c)
        else if s.pageBusy d fun a => a / 65536 == va / 65536 then s.post (.copyOnWrite t c)
        else match s.cowPage d va addr pte with
          | none => s.takeTrap t c .pageFault (BitVec.ofNat 64 va) (s.ctxAt t c).trapIw
          | some s' => s'.post (.translationRequest t c))

/-! ### Engines (R297, R304, R329, R349) -/

/-- What an engine's translation comes to: an address, a token code, or a hold. -/
inductive EngAddr
  | at (pa : Nat)
  | code (n : Nat)
  | hold
  deriving DecidableEq, Repr

/-- What an entry comes to for an engine of tile `t` that stands at `src` (R225, R245, R304, R450). -/
def State.engineEntry (s : State) (src t va : Nat) (r w : Bool) (e : TlbEntry) : EngAddr :=
  let dom := (s.tile t).dom
  let pa := s.entryAddr e va
  if (r && !pteBit e.pte 1) || (w && !pteBit e.pte 2) then .code 4
  else match s.memTarget dom pa with
    | none => .code 4
    | some g => if s.isDown src g then .code 6 else if s.denied .engine dom pa (needOf r w false).atTable then .code 4 else .at pa

/-- What a translation by the service comes to for an engine that stands at `src`, with the collapse or copy its write asks for made. -/
def State.engineWalk (s : State) (src t va : Nat) (r w write : Bool) : State × EngAddr :=
  let final (s : State) (e : TlbEntry) : State × EngAddr := (s, s.engineEntry src t va r w e)
  let again (s : State) : State × EngAddr := match s.walked t va write with
    | .fill e => final s e
    | _ => (s, .code 4)
  match s.walked t va write, s.leafAt t va with
  | .collapse, some (d, level, addr, pte) =>
    if s.pageBusy d fun a => leafVpn level a == leafVpn level va then (s, .hold) else again (s.collapse d va level addr pte)
  | .copy, some (d, _, addr, pte) =>
    if s.pageBusy d fun a => a / 65536 == va / 65536 then (s, .hold)
    else match s.cowPage d va addr pte with
      | none => (s, .code 4)
      | some s => again s
  | .fill e, _ => final s e
  | _, _ => (s, .code 4)

/-- The fill that a request of tile `t` is answered with sent, if its walk gives one (R228). -/
def State.sendFill (s : State) (t va : Nat) (write : Bool) : State :=
  match s.walked t va write with
  | .fill e => s.post (.tlbFill t e.word)
  | _ => s

/-- A miss of a tile's engines: EVC13 counts it unless a request for the page is outstanding (R227), and the operation waits for the fill that
S installs (R159, R226, R400); the fill of a page that denies it is installed as well. -/
def State.walkMiss (s : State) (t va : Nat) (r w write : Bool) : State × EngAddr :=
  if s.fillComes t va then (s, .hold)
  else match (if s.parkedOn t va then s else s.onTile t (·.bumpEvc 13 1)).engineWalk t t va r w write with
    | (s', .at _) => match s'.walked t va write with
      | .fill e => (s'.post (.tlbFill t e.word), .hold)
      | _ => (s', .code 4)
    | (_, .hold) => (s, .hold)
    | (s', .code n) => (s'.sendFill t va write, .code n)

/-- Translation of an address of tile `t` by its RMA engine or SAC unit (R226, R329, R349): by the tile's TLB, and on a miss by
the service, whose entry the TLB then holds.  DESIGN CHOICE (log 65): an entry that is stale ends the access TARGET_GONE (R245) also where it
denies it, or is DUP or COW and written. -/
def State.tileAddr (s : State) (t va : Nat) (r w write : Bool) : State × EngAddr :=
  if 2 ^ 52 ≤ va then (s, .code 4)
  else match s.access .engine t false va r w false write with
    | .ok pa _ _ => (s.touched t va, .at pa)
    | .trap _ => (s, .code 4)
    | .miss =>
      match (s.tile t).tlbFind va with
      | some e =>
        if s.stale t e va then (s, .code 6) else s.walkMiss t va r w write
      | none => s.walkMiss t va r w write

end Sys2Proof.Machine
end

