-- ==== Sys2Proof/Machine/Engine.lean ====
section
/-! DEFINITION. The engine instructions (14: R326 to R352), pane ownership (09: R232 to R234), tokens (13: R287 to R289) and
the checks of a memory port (R292). -/

namespace Sys2Proof.Machine

/-! ### Panes (R232, R233) -/

/-- Pane `p` of a tile. -/
def Tile.pane (x : Tile) (p : Nat) : Pane := vget x.panes p ⟨.firmware, false, 0, 0⟩

/-- A tile with a pane changed. -/
def Tile.onPane (x : Tile) (p : Nat) (f : Pane → Pane) : Tile := { x with panes := vset x.panes p (f (x.pane p)) }

/-- Whether a pane is in state CORE. -/
def Pane.isCore (p : Pane) : Bool := p.owner == .core && !p.releasing

/-- Whether a pane is CLAIMED or RELEASING. -/
def Pane.isClaimed (p : Pane) : Bool := p.owner == .mm || p.owner == .rma || p.owner == .sac

/-- A RELEASING pane that no operation holds becomes CORE; at level FULL the contents of one that RMA claimed are logged
(R393), and a tile that replays takes them from its log (R394). -/
def State.settlePane (s : State) (t p : Nat) : State :=
  let x := s.tile t
  let q := x.pane p
  if q.releasing ∧ q.holds = 0 then
    let s := s.onTile t (·.onPane p fun _ => ⟨.core, false, x.dom, 0⟩)
    if q.owner ≠ .rma then s
    else match x.replay, x.feed with
      | true, bs :: rest => s.onTile t fun y => { y.spPut (4096 * p) bs with feed := rest }
      | _, _ => s.logInput t (x.sp.getList (4096 * p) 4096)
  else s

/-- The panes that byte ranges touch. -/
def panesOf (l : List (Nat × Nat)) : List Nat :=
  (l.flatMap fun (a, n) => if n = 0 then [] else (List.range ((a + n - 1) / 4096 + 1 - a / 4096)).map (a / 4096 + ·)).eraseDups

/-- Checks 2 to 4 of R292 for an operation of a domain on byte ranges of a tile, with the token code of the first that fails. -/
def State.portCheck (s : State) (t dom : Nat) (owner : Owner) (l : List (Nat × Nat)) : Option Nat :=
  let ps := (panesOf l).map (s.tile t).pane
  if l.any (fun (a, n) => decide (0x7C000 < a + n)) then some 3
  else if ps.any (fun p => p.dom != dom) then some 2
  else if ps.any (fun p => p.owner != owner || p.releasing) then some 1
  else none

/-- EVC12 of a tile counts a failure of check 3 or 4 (R233). -/
def State.countDenied (s : State) (t : Nat) (code : Nat) : State :=
  if code = 1 ∨ code = 2 then s.onTile t (·.bumpEvc 12 1) else s

/-- Panes held by an accepted operation (R233). -/
def State.hold (s : State) (l : List (Nat × Nat)) : State :=
  l.foldl (fun s (t, p) => s.onTile t (·.onPane p fun q => { q with holds := q.holds + 1 })) s

/-- Panes let go when the operation's token is written. -/
def State.unhold (s : State) (l : List (Nat × Nat)) : State :=
  l.foldl (fun s (t, p) => (s.onTile t (·.onPane p fun q => { q with holds := q.holds - 1 })).settlePane t p) s

/-! ### Tokens (R287) -/

/-- Whether a context waits for a token register. -/
def Ctx.awaits (k : Ctx) (tok : Reg) : Bool := k.pend.any fun p => p.dst == .g tok && p.val.isNone

/-- A token written: the register takes the code and is pending no more. -/
def Ctx.token (k : Ctx) (tok : Reg) (code : Nat) : Ctx :=
  if k.awaits tok then
    Ctx.released { k.setG tok (BitVec.ofNat 64 code) with pend := k.pend.filter fun p => !(p.dst == .g tok && p.val.isNone) }
  else k

/-- An engine writes the token of an operation; an operation whose activation is gone names context 7. -/
def State.writeToken (s : State) (t c : Nat) (tok : Reg) (code : Nat) : State := s.onCtx t c (·.token tok code)

/-! ### Issue (R289, R327, R328) -/

/-- An asynchronous request of the issuing context. -/
def State.asyncReq (s : State) (op : ReqOp) (d : Reg) (x y z : Word) (p : Option (BitVec 26)) : AsyncReq :=
  ⟨op, s.who.val, d, domOf s.sentTag, s.me.colour, x, y, z, p⟩

/-- A request enters the issue queue, its token register pending; the context is STALLED while the queue is full. -/
def State.issueAsync (s : State) (r : AsyncReq) (engine : Event) : Res :=
  if 16 ≤ s.my.asyncQ.length then s.stall
  else .done (((s.onMe fun k => { k with pend := k.pend ++ [⟨.g r.tok, none, 0⟩] }).onMy fun x => { x with asyncQ := x.asyncQ ++ [r] }).post engine)

/-- The form of a remote word (R329): with G = 1 it is a virtual address. -/
def remoteOk (w : Word) (g cnt : Bool) : Bool := g || (bits w 39 38 == 0 && bits w 31 19 == 0 && (cnt || bits w 37 32 == 0))

/-- The remote address whose alignment counts: the virtual address or OFF. -/
def remoteAddr (w : Word) (g : Bool) : Nat := if g then w.toNat else bits w 18 0

/-- GET and PUT (R329, R330). -/
def rmaCopy (op : ReqOp) (put : Bool) (d a b c : Reg) (s : State) : Out :=
  plain (fun s =>
    let ra := s.me.g a
    let lo := s.me.g b
    let n := s.me.g c
    let g := lo.getLsbD 63
    if d = 0 then .trap .illegalInstruction 0
    else if bits lo 62 19 ≠ 0 then .trap .illegalInstruction lo
    else if !remoteOk ra g put then .trap .illegalInstruction ra
    else if n.toNat % 8 ≠ 0 ∨ n.toNat < 8 ∨ 65536 < n.toNat then .trap .illegalInstruction n
    else if bits lo 18 0 % 8 ≠ 0 then .trap .misaligned (BitVec.ofNat 64 (bits lo 18 0))
    else if remoteAddr ra g % 8 ≠ 0 then .trap .misaligned (BitVec.ofNat 64 (remoteAddr ra g))
    else s.issueAsync (s.asyncReq op d ra lo n none) (.rmaPortOperation s.cur)) s

/-- GET (R330). -/
def execGet (t a b c : Reg) (s : State) : Out := rmaCopy .get false t a b c s
/-- PUT (R330). -/
def execPut (t a b c : Reg) (s : State) : Out := rmaCopy .put true t a b c s

/-- E of a list word (R331). -/
def listEsz (w : Word) : Nat := 2 ^ (bits w 50 48 + 3)
/-- N of a list word. -/
def listN (w : Word) : Nat := bits w 44 32
/-- LIST of a list word. -/
def listAt (w : Word) : Nat := bits w 18 0

/-- GETX and PUTX (R331).  DESIGN CHOICE (log 63): a list of 4 or 8 bytes is checked for its alignment before its bounds, as a longer one (R18). -/
def rmaIndexed (op : ReqOp) (put : Bool) (d a b c : Reg) (s : State) : Out :=
  plain (fun s =>
    let ra := s.me.g a
    let lo := s.me.g b
    let w := s.me.g c
    let g := lo.getLsbD 63
    if d = 0 then .trap .illegalInstruction 0
    else if bits lo 62 19 ≠ 0 then .trap .illegalInstruction lo
    else if !remoteOk ra g put then .trap .illegalInstruction ra
    else if bits w 63 51 ≠ 0 ∨ bits w 47 45 ≠ 0 ∨ bits w 31 19 ≠ 0 ∨ listN w = 0 ∨ 4096 < listN w then .trap .illegalInstruction w
    else if bits lo 18 0 % 8 ≠ 0 then .trap .misaligned (BitVec.ofNat 64 (bits lo 18 0))
    else if remoteAddr ra g % listEsz w ≠ 0 then .trap .misaligned (BitVec.ofNat 64 (remoteAddr ra g))
    else match s.spCheckRange (listAt w) (4 * listN w) 4 with
      | some (c, va) => .trap c va
      | none => s.issueAsync (s.asyncReq op d ra lo w none) (.rmaPortOperation s.cur)) s

/-- GETX (R331). -/
def execGetx (t a b c : Reg) (s : State) : Out := rmaIndexed .getx false t a b c s
/-- PUTX (R331). -/
def execPutx (t a b c : Reg) (s : State) : Out := rmaIndexed .putx true t a b c s

/-- Size of the target operand of a RATOM (R332). -/
def ratomSize (op : Nat) : Nat := if op = 7 then 1 else if op = 5 ∨ op = 6 then 16 else 8
/-- SRC of an operand word. -/
def ratomSrc (w : Word) : Nat := bits w 50 32
/-- DST of an operand word. -/
def ratomDst (w : Word) : Nat := bits w 18 0
/-- RES of an operand word. -/
def ratomRes (w : Word) : Bool := w.getLsbD 62

/-- RATOM (R332).  DESIGN CHOICE (log 63): R18 has bounds before alignment for up to 8 bytes and names the record among what is checked MISALIGNED
first; the record of 8 bytes is checked so, too. -/
def ratom (op : Nat) (d a b : Reg) (s : State) : Out :=
  plain (fun s =>
    let ra := s.me.g a
    let w := s.me.g b
    let g := w.getLsbD 63
    if d = 0 then .trap .illegalInstruction 0
    else if bits w 61 51 ≠ 0 ∨ bits w 31 19 ≠ 0 ∨ (op = 5 ∧ ratomRes w = true) then .trap .illegalInstruction w
    else if !remoteOk ra g false then .trap .illegalInstruction ra
    else if ratomRes w = true ∧ ratomDst w % 8 ≠ 0 then .trap .misaligned (BitVec.ofNat 64 (ratomDst w))
    else if remoteAddr ra g % ratomSize op ≠ 0 then .trap .misaligned (BitVec.ofNat 64 (remoteAddr ra g))
    else match s.spCheckRange (ratomSrc w) (if op = 1 then 16 else 8) 8 with
      | some (c, va) => .trap c va
      | none => s.issueAsync (s.asyncReq (.ratom op) d ra w 0 none) (.rmaPortOperation s.cur)) s

/-- RATOM.ADD (R332). -/
def execRatomAdd (t a b : Reg) (s : State) : Out := ratom 0 t a b s
/-- RATOM.CAS (R332). -/
def execRatomCas (t a b : Reg) (s : State) : Out := ratom 1 t a b s
/-- RATOM.SWAP (R332). -/
def execRatomSwap (t a b : Reg) (s : State) : Out := ratom 2 t a b s
/-- RATOM.MAX (R332). -/
def execRatomMax (t a b : Reg) (s : State) : Out := ratom 3 t a b s
/-- RATOM.MIN (R332). -/
def execRatomMin (t a b : Reg) (s : State) : Out := ratom 4 t a b s
/-- RATOM.FXADD (R332). -/
def execRatomFxadd (t a b : Reg) (s : State) : Out := ratom 5 t a b s
/-- RATOM.FXRD (R332). -/
def execRatomFxrd (t a b : Reg) (s : State) : Out := ratom 6 t a b s
/-- RATOM.SUBST (R332). -/
def execRatomSubst (t a b : Reg) (s : State) : Out := ratom 7 t a b s

/-! ### Pane ownership (R333 to R336) -/

/-- FIRST and COUNT of a range word. -/
def rangePanes (w : Word) : List Nat := (List.range (bits w 14 8)).map (bits w 6 0 + ·)

/-- The checks of a range word (R333). -/
def State.rangeCheck (s : State) (w : Word) : Option (Cause × Word) :=
  let first := bits w 6 0
  let count := bits w 14 8
  if bits w 63 15 ≠ 0 ∨ w.getLsbD 7 = true ∨ count = 0 ∨ 128 < first + count then some (.illegalInstruction, w)
  else if !s.isS ∧ 124 < first + count then some (.scratchBounds, BitVec.ofNat 64 (4096 * max first 124))
  else none

/-- The owner a GIVE names (R326). -/
def giveOwner (o : Nat) : Option Owner := match o with | 1 => some .mm | 2 => some .rma | 3 => some .sac | _ => none

/-- GIVE (R334): scratchpad accesses are performed as they issue (R248), so no earlier one is waited for. -/
def execGive (a : Reg) (o : BitVec 5) (s : State) : Out :=
  plain (fun s =>
    let w := s.me.g a
    match giveOwner o.toNat with
    | none => .trap .illegalInstruction 0
    | some owner => match s.rangeCheck w with
      | some (c, va) => .trap c va
      | none =>
        match (rangePanes w).find? fun p => p == 0 || !(s.my.pane p).isCore with
        | some p => .trap .paneOwnership (BitVec.ofNat 64 (4096 * p))
        | none => .done (s.drained.onMy fun x =>
            (rangePanes w).foldl (fun x p => x.onPane p fun _ => ⟨owner, false, domOf s.sentTag, 0⟩) x)) s

/-- TAKE (R335): step 2 is made when it first issues. -/
def execTake (a : Reg) (s : State) : Out :=
  plain (fun s =>
    let w := s.me.g a
    let finish (s : State) : Res :=
      if (rangePanes w).all (fun p => (s.my.pane p).isCore) then .done s
      else .wait (s.onMe fun k => { k with status := .stalled, wait := some (.answered ⟨.take, 0, 0, 0, false, 0, w, 0⟩ 0) })
    match s.me.wait with
    | some _ => finish s
    | none =>
      match s.rangeCheck w with
      | some (c, va) => .trap c va
      | none =>
        match (rangePanes w).find? fun p => p == 0 || (s.my.pane p).owner == .ni || (s.my.pane p).owner == .firmware with
        | some p => .trap .paneOwnership (BitVec.ofNat 64 (4096 * p))
        | none => finish ((rangePanes w).foldl (fun s p =>
            (s.onMy (·.onPane p fun q => if q.isClaimed then { q with releasing := true } else q)).settlePane s.cur p) s)) s

/-- TTEST (R336). -/
def execTtest (d a : Reg) (s : State) : Out :=
  plain (fun s =>
    let w := if s.me.pending (.g a) then BitVec.allOnes 64 else s.me.g a
    .done (s.putLogged d w)) s

/-! ### Marimba and slot tables (R338, R339, R343) -/

/-- Whether a scale mode goes with a format code (R49). -/
def scaleOk (mode code : Nat) : Bool :=
  match mode with
  | 0 => true
  | 1 => decide (3 ≤ code ∧ code ≤ 9)
  | 2 => decide (1 ≤ code ∧ code ≤ 9)
  | _ => decide (12 ≤ code ∧ code ≤ 14)

/-- The prefix of an MMRUN, if it has none of the faults that trap (R339).  DESIGN CHOICE (log 58): formats outside R307 are no such fault; the
run is refused with FAULT at its acceptance (R342), as a SACP's formats outside R321 are (R351). -/
def mmPrefixOk (p : Option (BitVec 26)) : Bool :=
  match p with
  | none => true
  | some w =>
    let f := pfxOf w
    (f.c == 0 || f.c == 3 || f.c == 4) && f.delta == 0 && decide (f.rnd ≤ 5) && scaleOk f.scale f.a && scaleOk f.scale f.b

/-- The payload of the prefix an instruction consumes. -/
def Ctx.pfxWord (k : Ctx) : Option (BitVec 26) := if k.pendBit then some k.pfx else none

/-- MMRUN (R339). -/
def execMmrun (t a b : Reg) (s : State) : Out :=
  prefixed (fun s =>
    let p := s.me.pfxWord
    if t = 0 then .trap .illegalInstruction 0
    else if !mmPrefixOk p then .trap .illegalPrefix 0
    else match s.spCheckRange (effAddr (s.me.g a) 0) 64 64 with
      | some (c, va) => .trap c va
      | none => s.issueAsync (s.asyncReq .mmrun t (s.me.g a) (s.me.g b) 0 p) (.mmrunAccept s.cur)) s

/-- The word MMSTAT writes (R343). -/
def Tile.mmWord (x : Tile) : Word :=
  BitVec.ofNat 64 ((match x.running with | some r => r.prog | none => x.prog) % 65536 * 2 ^ 32 + x.last % 256 * 2 ^ 16
    + bitN x.queued.isSome * 2 + bitN x.running.isSome)

/-- MMSTAT (R343). -/
def execMmstat (d : Reg) (s : State) : Out := plain (fun s => .done (s.putLogged d s.my.mmWord)) s

/-- Whether a slot-table entry is valid (R337). -/
def slotEntryOk (e : Nat) : Bool :=
  let src (i : Nat) : Nat := e / 2 ^ (3 * i) % 8
  -- outputs N, E, S, W, L hold source codes whose own directions are 1 to 5
  e / 2 ^ 15 % 2 == 0 && (List.range 5).all fun i =>
    decide (src i ≤ 5) && src i != (match i with | 0 => 1 | 1 => 2 | 2 => 3 | 3 => 4 | _ => 5)

/-- Entry `e` of a phase of a tile (R338: all NONE where nothing is loaded). -/
def Tile.slotEntry (x : Tile) (phase e : Nat) : BitVec 16 := aget 0 x.phases (phase * 256 + e)

/-- A tile with a phase loaded: only entries that are not all NONE are listed. -/
def Tile.loadPhase (x : Tile) (phase : Nat) (es : List (BitVec 16)) : Tile :=
  let others := x.phases.filter fun (k, _) => k / 256 != phase
  let put (l : List (Nat × BitVec 16)) (e : Nat × BitVec 16) : List (Nat × BitVec 16) :=
    if e.2 = 0 then l else aset l (phase * 256 + e.1) e.2
  { x with phases := ((List.range 256).zip es).foldl put others }

/-- The 256 entries of an image at a scratchpad address. -/
def Tile.phaseImage (x : Tile) (a : Nat) : List (BitVec 16) := (List.range 256).map fun e => BitVec.ofNat 16 (x.sp.le (a + 2 * e) 2)

/-- A selection of a phase (R338). -/
def Tile.selectPhase (x : Tile) (p : Nat) : Tile := { x with pending := if p = x.active then none else some p }

/-- SLOTLD (R338). -/
def execSlotld (a b : Reg) (s : State) : Out :=
  plain (fun s =>
    let w := s.me.g a
    let im := s.me.g b
    let p := bits w 3 0
    let fin (s : State) : Res := .done (if w.getLsbD 5 then s.onMy (·.selectPhase p) else s)
    match s.me.wait with
    | some _ => fin s
    | none =>
      if bits w 63 6 ≠ 0 ∨ bits w 5 4 = 0 then .trap .illegalInstruction w
      else if !w.getLsbD 4 then fin s
      else match s.spCheckRange (effAddr im 0) 512 64 with
        | some (c, va) => .trap c va
        | none =>
          if p = s.my.active ∨ s.my.pending = some p then .trap .illegalInstruction w
          else if s.my.spPoisoned im.toNat 512 then .trap .uncorrectableData im
          else
            let es := s.my.phaseImage im.toNat
            match es.findIdx? fun e => !slotEntryOk e.toNat with
            | some e => .trap .illegalInstruction (im + BitVec.ofNat 64 (2 * e))
            | none => .wait ((s.onMy (·.loadPhase p es)).onMe fun k =>
                { k with status := .stalled, issueFrom := s.beat + 32, wait := some (.answered ⟨.slotLoad, 0, 0, 0, false, 0, w, 0⟩ 0) })) s

/-! ### Stream engines and the SAC unit (R344, R348, R349) -/

/-- SEGO (R344). -/
def execSego (t a b : Reg) (s : State) : Out :=
  plain (fun s =>
    if t = 0 then .trap .illegalInstruction 0
    else if 255 < (s.me.g b).toNat then .trap .illegalInstruction (s.me.g b)
    else match s.spCheckRange (effAddr (s.me.g a) 0) 64 64 with
      | some (c, va) => .trap c va
      | none => s.issueAsync (s.asyncReq .sego t (s.me.g a) (s.me.g b) 0 none) (.streamProgramStart s.cur)) s

/-- SESTAT (R348). -/
def execSestat (d a : Reg) (s : State) : Out :=
  plain (fun s => s.exchange
    (if 255 < (s.me.g a).toNat then .trap .illegalInstruction (s.me.g a)
     else s.ask ⟨.seStat, 0, 0, 0, false, 0, s.me.g a, 0⟩ (.engineAnswer s.cur s.who))
    (fun _ v => .done (s.putLogged d (v.setWidth 64)))) s

/-- The checks and the request of SACP and SACC (R349). -/
def State.sacIssue (s : State) (op : ReqOp) (t a b c : Reg) (p : Option (BitVec 26)) : Res :=
  let w := s.me.g b
  if (s.me.g a).toNat % 64 ≠ 0 then .trap .misaligned (s.me.g a)
  else if bits w 63 28 ≠ 0 ∨ w.getLsbD 23 = true ∨ bits w 15 12 ≠ 0 ∨ w.getLsbD 7 = true ∨ 127 < bits w 22 16 + bits w 27 24
      ∨ 127 < bits w 6 0 + bits w 11 8 then .trap .illegalInstruction w
  else s.issueAsync (s.asyncReq op t (s.me.g a) w (s.me.g c) p) (.sacAccept s.cur)

/-- The prefix of a SACP, if it has none of the faults that trap (R349, R49, R70). -/
def sacPrefixOk (p : Option (BitVec 26)) : Bool :=
  match p with
  | none => true
  | some w =>
    let f := pfxOf w
    f.c == 0 && f.rnd == 0 && !f.sat && f.delta == 0 && scaleOk f.scale f.a

/-- SACP (R349). -/
def execSacp (t a b c : Reg) (s : State) : Out :=
  prefixed (fun s =>
    if t = 0 then .trap .illegalInstruction 0
    else if !sacPrefixOk s.me.pfxWord then .trap .illegalPrefix 0
    else s.sacIssue .sacp t a b c s.me.pfxWord) s

/-- SACC (R349). -/
def execSacc (t a b c : Reg) (s : State) : Out :=
  plain (fun s => if t = 0 then .trap .illegalInstruction 0 else s.sacIssue .sacc t a b c none) s

end Sys2Proof.Machine
end

