-- ==== Sys2Proof/Machine/Bind.lean ====
section
/-! DEFINITION. Binding a tile to a domain and unbinding it (03: R83, R84; 01: R15, R29; 06: R152, R155, R162; 07: R184; 20: R417). -/

namespace Sys2Proof.Machine

/-- The QClass of a code (R84). -/
def qclassOf (n : Nat) : QClass := match n % 4 with | 0 => .low | 1 => .high | 2 => .rlow | _ => .rhigh

/-- A queue as its image describes it (R84). -/
def queueOf (w : BitVec 128) : Queue :=
  let lo : Word := w.setWidth 64
  if lo.getLsbD 2 then
    { Queue.reset with
      en := true, cls := qclassOf (bits lo 1 0), excl := lo.getLsbD 3, spill := lo.getLsbD 4, weight := bits lo 11 8
      logDepth := bits lo 15 12, pane := bits lo 23 16, watchdog := bits lo 63 32 }
  else Queue.reset

/-- A counter as its image describes it, in a domain (R84). -/
def counterOfImage (dom : Nat) (w : BitVec 256) : Counter :=
  let c : Word := (w >>> 64).setWidth 64
  let v : Word := w.setWidth 64
  ⟨bits v 31 0, bits v 63 32, bits c 11 0, setDom ((w >>> 128).setWidth 64) dom, c.getLsbD 12, c.getLsbD 13, c.getLsbD 14⟩

/-- The owner an owner code names (R81).  DESIGN CHOICE (log 35): a code above 5 is read as FIRMWARE. -/
def ownerOf (n : Nat) : Owner :=
  match n with | 0 => .core | 1 => .mm | 2 => .rma | 3 => .sac | 4 => .ni | _ => .firmware

/-- A context whose activation is gone: its registers and its retired stores stay (R24, R276). -/
def Ctx.dropped (k : Ctx) : Ctx :=
  { k with status := .free, act := none, wait := none, parkedVa := none, parkedNeed := needOf false false false, parkedWrite := false, refilled := false, refetched := false,
           word := none, waitsOn := [], pend := [], failedStore := none, trapc := 0, trappc := 0, trapva := 0, trapiw := 0 }

/-- The bits of RNSCH that exist (R130). -/
def rnschMask : Word := 0x1FFF7F

/-- A context as S leaves it when it assigns the tile (R29, R130). -/
def Ctx.assigned (k : Ctx) (rnsch : Word) : Ctx :=
  { k.dropped with
    gs := Vector.replicate 32 0, vs := Vector.replicate 32 0, vxs := Vector.replicate 32 0, ks := Vector.replicate 8 0
    tg := 0, mret := 0, mvec := Vector.replicate 4 0, rngseed := 1, rnsch := rnsch &&& rnschMask }

/-- A tile's contexts L0 to L3 and H changed. -/
def Tile.onJobs (x : Tile) (f : Ctx → Ctx) : Tile := (List.range 5).foldl (fun x c => x.onCtx c f) x

/-- A tile with no work of a domain left on it (R381, R388): S, the pane data, the event counters, the kill list, the link-up counts
and an armed injection stay.  DESIGN CHOICE (log 47): so do the residue correction counts and the lane count (R134), which no rule ends. -/
def Tile.unbound (x : Tile) : Tile :=
  let y := x.onJobs Ctx.dropped
  { Tile.reset with
    enabled := x.enabled, withdrawn := x.withdrawn, ctxs := y.ctxs, lastL := x.lastL
    sp := x.sp, spPoison := x.spPoison
    evc := x.evc, evcAt := x.evcAt, evcNew := x.evcNew, errinj := x.errinj, corr := x.corr, lanes := x.lanes, order := x.order, seq := x.seq
    kills := x.kills, linkUp := x.linkUp
    sEvents := x.sEvents.filter fun e => match e with | .trap c => c == 5 | _ => true
    serving := x.serving }

/-- Pane 0 as the loader writes it for logical tile `i` (R83).  DESIGN CHOICE (log 35): CTXDEF is 0, since no section gives it. -/
def paneZero (d : Domain) (im : TileImage) (i : Nat) : List Byte :=
  leBytes 8 d.txdef.toNat ++ leBytes 8 0 ++ leBytes 8 d.rnschdef.toNat
    ++ leBytes 8 (i % 2 ^ 16 + d.width % 2 ^ 16 * 2 ^ 16 + d.height % 2 ^ 16 * 2 ^ 32) ++ List.replicate 224 0
    ++ im.queues.flatMap (fun w => leBytes 16 w.toNat) ++ im.counters.flatMap (fun w => leBytes 32 w.toNat)

/-- The image of a logical tile. -/
def Domain.image (d : Domain) (i : Nat) : TileImage := d.images.getD i ⟨[], [], [], [], []⟩

/-- Owner code of pane `p` in an image: pane 0 is CORE, panes 124 to 127 FIRMWARE (R78). -/
def TileImage.owner (im : TileImage) (p : Nat) : Owner :=
  if p = 0 then .core else if 124 ≤ p then .firmware else ownerOf (im.owners.getD p 0).toNat

/-- A tile bound to a domain as logical tile `i`, from the images the loader placed (R83, R417).  DESIGN CHOICE (log 47): RNSCHDEF goes to the
contexts that are assigned (R29), L0 to L3 and H; S keeps its RNSCH. -/
def Tile.bound (x : Tile) (d : Domain) (i : Nat) : Tile :=
  let im := d.image i
  let y := x.unbound.onJobs (·.assigned d.rnschdef)
  let sp := im.panes.foldl (fun c (p, bs) => Cells.setList c (4096 * p) bs)
    (Cells.setList (y.sp.filter fun c => decide (0x7C000 ≤ c.1)) 0 (paneZero d im i))
  { y with
    dom := d.dom
    sp := sp
    spPoison := y.spPoison.filter fun p => decide (0x7C000 ≤ p)
    rnsmap := 0
    panes := ⟨⟨(List.range 128).map fun p => (⟨im.owner p, false, if 124 ≤ p then 0 else d.dom, 0⟩ : Pane)⟩, by simp⟩
    queues := ⟨⟨(List.range 16).map fun q => queueOf (im.queues.getD q 0)⟩, by simp⟩
    counters := ⟨⟨(List.range 64).map fun c => if c = 0 then Counter.reset else counterOfImage d.dom (im.counters.getD c 0)⟩, by simp⟩
    phases := im.slots
    hcache := []
    logBase := d.logBases.getD i 0
    logUsed := 0
    log := []
    logFull := false }

/-- A queue with its image read again (R83): its slots, its spill ring and its credit stay. -/
def Queue.reread (q : Queue) (w : BitVec 128) : Queue :=
  { queueOf w with waiting := q.waiting, spilling := q.spilling, ring := q.ring, credit := q.credit }

/-- A tile that S reinstates after a colour reclaim (R83): the queue and counter images of pane 0 are read again (R104; log 46). -/
def Tile.reinstated (x : Tile) : Tile :=
  let qimg (q : Nat) : BitVec 128 := BitVec.ofNat 128 (x.sp.le (0x100 + 16 * q) 16)
  let cimg (c : Nat) : BitVec 256 := BitVec.ofNat 256 (x.sp.le (0x200 + 32 * c) 32)
  { x with
    queues := ⟨⟨(List.range 16).map fun q => (x.queue q).reread (qimg q)⟩, by simp⟩
    counters := ⟨⟨(List.range 64).map fun c => if c = 0 then x.counter 0 else counterOfImage x.dom (cimg c)⟩, by simp⟩ }

/-- The state with tile `t` bound to a domain as logical tile `i`; its copies of the link-up counts are current (R244). -/
def State.bindTile (s : State) (d : Domain) (t i : Nat) : State :=
  s.onTile t fun x => { x.bound d i with linkUp := s.linkCount }

/-- Logical tile `i` of a domain's placement: the tile that stands for it. -/
def Domain.tileOf (d : Domain) (i : Nat) : Nat := d.tiles.getD i 0

/-! ### A domain switched out (R388, R392, R437) -/

/-- Whether the tiles of a domain are saved: it is switched out, and not yet resumed. -/
def Domain.isOut (d : Domain) : Bool := match d.gang with | .out => true | .resuming _ => true | _ => false

/-- The image of a tile in a domain's save areas. -/
def Domain.imageOf (d : Domain) (t : Nat) : Option Tile := (d.saved.find? (·.1 == t)).map (·.2)

/-- The image of tile `t` in the save areas of a domain that is switched out. -/
def State.savedTile (s : State) (dom t : Nat) : Option Tile := (s.domain dom).bind (·.imageOf t)

/-- The state with the image of a tile in its place, where the domain is switched out. -/
def State.withImage (s : State) (d : Domain) (t : Nat) : State :=
  match if d.isOut then s.savedTile d.dom t else none with
  | some x => s.setTile t x
  | none => s

/-- What happens to a tile of a domain, or where the domain is switched out to the tile's image: what stands on the tile meanwhile stays. -/
def State.inPlace (s : State) (d : Domain) (t : Nat) (f : State → State) : State :=
  if d.isOut && (s.savedTile d.dom t).isSome then
    let s' := f (s.withImage d t)
    let image := s'.tile t
    (s'.setTile t (s.tile t)).onDomain d.dom fun d => { d with saved := d.saved.map fun (u, x) => if u = t then (u, image) else (u, x) }
  else f s

/-- The tiles of a domain that can still run it (R372): bound to it, or saved for it. -/
def State.survivors (s : State) (d : Domain) : List Nat :=
  d.tiles.filter fun t => !s.gone t && if d.isOut then (d.imageOf t).isSome else (s.tile t).dom == d.dom

end Sys2Proof.Machine
end

