-- ==== Sys2Proof/Machine/Host.lean ====
section
/-! DEFINITION. The host endpoint (21: R438 to R443): return rings and their records, the registers of a function, launch
records, and the loss of an undeliverable reply (R432, R458). -/

namespace Sys2Proof.Machine

/-- Address inside a module of the host endpoint (R443's example). -/
def endpoint : Nat := 0x6180

/-! ### Return rings (R442, R443) -/

/-- A function of the endpoint. -/
def State.fn (s : State) (f : Nat) : HostFn := vget s.fns f HostFn.reset

/-- The state with a function changed. -/
def State.onFn (s : State) (f : Nat) (g : HostFn → HostFn) : State := { s with fns := vset s.fns f (g (s.fn f)) }

/-- The function bound to a domain, if any (R438). -/
def State.fnOf (s : State) (dom : Nat) : Option Nat := (List.range 64).find? fun f => (s.fn f).dom == some dom

/-- Whether a return ring takes a record (R439, R443). -/
def HostFn.room (h : HostFn) : Bool :=
  decide (4 ≤ h.rsize ∧ h.rsize ≤ 16) && (h.rprod + 2 ^ 32 - h.rcons) % 2 ^ 32 != 2 ^ h.rsize

/-- The header doubleword of record `i` (R442). -/
def HostFn.header (h : HostFn) (i kind code : Nat) : Word :=
  BitVec.ofNat 64 (code % 2 ^ 16 * 2 ^ 16 + kind % 2 ^ 8 * 2 ^ 8 + (if i / 2 ^ h.rsize % 2 = 0 then 1 else 0))

/-- A record of a header and 19 doublewords written to a ring that takes it (R442). -/
def State.putRecord (s : State) (f kind code : Nat) (ws : List Word) : State :=
  let h := s.fn f
  let i := h.rprod
  let bs := (h.header i kind code :: ws).flatMap fun w => leBytes 8 w.toNat
  { s with hostMem := s.hostMem.setList (h.rbase + 160 * (i % 2 ^ h.rsize)) bs }.onFn f fun h => { h with rprod := (i + 1) % 2 ^ 32 }

/-- Doublewords of which the manual gives those listed: the others are free (log 22), but that the payload beyond the LEN of the record's H0
is zero. -/
def State.openFill (s : State) (l : List (Option Word)) : List Word :=
  let open' (i : Nat) : Word := Config.openWord s.fv i
  let len := (h0Of ((l.getD 0 none).getD (open' 0))).len
  (List.range 19).map fun i => (l.getD i none).getD (if 3 + len ≤ i then 0 else open' i)

/-- The LOST record, when space has appeared after a discard (R443). -/
def State.settleLost (s : State) (f : Nat) : State :=
  let h := s.fn f
  if h.lostSince ≠ 0 ∧ h.room = true then
    let ws := s.openFill [none, none, none, some (BitVec.ofNat 64 h.lostSince)]
    ({ s with fv := s.fv + 1 }.putRecord f 7 0 ws).onFn f fun h => { h with lostSince := 0 }
  else s

/-- A record of a function: written, or discarded and counted (R443). -/
def State.fnRecord (s : State) (f kind code : Nat) (l : List (Option Word)) : State :=
  let s := s.settleLost f
  if (s.fn f).room then { s with fv := s.fv + 1 }.putRecord f kind code (s.openFill l)
  else s.onFn f fun h => { h with rlost := min (h.rlost + 1) (2 ^ 32 - 1), lostSince := h.lostSince + 1 }

/-- A record to the host return area of a domain's function: discarded when no function is bound to it (R442). -/
def State.hostRecord (s : State) (dom kind code : Nat) (l : List (Option Word)) : State :=
  match s.fnOf dom with
  | none => s
  | some f => s.fnRecord f kind code l

/-- A message as a record holds it (R442): its payload beyond LEN is zero. -/
def Msg.words (m : Msg) : List (Option Word) :=
  ([m.h0, m.h1, m.tag] ++ (List.range 16).map fun i => if i < (h0Of m.h0).len then payAt m.pay i else 0).map some

/-- A REPLY-network message that cannot be delivered (R432, R458). -/
def State.undelivered (s : State) (m : Msg) : State := s.hostRecord (domOf m.tag) 6 0 m.words

/-- HOST_RETURN_RECORD (R442): the first message that waits at the endpoint. -/
def execHostReturnRecord (s : State) : Out :=
  .next (match s.net.findIdx? fun p => p.place == endpoint && p.ejected with
    | none => s
    | some i =>
      match s.net[i]? with
      | none => s
      | some p =>
        { s with net := dropAt s.net i }.hostRecord (domOf p.msg.tag) (bitN (h1Of p.msg.h1).returned) 0 p.msg.words)

/-! ### Registers (R439) -/

/-- What DEBUG reads for a domain, or for none. -/
def debugOf : Option Domain → Nat
  | some d => match d.gang with | .stopping => 1 | .stopped => 2 | _ => 0
  | none => 0

/-- A function bound to a domain, or to none, with a DEBUG that reads of that domain. -/
def State.bindFn (s : State) (f : Nat) (dom : Option Nat) : State :=
  s.onFn f fun h => { h with dom := dom, debug := debugOf (dom.bind s.domain) }

/-- DEBUG brought up to date in every function bound to a domain. -/
def State.setDebug (s : State) (dom : Nat) : State :=
  { s with fns := vmap (fun h => if h.dom = some dom then { h with debug := debugOf (s.domain dom) } else h) s.fns }

/-- A write of RSIZE: RPROD, RCONS and RLOST become 0 (R439); a LOST record follows if the ring now has space (R443). -/
def State.writeRsize (s : State) (f : Nat) (v : Word) : State :=
  (s.onFn f fun h => { h with rsize := bits v 4 0, rprod := 0, rcons := 0, rlost := 0 }).settleLost f

/-- RSIZE_WRITE (R439). -/
def execRsizeWrite (f : Nat) (v : Word) (s : State) : Out := .next (s.writeRsize f v)

/-- RLOST_WRITE (R439): any write clears it. -/
def execRlostWrite (f : Nat) (s : State) : Out := .next (s.onFn f fun h => { h with rlost := 0 })

/-- HOST_REGISTER_WRITE (R439) of RBASE or RCONS; the other registers are read only or have a step of their own. -/
def execHostRegisterWrite (f off : Nat) (v : Word) (s : State) : Out :=
  .next (match off with
    | 0x1008 => s.onFn f fun h => { h with rbase := (v &&& ~~~0xFFF).toNat }
    | 0x1018 => (s.onFn f fun h => { h with rcons := bits v 31 0 }).settleLost f
    | _ => s)

/-- The value a read of a register returns (R439): a reserved offset and the launch window read zero. -/
def State.readHostReg (s : State) (f off : Nat) : Word :=
  let h := s.fn f
  match off with
  | 0x1000 => match h.dom with | some d => BitVec.ofNat 64 (0x1000 + d) | none => 0
  | 0x1008 => BitVec.ofNat 64 h.rbase
  | 0x1010 => BitVec.ofNat 64 h.rsize
  | 0x1018 => BitVec.ofNat 64 h.rcons
  | 0x1020 => BitVec.ofNat 64 h.rprod
  | 0x1028 => BitVec.ofNat 64 h.rlost
  | 0x1030 => BitVec.ofNat 64 h.debug
  | 0x1038 => BitVec.ofNat 64 h.lseq
  | _ => 0

/-! ### Launch records (R440, R441) -/

/-- Doubleword `i` of a launch record. -/
def launchDw (r : LaunchRec) (i : Nat) : Word := r.dws.getD i 0

/-- The CODE of the first check of R440 a record of function `f` fails. -/
def State.launchCode (s : State) (f : Nat) (r : LaunchRec) : Option Nat :=
  let h := h0Of (launchDw r 0)
  let q := h.dst % 32768
  if !r.whole then some 1
  else if h.vn || h.triple || h.copy != 0 || h.drop || bits (launchDw r 0) 9 0 != 0 || launchDw r 7 != 0 then some 2
  else if 5 < h.len then some 3
  else if h.dst / 32768 ≠ s.modNo ∨ 24 ≤ dieAt q ∨ s.gone q = true then some 4
  else match (s.fn f).dom with
    | none => some 5
    | some _ => none

/-- The message a launch record becomes (R440). -/
def State.launchMsg (s : State) (f dom : Nat) (r : LaunchRec) : Msg :=
  let h := h0Of (launchDw r 0)
  let hid := if h.hid = 0 then ((s.domain dom).map (·.launch)).getD 0 else h.hid
  { h0 := { h with hid := hid }.word
    h1 := ({ src := s.addr endpoint, sctx := 0, orighid := 0, returned := false, seq := (s.fn f).seq.toNat } : H1).word
    tag := setBits (setBits (launchDw r 1) 63 52 dom) 51 40 0
    pay := (List.range h.len).map fun i => launchDw r (2 + i) }

/-- The endpoint's next queued launch message enters the REQ network when its output buffer is free; which function's comes
first is free (R441). -/
def State.feedEndpoint (s : State) : State :=
  let fs := (List.range 64).filter fun f => (s.fn f).queue != []
  if fs = [] ∨ s.outFree endpoint false = false then s
  else
    let f := fs.getD (Config.pick s.fv % fs.length) 0
    match (s.fn f).queue with
    | [] => s
    | m :: rest => ({ s with fv := s.fv + 1 }.onFn f fun h => { h with queue := rest }).inject endpoint m false

/-- LAUNCH_RECORD (R440, R441): with a full launch queue the record waits at the host, which has no credit to write it. -/
def execLaunchRecord (f : Nat) (r : LaunchRec) (s : State) : Out :=
  .next (if 64 ≤ (s.fn f).queue.length then s.post (.launchRecord f r)
    else match s.launchCode f r, (s.fn f).dom with
      | some code, _ => s.fnRecord f 5 code [some (launchDw r 0), none, some (launchDw r 1)]
      | none, none => s
      | none, some dom =>
        (s.onFn f fun h => { h with
          queue := h.queue ++ [s.launchMsg f dom r], seq := h.seq + 1, lseq := (h.lseq + 1) % 2 ^ 32 }).feedEndpoint)

end Sys2Proof.Machine
end

