-- ==== Sys2Proof/Machine/MemSteps.lean ====
section
/-! DEFINITION. The pending steps of a context's own accesses: the store queue (10: R252, R254; 11: R268, R269), the answers to its
requests (R257, R266, R270, R273, R277), pending writes (01: R26, R89) and a fetch that brings no instruction (R21, R65, R68). -/

namespace Sys2Proof.Machine

/-! ### The store queue -/

/-- STORE_QUEUE_PERFORM (R268): the oldest store of a context's queue, in program order (R252); a viral die's stores are held (R385). -/
def execStoreQueuePerform (t c : Nat) (s : State) : Out :=
  .next (if s.viralAt t then s.post (.storeQueuePerform t c) else s.performStore t c)

/-! ### Answers -/

/-- Whether the block-table service answers a request. -/
def ReqKind.byService : ReqKind → Bool
  | .btWrite => true
  | .btSwap => true
  | .btRef => true
  | _ => false

/-- Whether a request is answered by another agent than a memory target. -/
def ReqKind.served (k : ReqKind) : Bool :=
  k.byService || k == .seStat || k == .tgNew || k == .gangSw || k == .take || k == .slotLoad || k == .tlbInv

/-- A request that was sent, performed though its instruction was given up (R276): none while it must wait, for MIG (R240), for a page in use
(R230, R231) or for the tile's die (R385). -/
def State.performSent (s : State) (t c dom : Nat) (r : GReq) : Option State :=
  if s.viralAt t then none
  else if r.kind.byService then
    match s.serve dom r with
    | .done s' _ => some s'
    | .trap _ _ => some s
    | .held => none
    | .copy => match s.btCopy dom (BitVec.ofNat 64 r.va) with
      | .done s' _ => some s'
      | _ => some s
  else if !s.mustRetry t r then some (s.performReq t c r).1
  else match s.engineWalk t t r.va true true true with
    | (s', .at pa) => some (s'.performReq t c { r with pa := pa }).1
    | (_, .hold) => none
    | (s', .code _) => some s'

/-- The oldest request of a tile that is left to be performed. -/
def State.performLeft (s : State) (t c : Nat) : State :=
  match (s.tile t).left with
  | [] => s
  | (dom, r) :: rest => match (s.onTile t fun x => { x with left := rest }).performSent t c dom r with
    | some s' => if rest = [] then s' else s'.post (.globalAnswerReturn t c)
    | none => s.post (.globalAnswerReturn t c)

/-- GLOBAL_ANSWER_RETURN (R252, R257, R266, R270, R273): the request a context has sent is performed at its target and answered: an atomic
after the context's earlier stores, and none while its die is viral (R385).  One whose link is down ends in TARGET_GONE (R245); one that
must go through the translation again is made again.  With no request of the context, one that is left of a given-up instruction is
performed (R276). -/
def execGlobalAnswerReturn (t c : Nat) (s : State) : Out :=
  .next (match (s.ctxAt t c).wait with
    | some (.sent r) =>
      let answer (s : State) (w : Wait) : State := s.onCtx t c fun k => { k with status := .running, wait := some w }
      if r.kind.served then s
      else if s.viralAt t || (r.kind.isAtomic && (s.ctxAt t c).storeQ != []) then s.post (.globalAnswerReturn t c)
      else if (s.tile t).replay && r.kind != .load && r.kind != .btRead && r.kind != .btData then answer s (.answered r 0)
      else if s.targetDown t r.pa then
        let s' := if Config.performed s.fv ∧ s.mustRetry t r = false then (s.performReq t c r).1 else s
        answer { s' with fv := s'.fv + 1 } (.failed r .targetGone (BitVec.ofNat 64 r.va))
      else if s.mustRetry t r then s.onCtx t c fun k => { k with status := .running, wait := none, word := none }
      else match s.performReq t c r with
        | (s', .ok v) => answer s' (.answered r v)
        | (s', .error (cause, va)) => answer s' (.failed r cause va)
    | _ => s.performLeft t c)

/-- What the block-table service makes of a request (R277): held while MIG is set, a copy first when REF is above 1 (R240). -/
def State.btAnswer (s : State) (t c : Nat) (r : GReq) (a : BtAnswer) : State :=
  let answer (s : State) (w : Wait) : State := s.onCtx t c fun k => { k with status := .running, wait := some w }
  match a with
  | .done s' w => answer s' (.answered r (w.setWidth 1024))
  | .trap cause va => answer s (.failed r cause va)
  | .held => s.post (.btServiceAnswer t c)
  | .copy => s.post (.btCopyOnWrite t c)

/-- BT_SERVICE_ANSWER (R277); a tile that replays changes no table (R394). -/
def execBtServiceAnswer (t c : Nat) (s : State) : Out :=
  .next (match (s.ctxAt t c).wait with
    | some (.sent r) =>
      if !r.kind.byService then s
      else if (s.tile t).replay then { s with fv := s.fv + 1 }.btAnswer t c r (.done s (Config.openWord s.fv 0))
      else s.btAnswer t c r (s.serve (s.tile t).dom r)
    | _ => s)

/-- BT_COPY_ON_WRITE (R240): the block of a BTLD with WRITE copied, and its waiter released. -/
def execBtCopyOnWrite (t c : Nat) (s : State) : Out :=
  .next (match (s.ctxAt t c).wait with
    | some (.sent r) =>
      if r.kind ≠ .btWrite then s
      else match s.serve (s.tile t).dom r with
        | .copy => s.btAnswer t c r (s.btCopy (s.tile t).dom (BitVec.ofNat 64 r.va))
        | a => s.btAnswer t c r a
    | _ => s)

/-! ### Pending writes and fetches -/

/-- PENDING_WRITE (R26, R89): the writes of a tile's contexts that are due are made. -/
def execPendingWrite (t : Nat) (s : State) : Out :=
  .next (s.onTile t fun x => { x with ctxs := vmap (·.settleDue s.beat) x.ctxs })

/-- NOT_AN_INSTRUCTION (R65, R68 step 1): the issuing context's word decodes to none. -/
def execNotAnInstruction (_w : BitVec 32) (s : State) : Out := .next (s.trapMe .illegalInstruction 0)

/-- INSTRUCTION_FETCH (R21, R100): the fetch of the issuing context that brings no word: a misaligned target or a failed translation
traps with the address, a miss parks the context. -/
def execInstructionFetch (s : State) : Out :=
  let pc := s.pc
  .next (if bits pc 1 0 ≠ 0 then s.takeTrap s.cur s.who .misaligned pc 0
    else match s.fetchAt s.cur s.who with
      | .word _ => s
      | .miss => s.parkFor s.cur s.who pc.toNat (needOf false false true) false
      | .trap cause => s.takeTrap s.cur s.who cause pc 0)

end Sys2Proof.Machine
end

