-- ==== Sys2Proof/Machine/Rma.lean ====
section
/-! DEFINITION. The RMA engine and the tile memory port (13: R291 to R294; 14: R329 to R332): the pending step that performs
the oldest request of a tile, and the one that writes its token. -/

namespace Sys2Proof.Machine

/-! ### What a request asks for (R329 to R331) -/

/-- A GET, PUT, GETX or PUTX laid out: its remote side, its byte ranges, and its doublewords as pairs of a remote address and
a local one, in ascending order. -/
structure RmaPlan where
  put : Bool
  g : Bool
  tile : Nat
  cnt : Nat
  remote : List (Nat × Nat)
  own : List (Nat × Nat)
  moves : List (Nat × Nat)
  deriving DecidableEq, Repr

/-- Entry `j` of an index list at a scratchpad address. -/
def Tile.listEntry (x : Tile) (a j : Nat) : Nat := x.sp.le (a + 4 * j) 4

/-- What an operation reads from CORE panes (R250, R331, R332): the entries of its index list, or the two doublewords of its record. -/
def Tile.rmaWords (x : Tile) (r : AsyncReq) : List Nat :=
  match r.op with
  | .getx | .putx => (List.range (listN r.z)).map fun j => x.listEntry (listAt r.z) j
  | .ratom _ => [x.sp.le (ratomSrc r.y) 8, x.sp.le (ratomSrc r.y + 8) 8]
  | _ => []

/-- The plan of a copy, or of an indexed copy with the entries of its list. -/
def rmaPlan (r : AsyncReq) (words : List Nat) : RmaPlan :=
  let put := r.op == .put || r.op == .putx
  let g := r.y.getLsbD 63
  let base := remoteAddr r.x g
  let l := bits r.y 18 0
  let tile := bits r.x 63 40
  let cnt := if g then 0 else bits r.x 37 32
  if r.op == .get || r.op == .put then
    let n := r.z.toNat
    ⟨put, g, tile, cnt, [(base, n)], [(l, n)], (List.range (n / 8)).map fun i => (base + 8 * i, l + 8 * i)⟩
  else
    let e := listEsz r.z
    let at' (j : Nat) : Nat := base + words.getD j 0 * e
    let js := List.range (listN r.z)
    ⟨put, g, tile, cnt, js.map fun j => (at' j, e), [(l, listN r.z * e)],
      js.flatMap fun j => (List.range (e / 8)).map fun k => (at' j + 8 * k, l + j * e + 8 * k)⟩

/-- Whether panes of the issuing tile that an operation reads as CORE still are (R331, R332). -/
def State.coreStill (s : State) (t a n : Nat) : Bool := (panesOf [(a, n)]).all fun p => ((s.tile t).pane p).isCore

/-- What a physical address reaches outside the module's own memory (R437). -/
def State.farOf (s : State) (pa : Nat) : List Nat :=
  (if (s.modOf pa).1 = s.modNo then [] else [(s.modOf pa).1]) ++
    match s.groupAt pa with | some g => [65536 + g.g] | none => []

/-- What an address of tile `t` reaches outside the module, as the tables now stand, whether its target is up or not. -/
def State.vaFar (s : State) (t va : Nat) : List Nat :=
  match s.walked t va false with
  | .fill e => s.farOf (s.entryAddr e va)
  | _ => []

/-- How far a transfer came: the state, the code of a failure, whether it holds, the doublewords moved, what it reached, and the bytes that
left the module. -/
structure Moved where
  s : State
  code : Nat
  hold : Bool
  moved : Nat
  far : List Nat
  bytes : Nat
  deriving DecidableEq, Repr

/-- Moves doublewords between the panes of tile `t` and a target, tile `q` or global memory, until one fails or must wait (R293, R374, R434).
DESIGN CHOICE (log 64): a write to global memory is made at the memory target alone (R329), and a clean line of the own die stays as it is. -/
def rmaMoves (t q : Nat) (put g : Bool) : List (Nat × Nat) → Moved → Moved
  | [], m => m
  | (r, l) :: rest, m =>
    let s := m.s
    let on (s : State) : Moved := { m with s := s, moved := m.moved + 1 }
    if put then
      if (s.tile t).spPoisoned l 8 then { m with code := 4 }
      else
        let bs := (s.tile t).sp.getList l 8
        if g then
          match s.tileAddr t r false true true with
          | (s, .at pa) => match s.bulkTo (.rma t) pa 8 with
            | none => { m with s := s, hold := true }
            | some s => rmaMoves t q put g rest
                { on (s.memWrite pa bs) with far := m.far ++ s.farOf pa, bytes := m.bytes + (if (s.modOf pa).1 = s.modNo then 0 else 8) }
          | (s, .code n) => { m with s := s, code := n }
          | (s, .hold) => { m with s := s, hold := true }
        else rmaMoves t q put g rest (on (s.onTile q (·.spWrite r bs)))
    else if g then
      match s.tileAddr t r true false false with
      | (s, .at pa) =>
        if s.memPoisoned pa 8 then { m with s := s, code := 4 }
        else rmaMoves t q put g rest { on (s.onTile t (·.spWrite l (s.memRead pa 8))) with far := m.far ++ s.farOf pa }
      | (s, .code n) => { m with s := s, code := n }
      | (s, .hold) => { m with s := s, hold := true }
    else if (s.tile q).spPoisoned r 8 then { m with code := 4 }
    else rmaMoves t q put g rest (on (s.onTile t (·.spWrite l ((s.tile q).sp.getList r 8))))

/-- Check 1 of R292 for a target tile address, as far as this module can tell (R423, R427, R432). -/
def State.targetGone (s : State) (t dom tile : Nat) : Bool :=
  let q := tile % 32768
  if 24 ≤ dieAt q then true
  else if tile / 32768 ≠ s.modNo then s.modGone t (tile / 32768)
  else s.gone q || (s.tile q).dom != dom || dom == 0 || !s.routable t q

/-- The code another module's port answers (log 21): free among those of R292. -/
def State.farCode (s : State) : Nat := [0, 1, 2, 3, 6].getD (Config.pick s.fv % 5) 0

/-- The checks of R292 at the target tile and, when it is accepted, its code 0 with EVC12 counted. -/
def State.targetCheck (s : State) (t q dom : Nat) (l : List (Nat × Nat)) : State × Nat :=
  if s.targetGone t dom q then (s, 6)
  else match s.portCheck (q % 32768) dom .rma l with
    | some n => (s.countDenied (q % 32768) n, n)
    | none => (s, 0)

/-- The panes of byte ranges of a tile, as holds. -/
def holdsOf (t : Nat) (l : List (Nat × Nat)) : List (Nat × Nat) := (panesOf l).map fun p => (t, p)

/-- An accepted operation that is over, with its code and the panes it holds besides its own: its token is written by a later step. -/
def State.finished (s : State) (t : Nat) (o : RmaOp) (code : Nat) (extra : List (Nat × Nat)) : State :=
  ((s.hold extra).onTile t fun x =>
    { x with rmaDone := x.rmaDone ++
        [(⟨o.req.op, o.req.ctx, o.req.tok, o.req.dom, o.req.col, code, o.holds ++ extra, o.far.eraseDups, o.bytes, none⟩ : DoneOp)] }).post
      (.rmaCompletion t (o.req.ctx * 32 + o.req.tok.toNat))

/-- A request with nothing done yet. -/
def AsyncReq.op' (r : AsyncReq) : RmaOp := ⟨r, [], [], 0, [], 0⟩

/-- A request refused before anything of it is performed. -/
def State.refused (s : State) (t : Nat) (r : AsyncReq) (code : Nat) : State := s.finished t r.op' code []

/-- An accepted operation that must wait: what it has done stays done, and it is tried again. -/
def State.rmaWaits (s : State) (t : Nat) (o : RmaOp) : State :=
  (s.onTile t fun x => { x with rmaOps := x.rmaOps ++ [o] }).post (.rmaPortOperation t)

/-- The accepted operations of a tile that satisfy a condition ended with a code, what they have done left as it is (R290, R437). -/
def State.endRma (s : State) (t : Nat) (f : RmaOp → Bool) (code : Nat) : State :=
  ((s.tile t).rmaOps.filter f).foldl (fun s o => s.finished t o code [])
    (s.onTile t fun x => { x with rmaOps := x.rmaOps.filter fun o => !f o })

/-- An operation after a transfer. -/
def RmaOp.after (o : RmaOp) (m : Moved) : RmaOp := { o with moved := o.moved + m.moved, far := o.far ++ m.far, bytes := o.bytes + m.bytes }

/-- A GET, PUT, GETX or PUTX performed (R292, R293), from where it stands. -/
def State.rmaTransfer (s : State) (t : Nat) (o : RmaOp) : State :=
  let p := rmaPlan o.req o.words
  let left := p.moves.drop o.moved
  if p.g then
    let m := rmaMoves t 0 p.put true left ⟨s, 0, false, 0, [], 0⟩
    if m.hold then m.s.rmaWaits t (o.after m) else m.s.finished t (o.after m) m.code []
  else if p.tile / 32768 ≠ s.modNo ∧ !s.targetGone t o.req.dom p.tile then
    -- a tile of another module: its state is not here (log 21)
    let far := p.tile / 32768
    let size := 8 * p.moves.length
    match if p.put then s.bulk far (.rma t) size else some s with
    | none => s.rmaWaits t o
    | some s =>
      let n := s.farCode
      let s := { s with fv := s.fv + 1 }
      let s := if n = 0 ∧ !p.put then
        (p.moves.foldl (fun (s, i) (_, l) =>
          (s.onTile t (·.spWrite l ((List.range 8).map fun j => Config.remoteByte s.fv (8 * i + j))), i + 1)) (s, 0)).1 else s
      s.finished t { o with far := [far], bytes := if p.put then size else 0 } n []
  else
    let q := p.tile % 32768
    match s.targetCheck t p.tile o.req.dom p.remote with
    | (s, 0) =>
      let m := rmaMoves t q p.put false left ⟨s, 0, false, 0, [], 0⟩
      let s := if m.code = 0 ∧ p.put then m.s.bump q p.cnt 1 else m.s
      s.finished t o m.code (holdsOf q p.remote)
    | (s, n) => s.finished t o n []

/-! ### RATOM (R332) -/

/-- The kind of a RATOM below SUBST. -/
def ratomKind (op : Nat) : ReqKind :=
  match op with
  | 0 => .atomAdd | 1 => .atomCas | 2 => .atomSwap | 3 => .atomMax | 4 => .atomMin | 5 => .fxadd | _ => .fxrd

/-- Whether the record of a RATOM is one it can use (R332). -/
def ratomOk (op : Nat) (x : Word) : Bool :=
  if op = 6 then bits x 63 1 == 0
  else if op = 7 then bits x 7 4 == 0 && bits x 63 12 == 0 && decide (bits x 11 9 < (if x.getLsbD 8 then 2 else 4))
  else true

/-- A byte after a SUBST. -/
def substByte (x : Word) (old : Nat) : Nat :=
  let w := if x.getLsbD 8 then 4 else 2
  let lo := w * bits x 11 9
  old - old / 2 ^ lo % 2 ^ w * 2 ^ lo + bits x 3 0 % 2 ^ w * 2 ^ lo

/-- The two register operands of an atomic kind taken from a record: its first two doublewords in the order R270 names them. -/
def ratomOperands (op : Nat) (x x2 : Word) : Word × Word :=
  if op = 1 then (x2, x) else if op = 6 then (0, x) else (x, 0)

/-- What a RATOM leaves at its target and answers, from the operand it finds. -/
def ratomEffect (op w : Nat) (x x2 : Word) : Nat × Word × Bool :=
  if op = 7 then (substByte x w, BitVec.ofNat 64 w, true)
  else
    let (a, b) := ratomOperands op x x2
    (atomNew (ratomKind op) w a b, (atomResult (ratomKind op) w b).setWidth 64, atomWrites (ratomKind op) w a b)

/-- A RATOM's old value written to the pane that receives it. -/
def State.ratomAnswer (s : State) (t : Nat) (r : AsyncReq) (old : Word) : State :=
  if ratomRes r.y then s.onTile t (·.spWrite (ratomDst r.y) (leBytes 8 old.toNat)) else s

/-- A RATOM performed (R332, R292): its record's operands are `x` and `x2`. -/
def State.rmaAtomic (s : State) (t : Nat) (o : RmaOp) (op : Nat) : State :=
  let r := o.req
  let size := ratomSize op
  let x := BitVec.ofNat 64 (o.words.getD 0 0)
  let x2 := BitVec.ofNat 64 (o.words.getD 1 0)
  let at' := remoteAddr r.x (r.y.getLsbD 63)
  if r.y.getLsbD 63 then
    match s.tileAddr t at' true (op != 6) false with
    | (s, .hold) => s.rmaWaits t o
    | (s, .code n) => s.finished t o n []
    | (s, .at pa) =>
      if inWindow pa || (s.groupAt pa).isSome || s.memPoisoned pa size then s.finished t o 4 []
      else
        let (_, _, writes) := ratomEffect op (s.memLe pa size) x x2
        match if writes then s.tileAddr t at' true true true else (s, .at pa) with
        | (s, .hold) => s.rmaWaits t o
        | (s, .code n) => s.finished t o n []
        | (s, .at pa) =>
          let (new, old, writes) := ratomEffect op (s.memLe pa size) x x2
          let far := s.farOf pa
          let s := if writes then s.memSetLe pa size new else s
          (s.ratomAnswer t r old).finished t { o with far := far } 0 []
  else if bits r.x 63 40 / 32768 ≠ s.modNo ∧ !s.targetGone t r.dom (bits r.x 63 40) then
    let n := s.farCode
    let s := { s with fv := s.fv + 1 }
    let old := BitVec.ofNat 64 (leNat ((List.range 8).map fun j => Config.remoteByte s.fv j))
    (if n = 0 then s.ratomAnswer t r old else s).finished t { o with far := [bits r.x 63 40 / 32768] } n []
  else
    let q := bits r.x 63 40 % 32768
    match s.targetCheck t (bits r.x 63 40) r.dom [(at', size)] with
    | (s, 0) =>
      if (s.tile q).spPoisoned at' size then s.finished t o 4 (holdsOf q [(at', size)])
      else
        let (new, old, writes) := ratomEffect op ((s.tile q).sp.le at' size) x x2
        let s := if writes then s.onTile q (·.spWrite at' (leBytes size new)) else s
        (s.ratomAnswer t r old).finished t o 0 (holdsOf q [(at', size)])
    | (s, n) => s.finished t o n []

/-! ### The steps -/

/-- Whether a request is one the RMA engine serves. -/
def ReqOp.isRma : ReqOp → Bool
  | .get => true
  | .put => true
  | .getx => true
  | .putx => true
  | .ratom _ => true
  | _ => false

/-- The first request of a kind in the issue queue, taken out of it (R289). -/
def Tile.takeReq (x : Tile) (f : ReqOp → Bool) : Option (AsyncReq × Tile) :=
  match x.asyncQ.findIdx? fun r => f r.op with
  | none => none
  | some i => (x.asyncQ[i]?).map fun r => (r, { x with asyncQ := dropAt x.asyncQ i })

/-- The ranges of CORE panes that a request reads (R331, R332). -/
def AsyncReq.reads (r : AsyncReq) : List (Nat × Nat) :=
  match r.op with
  | .getx | .putx => [(listAt r.z, 4 * listN r.z)]
  | .ratom op => [(ratomSrc r.y, if op = 1 then 16 else 8)]
  | _ => []

/-- The byte ranges of the issuing tile's own panes that a request touches (R292). -/
def AsyncReq.ownRanges (r : AsyncReq) (words : List Nat) : List (Nat × Nat) :=
  match r.op with
  | .ratom _ => if ratomRes r.y then [(ratomDst r.y, 8)] else []
  | _ => (rmaPlan r words).own

/-- A request that has left the issue queue accepted by the RMA engine (R233, R250, R289): its list or record is read and its own panes are
checked and held; one that fails a check is over (R292, R331, R332, R374).  A tile that replays writes nothing outside itself, and what it
reads by RATOM is free (R394). -/
def State.rmaAccept (s : State) (t : Nat) (r : AsyncReq) : State :=
  let x := s.tile t
  let words := x.rmaWords r
  let badRecord : Bool := match r.op with | .ratom op => !ratomOk op (BitVec.ofNat 64 (words.getD 0 0)) | _ => false
  if r.reads.any fun (a, n) => !s.coreStill t a n then s.refused t r 1
  else if (r.reads.any fun (a, n) => x.spPoisoned a n) || badRecord then s.refused t r 4
  else match s.portCheck t r.dom .rma (r.ownRanges words) with
    | some n => (s.countDenied t n).refused t r n
    | none =>
      let h := holdsOf t (r.ownRanges words)
      let o : RmaOp := { r.op' with words := words, holds := h }
      if x.replay && r.op.isPut then
        let s := match r.op with
          | .ratom _ => { s with fv := s.fv + 1 }.ratomAnswer t r (Config.openWord s.fv 0)
          | _ => s
        (s.hold h).finished t o 0 []
      else (s.hold h).rmaWaits t o

/-- Whether a tile stands on a die that is viral and not yet fenced: it answers nothing, and nobody knows that it does not (R385). -/
def State.mute (s : State) (t : Nat) : Bool := s.viralAt t && !s.fenced (dieAt t)

/-- Whether an operation of tile `t` is held by a viral die (R385): nothing leaves one by its EXT ports, memory channels or fabric ports, the
answers of its tile ports not either; at its fence the operations of its tiles are gone, and those of others toward it find it TARGET_GONE. -/
def State.rmaHeld (s : State) (t : Nat) (r : AsyncReq) : Bool :=
  let tile := bits r.x 63 40
  if r.y.getLsbD 63 then s.viralAt t
  else if tile / 32768 ≠ s.modNo then s.viralAt t || (s.routePort (tile / 32768)).any fun p => s.mute (portTile p)
  else dieAt (tile % 32768) != dieAt t && (s.viralAt t || s.mute (tile % 32768))

/-- The `k`-th accepted operation of a tile performed, unless a viral die holds it. -/
def State.performRma (s : State) (t : Nat) (o : RmaOp) (k : Nat) : State :=
  let s := s.onTile t fun x => { x with rmaOps := dropAt x.rmaOps k }
  if s.rmaHeld t o.req then s.rmaWaits t o
  else match o.req.op with
    | .ratom op => s.rmaAtomic t o op
    | _ => s.rmaTransfer t o

/-- RMA_PORT_OPERATION (R251, R289, R291 to R294): the RMA engine of tile `t` accepts its oldest request, or one of those it has accepted is
performed, as far as it comes; which is free, since the operations of one requester may complete in any order.  A stopped tile accepts
none, and what is accepted completes (R388). -/
def execRmaPortOperation (t : Nat) (s : State) : Out :=
  let x := s.tile t
  let s' := { s with fv := s.fv + 1 }
  .next (match if x.frozen then none else x.takeReq ReqOp.isRma with
    | some (r, y) =>
      let k := Config.pick s.fv % (x.rmaOps.length + 1)
      match x.rmaOps[k]? with
      | some o => s'.performRma t o k
      | none => (s'.setTile t y).rmaAccept t r
    | none =>
      let k := Config.pick s.fv % x.rmaOps.length
      match x.rmaOps[k]? with
      | some o => s'.performRma t o k
      | none => if x.frozen && x.asyncQ.any (·.op.isRma) then s.post (.rmaPortOperation t) else s)

/-- RMA_COMPLETION (R287, R293): the token of the oldest performed operation of context `n / 32` and register `n % 32` is
written, and its panes are let go.  One whose packet was dropped on its way waits until the reservation under which it is sent again lets
it (R434); it ends TARGET_GONE when the path there goes down (R432). -/
def execRmaCompletion (t n : Nat) (s : State) : Out :=
  .next (match (s.tile t).rmaDone.findIdx? fun o => o.ctx * 32 + o.tok.toNat == n with
    | none => s
    | some i =>
      match (s.tile t).rmaDone[i]? with
      | none => s
      | some o =>
        let lost := o.dropped.any fun m => !s.pathUp m
        if !lost && o.dropped.any fun m => !s.granted m (.rma t) o.bytes then s.post (.rmaCompletion t n)
        else
          let s := match o.dropped with | some m => s.useGrant m (.rma t) o.bytes | none => s
          let code := if lost && o.code = 0 then 6 else o.code
          ((s.onTile t fun x => { x with rmaDone := dropAt x.rmaDone i }).writeToken t o.ctx o.tok code).unhold o.holds)

end Sys2Proof.Machine
end

