-- ==== Sys2Proof/Machine/Vector.lean ====
section
/-! DEFINITION. Vector integer lanes, permutes, predicates, carry chains, reductions and residue conversion
(05: R116, R123 to R134). -/

namespace Sys2Proof.Machine

/-- A vector result. -/
def State.putV (s : State) (d : Reg) (v : VReg) (lat : Nat) : State := s.put (.v d) v lat

/-! ### VALU (R116) -/

/-- The second operand of lane `i`: the low element of a general register for X = 1, else the lane of a vector. -/
def Ctx.laneB (k : Ctx) (x : Bool) (b : Reg) (w i : Nat) : Nat := if x then (k.g b).toNat % 2 ^ w else laneOf (k.v b) w i

/-- An integer lane instruction (R116). -/
def valu (f : (w : Nat) → BitVec w → BitVec w → BitVec w) (lat : Nat) (d a b : Reg) (k : KReg) (w : LaneW) (x : Bool) (s : State) : Out :=
  plain (fun s =>
    let c := s.me
    let n := laneW w
    .done (s.putV d (mapLanes (c.k k) c.zm (c.v d) n fun i =>
      (f n (BitVec.ofNat n (laneOf (c.v a) n i)) (BitVec.ofNat n (c.laneB x b n i))).toNat) lat)) s

/-- VADD (R116). -/
def execVadd (d a b : Reg) (k : KReg) (w : LaneW) (x : Bool) (s : State) : Out :=
  valu (fun _ x y => x + y) 2 d a b k w x s
/-- VSUB (R116). -/
def execVsub (d a b : Reg) (k : KReg) (w : LaneW) (x : Bool) (s : State) : Out :=
  valu (fun _ x y => x - y) 2 d a b k w x s
/-- VMUL (R116). -/
def execVmul (d a b : Reg) (k : KReg) (w : LaneW) (x : Bool) (s : State) : Out :=
  valu (fun _ x y => x * y) 3 d a b k w x s
/-- VMULH (R116). -/
def execVmulh (d a b : Reg) (k : KReg) (w : LaneW) (x : Bool) (s : State) : Out :=
  valu (fun w x y => BitVec.ofInt w ((x.toInt * y.toInt) / 2 ^ w)) 3 d a b k w x s
/-- VAND (R116). -/
def execVand (d a b : Reg) (k : KReg) (w : LaneW) (x : Bool) (s : State) : Out :=
  valu (fun _ x y => x &&& y) 2 d a b k w x s
/-- VOR (R116). -/
def execVor (d a b : Reg) (k : KReg) (w : LaneW) (x : Bool) (s : State) : Out :=
  valu (fun _ x y => x ||| y) 2 d a b k w x s
/-- VXOR (R116). -/
def execVxor (d a b : Reg) (k : KReg) (w : LaneW) (x : Bool) (s : State) : Out :=
  valu (fun _ x y => x ^^^ y) 2 d a b k w x s
/-- VSHL (R116). -/
def execVshl (d a b : Reg) (k : KReg) (w : LaneW) (x : Bool) (s : State) : Out :=
  valu (fun w x y => x <<< (y.toNat % w)) 2 d a b k w x s
/-- VSHR (R116). -/
def execVshr (d a b : Reg) (k : KReg) (w : LaneW) (x : Bool) (s : State) : Out :=
  valu (fun w x y => x >>> (y.toNat % w)) 2 d a b k w x s
/-- VSAR (R116). -/
def execVsar (d a b : Reg) (k : KReg) (w : LaneW) (x : Bool) (s : State) : Out :=
  valu (fun w x y => x.sshiftRight (y.toNat % w)) 2 d a b k w x s
/-- VMIN (R116). -/
def execVmin (d a b : Reg) (k : KReg) (w : LaneW) (x : Bool) (s : State) : Out :=
  valu (fun _ x y => if x.slt y then x else y) 2 d a b k w x s
/-- VMAX (R116). -/
def execVmax (d a b : Reg) (k : KReg) (w : LaneW) (x : Bool) (s : State) : Out :=
  valu (fun _ x y => if y.slt x then x else y) 2 d a b k w x s

/-! ### Reductions (R52, R123) -/

/-- The tree of R52 over the first 2·h values, one level per halving; the invalid additions are counted. -/
def treeLevel (l : List (FRes)) : List FRes :=
  let h := l.length / 2
  (List.range h).map fun i =>
    let a := l.getD i ⟨0, {}, false⟩
    let b := l.getD (i + h) ⟨0, {}, false⟩
    fAdd fp32 modeRne (fp32.dec a.bits) (fp32.dec b.bits)

/-- The levels of the tree, the first first. -/
def treeLevels : Nat → List FRes → List (List FRes)
  | 0, l => [l]
  | n + 1, l => l :: treeLevels n (treeLevel l)

/-- The sum tree of 32 lanes (R52): its result, flags and invalid additions. -/
def treeSum (x : Nat → Nat) : Nat × Fl × Nat :=
  let ls := treeLevels 5 ((List.range 32).map fun i => (⟨x i, {}, false⟩ : FRes))
  let adds := (ls.drop 1).flatten
  ((((ls.getLast?).getD []).head?.map (·.bits)).getD 0, adds.foldl (fun f r => f.or r.fl) {}, adds.countP (·.bad))

/-- The active lanes of a predicate among 32. -/
def activeLanes (p : Pred) : List Nat := (List.range 32).filter (active p 32)

/-- VRSUM (R123). -/
def execVrsum (d a : Reg) (k : KReg) (t : RTy) (s : State) : Out :=
  plain (fun s =>
    let c := s.me
    let x := fun i => laneOf (c.v a) 32 i
    match t with
    | .i32 => .done (s.putG d (sext ((activeLanes (c.k k)).foldl (fun n i => n + x i) 0) 32) 6)
    | .f32 =>
      let (r, fl, bad) := treeSum fun i => if active (c.k k) 32 i then x i else 0x80000000
      .done (((s.raise fl).onMy (·.bumpEvc 2 bad)).putG d (BitVec.ofNat 64 r) 6)) s

/-- Maximum or minimum of the active lanes (R123): NV for a signalling NaN; a NaN result is canonical. -/
def vredMinMax (isMax : Bool) (d a : Reg) (k : KReg) (t : RTy) (s : State) : Out :=
  plain (fun s =>
    let c := s.me
    let xs := (activeLanes (c.k k)).map fun i => laneOf (c.v a) 32 i
    match t with
    | .i32 =>
      let r := xs.foldl (fun m x => if isMax then max m (sInt x 32) else min m (sInt x 32))
        (if isMax then -(2 ^ 31 : Int) else 2 ^ 31 - 1)
      .done (s.putG d (BitVec.ofInt 64 r) 6)
    | .f32 =>
      let nv := xs.any fun x => (fp32.dec x).isSig
      let r := match xs with
        | [] => if isMax then 0xFF800000 else 0x7F800000
        | x :: t => t.foldl (fun m y => (fMinMax fp32 isMax m y).bits) x
      let r := if (fp32.dec r).isNan then 0x7FC00000 else r
      .done ((s.raise { nv := nv }).putG d (BitVec.ofNat 64 r) 6)) s

/-- VRMAX (R123). -/
def execVrmax (d a : Reg) (k : KReg) (t : RTy) (s : State) : Out := vredMinMax true d a k t s
/-- VRMIN (R123). -/
def execVrmin (d a : Reg) (k : KReg) (t : RTy) (s : State) : Out := vredMinMax false d a k t s

/-- The running integer sums of the active lanes up to each lane (R123 VSCAN). -/
def scanInt (act : Nat → Bool) (x : Nat → Nat) : Nat → Nat
  | 0 => if act 0 then x 0 else 0
  | i + 1 => scanInt act x i + (if act (i + 1) then x (i + 1) else 0)

/-- The running FP32 sums (R123 VSCAN): for `n` lanes, the last sum, and each lane's addition, the last lane first. -/
def scanF32 (act : Nat → Bool) (x : Nat → Nat) : Nat → Nat × List (Option FRes)
  | 0 => (0x80000000, [])
  | i + 1 =>
    let (t, l) := scanF32 act x i
    if act i then let r := fAdd fp32 modeRne (fp32.dec t) (fp32.dec (x i)); (r.bits, some r :: l) else (t, none :: l)

/-- VSCAN (R123). -/
def execVscan (d a : Reg) (k : KReg) (t : RTy) (s : State) : Out :=
  plain (fun s =>
    let c := s.me
    let act := active (c.k k) 32
    let x := fun i => laneOf (c.v a) 32 i
    match t with
    | .i32 => .done (s.putV d (mapLanes (c.k k) c.zm (c.v d) 32 fun i => scanInt act x i) 6)
    | .f32 =>
      let l := (scanF32 act x 32).2.reverse
      let rs := l.filterMap id
      .done (((s.raise (rs.foldl (fun f r => f.or r.fl) {})).onMy (·.bumpEvc 2 (rs.countP (·.bad)))).putV d
        (mapLanes (c.k k) c.zm (c.v d) 32 fun i => ((l.getD i none).map (·.bits)).getD 0) 6)) s

/-! ### Permutes (R124, R125) -/

/-- Width of a permute. -/
def permW : PermW → Nat | .w32 => 32 | .w16 => 16 | .w8 => 8 | .w64 => 64

/-- VBCAST (R125). -/
def execVbcast (d a : Reg) (z : Bool) (w : PermW) (k : KReg) (s : State) : Out :=
  plain (fun s => let c := s.me
    .done (s.putV d (mapLanes (c.k k) (c.zm || z) (c.v d) (permW w) fun _ => (c.g a).toNat) 2)) s
/-- VEXTR (R125). -/
def execVextr (d a b : Reg) (w : PermW) (s : State) : Out :=
  plain (fun s => let c := s.me
    .done (s.putG d (BitVec.ofNat 64 (laneOf (c.v a) (permW w) ((c.g b).toNat % (1024 / permW w)))) 2)) s
/-- VINS (R125). -/
def execVins (d a b : Reg) (w : PermW) (s : State) : Out :=
  plain (fun s => let c := s.me
    .done (s.putV d (vecOf (permW w) (1024 / permW w) fun i =>
      if i = (c.g b).toNat % (1024 / permW w) then (c.g a).toNat else laneOf (c.v d) (permW w) i) 2)) s
/-- VPERM (R125). -/
def execVperm (d a b : Reg) (k : KReg) (s : State) : Out :=
  plain (fun s => let c := s.me
    .done (s.putV d (mapLanes (c.k k) c.zm (c.v d) 32 fun i => laneOf (c.v a) 32 (laneOf (c.v b) 32 i % 32)) 2)) s
/-- VSLIDE (R125). -/
def execVslide (d a : Reg) (n : BitVec 5) (k : KReg) (s : State) : Out :=
  plain (fun s => let c := s.me
    .done (s.putV d (mapLanes (c.k k) c.zm (c.v d) 32 fun i => if i + n.toNat ≤ 31 then laneOf (c.v a) 32 (i + n.toNat) else 0) 2)) s
/-- VSEL (R125): every lane is written. -/
def execVsel (d a b : Reg) (k : KReg) (s : State) : Out :=
  plain (fun s => let c := s.me
    .done (s.putV d (vecOf 32 32 fun i => if active (c.k k) 32 i then laneOf (c.v a) 32 i else laneOf (c.v b) 32 i) 2)) s

/-! ### Predicates (R114, R126, R127) -/

/-- A predicate register named by a 5-bit field: 8 to 31 name none (R114).  DESIGN CHOICE (log 63): such a field is an own condition of step 5
of R68, after ILLEGAL_PREFIX and WATCHDOG, and not a must-be-zero field of step 1. -/
def kregOf (r : Reg) : Option KReg := if r.toNat < 8 then some (r.setWidth 3) else none

/-- A predicate result. -/
def State.putK (s : State) (d : KReg) (p : Pred) : State := s.put (.k d) (p.setWidth 1024) 1

/-- The predicate whose bit i is `f i`. -/
def predOf (f : Nat → Bool) : Pred := BitVec.ofNat 32 (ofLanes 1 (fun i => if f i then 1 else 0) 32)

/-- A lane comparison (R127): masked bits are zero. -/
def vcmp (f : BitVec 32 → BitVec 32 → Bool) (d a b : Reg) (k : KReg) (s : State) : Out :=
  plain (fun s => match kregOf d with
    | none => .trap .illegalInstruction 0
    | some kd => let c := s.me
      .done (s.putK kd (predOf fun i => active (c.k k) 32 i &&
        f (BitVec.ofNat 32 (laneOf (c.v a) 32 i)) (BitVec.ofNat 32 (laneOf (c.v b) 32 i))))) s

/-- An FP32 lane comparison (R127), with the operands that set NV. -/
def vfcmp (f : FVal → FVal → Bool) (nv : FVal → FVal → Bool) (d a b : Reg) (k : KReg) (s : State) : Out :=
  plain (fun s => match kregOf d with
    | none => .trap .illegalInstruction 0
    | some kd => let c := s.me
      let x := fun i => fp32.dec (laneOf (c.v a) 32 i)
      let y := fun i => fp32.dec (laneOf (c.v b) 32 i)
      .done ((s.raise { nv := (activeLanes (c.k k)).any fun i => nv (x i) (y i) }).putK kd
        (predOf fun i => active (c.k k) 32 i && f (x i) (y i)))) s

/-- VCMP.EQ (R127). -/
def execVcmpEq (d a b : Reg) (k : KReg) (s : State) : Out := vcmp (fun x y => x == y) d a b k s
/-- VCMP.NE (R127). -/
def execVcmpNe (d a b : Reg) (k : KReg) (s : State) : Out := vcmp (fun x y => x != y) d a b k s
/-- VCMP.LT (R127). -/
def execVcmpLt (d a b : Reg) (k : KReg) (s : State) : Out := vcmp (fun x y => x.slt y) d a b k s
/-- VCMP.LE (R127). -/
def execVcmpLe (d a b : Reg) (k : KReg) (s : State) : Out := vcmp (fun x y => x.sle y) d a b k s
/-- VCMP.LTU (R127). -/
def execVcmpLtu (d a b : Reg) (k : KReg) (s : State) : Out := vcmp (fun x y => x.ult y) d a b k s
/-- VCMP.LEU (R127). -/
def execVcmpLeu (d a b : Reg) (k : KReg) (s : State) : Out := vcmp (fun x y => x.ule y) d a b k s
/-- VFCMP.EQ (R127). -/
def execVfcmpEq (d a b : Reg) (k : KReg) (s : State) : Out := vfcmp fEq (fun x y => x.isSig || y.isSig) d a b k s
/-- VFCMP.LT (R127). -/
def execVfcmpLt (d a b : Reg) (k : KReg) (s : State) : Out := vfcmp fLt (fun x y => x.isNan || y.isNan) d a b k s
/-- VFCMP.LE (R127). -/
def execVfcmpLe (d a b : Reg) (k : KReg) (s : State) : Out := vfcmp fLe (fun x y => x.isNan || y.isNan) d a b k s
/-- VFCMP.UN (R127). -/
def execVfcmpUn (d a b : Reg) (k : KReg) (s : State) : Out := vfcmp (fun x y => x.isNan || y.isNan) (fun x y => x.isSig || y.isSig) d a b k s

/-- A predicate operation (R114, R127). -/
def klogic (f : Pred → Pred → Pred) (d a b : Reg) (s : State) : Out :=
  plain (fun s => match kregOf d, kregOf a, kregOf b with
    | some kd, some ka, some kb => .done (s.putK kd (f (s.me.k ka) (s.me.k kb)))
    | _, _, _ => .trap .illegalInstruction 0) s

/-- KAND (R127). -/
def execKand (d a b : Reg) (s : State) : Out := klogic (fun x y => x &&& y) d a b s
/-- KOR (R127). -/
def execKor (d a b : Reg) (s : State) : Out := klogic (fun x y => x ||| y) d a b s
/-- KXOR (R127). -/
def execKxor (d a b : Reg) (s : State) : Out := klogic (fun x y => x ^^^ y) d a b s
/-- KANDN (R127). -/
def execKandn (d a b : Reg) (s : State) : Out := klogic (fun x y => x &&& ~~~y) d a b s
/-- KMOV to g (R127). -/
def execKmovToG (d a : Reg) (s : State) : Out :=
  plain (fun s => match kregOf a with
    | none => .trap .illegalInstruction 0
    | some ka => .done (s.putG d ((s.me.k ka).setWidth 64))) s
/-- KMOV from g (R127). -/
def execKmovFromG (d a : Reg) (s : State) : Out :=
  plain (fun s => match kregOf d with
    | none => .trap .illegalInstruction 0
    | some kd => .done (s.putK kd ((s.me.g a).setWidth 32))) s
/-- KPOPC (R127). -/
def execKpopc (d a : Reg) (s : State) : Out :=
  plain (fun s => match kregOf a with
    | none => .trap .illegalInstruction 0
    | some ka => .done (s.putG d (BitVec.ofNat 64 (popGo ((s.me.k ka).setWidth 64) 32)))) s

/-! ### Carry chains (R128) -/

/-- VADDC (R128). -/
def execVaddc (d a b : Reg) (c : KReg) (s : State) : Out :=
  plain (fun s => let m := s.me
    let sum := fun i => laneOf (m.v a) 32 i + laneOf (m.v b) 32 i + (if (m.k c).getLsbD i then 1 else 0)
    .done ((s.put (.k c) ((predOf fun i => decide (2 ^ 32 ≤ sum i)).setWidth 1024) 2).putV d (vecOf 32 32 sum) 2)) s
/-- VSUBB (R128). -/
def execVsubb (d a b : Reg) (c : KReg) (s : State) : Out :=
  plain (fun s => let m := s.me
    let cin := fun i => if (m.k c).getLsbD i then 1 else 0
    .done ((s.put (.k c) ((predOf fun i => decide (laneOf (m.v a) 32 i < laneOf (m.v b) 32 i + cin i)).setWidth 1024) 2).putV d
      (vecOf 32 32 fun i => 2 ^ 33 + laneOf (m.v a) 32 i - laneOf (m.v b) 32 i - cin i) 2)) s

/-! ### Residue conversion (R129 to R134) -/

/-- VRNSF (R129). -/
def execVrnsf (d a b : Reg) (k : KReg) (s : State) : Out :=
  plain (fun s => let c := s.me
    let w := c.g b
    let ch := bits w 3 0
    let p := bits w 5 4
    let wide := w.getLsbD 6
    if 9 < ch then .trap .illegalInstruction 0
    else
      let n := if wide then 16 else 32
      let ew := if wide then 64 else 32
      .done (s.putV d (vecOf 8 128 fun j =>
        if 32 * p ≤ j ∧ j < 32 * p + n then
          let i := j - 32 * p
          if active (c.k k) ew i then residue (sInt (laneOf (c.v a) ew i) ew) (modulus ch)
          else if c.zm then 0 else laneOf (c.v d) 8 j
        else laneOf (c.v d) 8 j) 4)) s

/-- Whether RNSCH may be used by VRNSR (R130). -/
def rnschOk (w : Word) : Bool :=
  let kk := bits w 3 0
  let c := bits w 5 4
  decide (kk ≤ 8) && decide (c ≤ 2) && !(kk == 0 && c == 2) && decide (10 ≤ bits w 20 16) && decide (bits w 20 16 ≤ 30)
    && decide (bits w 15 8 ≠ 0)

/-- The residue of lane `i` in channel `u` as VRNSR reads it (R131), not yet reduced. -/
def rnsByte (va vb : VReg) (i u : Nat) : Nat :=
  if u = 8 then laneOf vb 8 i else if u = 9 then laneOf vb 8 (16 + i) else laneOf va 8 (16 * u + i)

/-- Class and value of lane `i` (R56, R57, R131).  DESIGN CHOICE (log 63): with K = 0 and C = 0, where no residue checks the value, a lane is
OK. -/
def rnsLane (kk c : Nat) (va vb : VReg) (i : Nat) : LaneClass × Int :=
  if kk = 0 then
    let b := sInt (laneOf va 32 i) 32
    (if c = 0 ∨ residue b 255 = rnsByte va vb i 8 % 255 then .ok else .uncorrectable, b)
  else classify kk c fun u => rnsByte va vb i u % modulus u

/-- Residues of lane `i` at or above their modulus (R37, R131). -/
def rnsInvalid (kk c : Nat) (va vb : VReg) (i : Nat) : Nat :=
  ((List.range kk ++ (List.range c).map (· + 8)).filter fun u => decide (modulus u ≤ rnsByte va vb i u)).length

/-- Status byte of a lane (R131). -/
def LaneClass.status : LaneClass → Nat
  | .ok => 0 | .corrected u => 0x40 + u | .overflow => 0x80 | .uncorrectable => 0xC0

/-- The correction counts after lanes converted and corrected (R134): the counts, the lane count, and the channels
that fail, the lowest first. -/
def corrAfter (corr : Vector Nat 10) (lanes conv : Nat) (us : List Nat) (thresh win : Nat) : Vector Nat 10 × Nat × List Nat :=
  let corr' := us.foldl (fun c u => vset c u (vget c u 0 + 1)) corr
  let lanes' := lanes + conv
  let failing := (List.range 10).filter fun u => decide (thresh ≤ vget corr' u 0)
  if failing ≠ [] then (Vector.replicate 10 0, 0, failing)
  else if 2 ^ win ≤ lanes' then (Vector.replicate 10 0, 0, [])
  else (corr', lanes', [])

/-- The tile's correction counts after a VRNSR retires, and S woken for each failing channel (R134). -/
def State.countCorrections (s : State) (conv : Nat) (us : List Nat) : State :=
  let w := s.me.rnsch
  let (corr, lanes, failing) := corrAfter s.my.corr s.my.lanes conv us (bits w 15 8) (bits w 20 16)
  failing.foldl (fun s u => s.post (.channelRemap s.cur u))
    (s.onMy fun x => { x with corr := corr, lanes := lanes, sEvents := x.sEvents ++ failing.map SEvent.channelFailure })

/-- VRNSR (R131 to R134). -/
def execVrnsr (d a b : Reg) (k : KReg) (s : State) : Out :=
  plain (fun s => let m := s.me
    if d.toNat % 2 = 1 ∨ !rnschOk m.rnsch then .trap .illegalInstruction 0
    else
      let kk := bits m.rnsch 3 0
      let c := bits m.rnsch 5 4
      let act := (List.range 16).filter (active (m.k k) 64)
      let lane := rnsLane kk c (m.v a) (m.v b)
      let mask (cl : LaneClass) : Nat := (act.filter fun i => (lane i).1 = cl).foldl (fun n i => n + 2 ^ i) 0
      if m.rnsch.getLsbD 6 && mask .uncorrectable != 0 then .trap .rnsUncorrectable (BitVec.ofNat 64 (mask .uncorrectable))
      else if m.rnsovt && mask .overflow != 0 then .trap .rnsOverflow (BitVec.ofNat 64 (mask .overflow))
      else
        let us := act.filterMap fun i => match (lane i).1 with | .corrected u => some u | _ => none
        let cnt (cl : LaneClass) : Nat := act.countP fun i => (lane i).1 = cl
        let status := vecOf 8 16 fun i => if active (m.k k) 64 i then (lane i).1.status else 0x20
        let value := mapLanes (m.k k) m.zm (m.v d) 64 fun i => (BitVec.ofInt 64 (lane i).2).toNat
        let sum := (us.getLast?).getD 0xF * 2 ^ 32 + cnt .uncorrectable * 2 ^ 24 + cnt .overflow * 2 ^ 16 + us.length * 2 ^ 8 + cnt .ok
        let s := s.onMe fun x => { x with rnsst := BitVec.ofNat 64 sum }
        let s := s.onMy fun x => ((x.bumpEvc 4 (act.foldl (fun n i => n + rnsInvalid kk c (m.v a) (m.v b) i) 0)).bumpEvc 8 us.length).bumpEvc 9 (cnt .overflow)
        let s := s.countCorrections act.length us
        .done ((s.putV d value 14).putV (d + 1) status 14)) s

end Sys2Proof.Machine
end

