-- ==== Sys2Proof/Machine/VectorFp.lean ====
section
/-! DEFINITION. Vector floating point, conversions and block formats, and FMTX (03: R69 to R71; 05: R117 to R122). -/

namespace Sys2Proof.Machine

/-- FMTX (R69): PFX takes the payload and PEND is set. -/
def execFmtx (a b : BitVec 4) (c : BitVec 3) (sc : BitVec 2) (r : BitVec 3) (t : Bool) (d : BitVec 4) (s : State) : Out :=
  plain (fun s => .done (s.onMe fun k => { k with
    pfx := a ++ b ++ c ++ sc ++ r ++ BitVec.ofBool t ++ d ++ 0#5 }.setPend true)) s

/-- Type of a VFP lane. -/
def ftyFmt : FTy → Fmt | .f32 => fp32 | .bf16 => bf16 | .f16 => fp16

/-- The outcome of a lane operation: EVC1 for a lane saturated under SAT = 1, EVC2 for an invalid operation (R117, R39). -/
def LaneOut.ofRes (r : FRes) (satd : Bool) : LaneOut := ⟨r.bits, r.fl, false, satd, r.bad, false, false⟩

/-- Whether a result under SAT = 1 was saturated: it is a largest finite number and the unsaturated one is an infinity. -/
def saturated (f : Fmt) (op : Mode → FRes) (md : Mode) : Bool :=
  md.sat && (match f.dec (op { md with sat := false }).bits with
    | .inf _ => true
    | _ => (op md).fl.of)

/-- A lane-wise floating-point effect: active lanes compute, the others merge or zero (R113, R117). -/
def vfpEffect (f : Fmt) (rounds : Bool) (rm : Rm) (sat : Bool) (d : Reg) (k : KReg) (lat : Nat)
    (op : Mode → Nat → FRes) (s : State) : Res :=
  let c := s.me
  let w := f.width
  let act := active (c.k k) w
  let n := 1024 / w
  let out := elements n act fun i =>
    let md : Mode := ⟨rm, sat, drawAt c.rngseed act i⟩
    LaneOut.ofRes (op md i) (saturated f (fun m => op m i) md)
  let s := if rounds then s.drew rm (activeBelow act n) else s
  .done (((s.tally (out.filterMap id)).putV d (mapLanes (c.k k) c.zm (c.v d) w fun i =>
    ((out.getD i none).map (·.bits)).getD 0)) lat)

/-- The number in lane `i` of the first operand. -/
def Ctx.laneF (c : Ctx) (f : Fmt) (r : Reg) (i : Nat) : FVal := f.dec (laneOf (c.v r) f.width i)

/-- The number in lane `i` of the second operand. -/
def Ctx.laneFB (c : Ctx) (f : Fmt) (x : Bool) (r : Reg) (i : Nat) : FVal := f.dec (c.laneB x r f.width i)

/-- The rounding and saturation of VFADD, VFSUB and VFMUL: from the prefix, whose other fields must be zero, else
ST.RM; none where the prefix traps ILLEGAL_PREFIX (R70). -/
def Ctx.vfpMode (c : Ctx) : Option (Rm × Bool) :=
  match c.pfxNow with
  | none => some (rmOf c.rm, false)
  | some p => if p.a = 0 ∧ p.b = 0 ∧ p.c = 0 ∧ p.scale = 0 ∧ p.delta = 0 ∧ p.rnd ≤ 5 then some (rmOf p.rnd, p.sat) else none

/-- VFADD, VFSUB, VFMUL (R117). -/
def vfpArith (op : Fmt → Mode → FVal → FVal → FRes) (d a b : Reg) (k : KReg) (t : FTy) (x : Bool) (s : State) : Out :=
  prefixed (fun s => match s.me.vfpMode with
    | none => .trap .illegalPrefix 0
    | some (rm, sat) =>
      let f := ftyFmt t
      vfpEffect f true rm sat d k 4 (fun md i => op f md (s.me.laneF f a i) (s.me.laneFB f x b i)) s) s

/-- VFADD (R117). -/
def execVfadd (d a b : Reg) (k : KReg) (t : FTy) (x : Bool) (s : State) : Out := vfpArith fAdd d a b k t x s
/-- VFSUB (R117). -/
def execVfsub (d a b : Reg) (k : KReg) (t : FTy) (x : Bool) (s : State) : Out :=
  vfpArith (fun f md x y => fAdd f md x y.neg) d a b k t x s
/-- VFMUL (R117). -/
def execVfmul (d a b : Reg) (k : KReg) (t : FTy) (x : Bool) (s : State) : Out := vfpArith fMul d a b k t x s

/-- VFMIN and VFMAX (R117). -/
def vfpMinMax (isMax : Bool) (d a b : Reg) (k : KReg) (t : FTy) (x : Bool) (s : State) : Out :=
  plain (fun s => let f := ftyFmt t
    vfpEffect f false .rne false d k 4 (fun _ i =>
      fMinMax f isMax (laneOf (s.me.v a) f.width i) (s.me.laneB x b f.width i)) s) s

/-- VFMIN (R117). -/
def execVfmin (d a b : Reg) (k : KReg) (t : FTy) (x : Bool) (s : State) : Out := vfpMinMax false d a b k t x s
/-- VFMAX (R117). -/
def execVfmax (d a b : Reg) (k : KReg) (t : FTy) (x : Bool) (s : State) : Out := vfpMinMax true d a b k t x s

/-- VFEXP2, VFLOG2, VFRCP, VFRSQ (R43, R117): round to nearest even, no prefix. -/
def vfpFun (op : Fmt → FVal → FRes) (d a : Reg) (k : KReg) (t : FTy) (s : State) : Out :=
  plain (fun s => let f := ftyFmt t
    vfpEffect f false .rne false d k 8 (fun _ i => op f (s.me.laneF f a i)) s) s

/-- VFEXP2 (R43). -/
def execVfexp2 (d a : Reg) (k : KReg) (t : FTy) (s : State) : Out := vfpFun fExp2 d a k t s
/-- VFLOG2 (R43). -/
def execVflog2 (d a : Reg) (k : KReg) (t : FTy) (s : State) : Out := vfpFun fLog2 d a k t s
/-- VFRCP (R43). -/
def execVfrcp (d a : Reg) (k : KReg) (t : FTy) (s : State) : Out := vfpFun fRcp d a k t s
/-- VFRSQ (R43). -/
def execVfrsq (d a : Reg) (k : KReg) (t : FTy) (s : State) : Out := vfpFun fRsq d a k t s

/-! ### Fused forms (R118) -/

/-- Formats, rounding and saturation of a fused form; none where the prefix traps (R70, R118). -/
def Ctx.vfmaMode (c : Ctx) : Option (Nat × Nat × Nat × Rm × Bool) :=
  match c.pfxNow with
  | none => some (0, 0, 0, rmOf c.rm, false)
  | some p =>
    if p.a ≤ 4 ∧ p.b ≤ 4 ∧ elemWidth p.a = elemWidth p.b ∧ p.c ≤ 2 ∧ elemWidth p.a ≤ elemWidth p.c ∧ p.scale = 0 ∧
        p.delta = 0 ∧ p.rnd ≤ 5 then some (p.a, p.b, p.c, rmOf p.rnd, p.sat)
    else none

/-- One lane of a fused form (R118): the products and the addend summed exactly, negated for VFNMA, rounded once.  DEDUCED (log 23): the
rounding of the sum into BF16 or FP16 is an element conversion of R39 and counts its events; into FP32 it counts EVC2 alone. -/
def fusedLane (fc : Fmt) (counts : Bool) (md : Mode) (negAll : Bool) (prods : List (FVal × FVal)) (c : FVal) : LaneOut :=
  let ps := prods.map fun (x, y) => mulExact x y
  let opNan := prods.any fun (x, y) => x.isNan || y.isNan
  let sig := c.isSig || prods.any fun (x, y) => x.isSig || y.isSig
  let terms := ps.filterMap id ++ [c]
  let nanOut (nv bad : Bool) : LaneOut := { bits := fc.nan.getD 0, fl := { nv := nv }, nan := bad }
  if ps.any (·.isNone) then nanOut true (!opNan && !c.isNan)
  else if opNan || c.isNan then nanOut sig false
  else if bothInf terms then nanOut true true
  else
    let u := sumTerms md.rm terms
    LaneOut.ofRounded (fc.round md.rm md.sat md.draw (if negAll then u.neg else u)) counts

/-- VFMA, VFMS, VFNMA (R118). -/
def vfused (negAll negC : Bool) (d a b c : Reg) (k : KReg) (s : State) : Out :=
  prefixed (fun s => let m := s.me
    match m.vfmaMode with
    | none => .trap .illegalPrefix 0
    | some (ca, cb, cc, rm, sat) =>
      let wa := elemWidth ca
      let wc := elemWidth cc
      let r := wc / wa
      let fc := (fmtOf cc).getD fp32
      let act := active (m.k k) wc
      let n := 1024 / wc
      let out := elements n act fun i =>
        let prods := (List.range r).map fun t =>
          (decElem ca (laneOf (m.v a) wa (i * r + t)), decElem cb (laneOf (m.v b) wa (i * r + t)))
        let cv := fc.dec (laneOf (m.v c) wc i)
        fusedLane fc (cc != 0) ⟨rm, sat, drawAt m.rngseed act i⟩ negAll prods (if negC then cv.neg else cv)
      let s := (s.drew rm (activeBelow act n)).tally (out.filterMap id)
      .done (s.putV d (mapLanes (m.k k) m.zm (m.v d) wc fun i => ((out.getD i none).map (·.bits)).getD 0) 4)) s

/-- VFMA (R118). -/
def execVfma (d a b c : Reg) (k : KReg) (s : State) : Out := vfused false false d a b c k s
/-- VFMS (R118). -/
def execVfms (d a b c : Reg) (k : KReg) (s : State) : Out := vfused false true d a b c k s
/-- VFNMA (R118). -/
def execVfnma (d a b c : Reg) (k : KReg) (s : State) : Out := vfused true false d a b c k s

/-! ### Conversions (R119, R120) -/

/-- First source and destination element of part P of `n` elements; none where the range lies beyond the register (R119). -/
def partOf (ea eb n p : Nat) : Option (Nat × Nat) :=
  if max ea eb < (p + 1) * n then none else some (if ea > n then p * n else 0, if eb > n then p * n else 0)

/-- Whether position `t` of `n` converted elements is active (R113). -/
def activePart (p : Pred) (n t : Nat) : Bool := p.getLsbD (32 * t / n)

/-- A register with `n` elements of width `w` written from element `first`: an element given none merges or is zeroed;
bits above 128 elements narrower than a byte are zero (R112, R113). -/
def writePart (zero : Bool) (old : VReg) (w first n : Nat) (out : Nat → Option Nat) : VReg :=
  vecOf w (if w < 8 then 128 else 1024 / w) fun j =>
    if first ≤ j ∧ j < first + n then
      match out (j - first) with
      | some b => b
      | none => if zero then 0 else laneOf old w j
    else laneOf old w j

/-- VCVT (R120): without a prefix it traps ILLEGAL_PREFIX (R119). -/
def execVcvt (d a : Reg) (z : Bool) (p : BitVec 2) (k : KReg) (s : State) : Out :=
  prefixed (fun s => let m := s.me
    match m.pfxNow with
    | none => .trap .illegalPrefix 0
    | some f =>
      let okCode (c : Nat) : Bool := decide (c ≤ 10) || c == 15
      let n := min (elemCount f.a) (elemCount f.b)
      match okCode f.a && okCode f.b && f.c == 0 && f.scale == 0 && f.delta == 0 && decide (f.rnd ≤ 5),
          partOf (elemCount f.a) (elemCount f.b) n p.toNat with
      | true, some (src, dst) =>
        let wa := elemWidth f.a
        let act := activePart (m.k k) n
        let out := elements n act fun t =>
          let x := laneOf (m.v a) wa (src + t)
          { LaneOut.ofRounded (encElem f.b ⟨rmOf f.rnd, f.sat, drawAt m.rngseed act t⟩ (decElem f.a x))
              (decide (1 ≤ f.b ∧ f.b ≤ 14)) with inval := invalidElem f.a x }
        let s := (s.drew (rmOf f.rnd) (activeBelow act n)).tally (out.filterMap id)
        .done (s.putV d (writePart (m.zm || z) (m.v d) (elemWidth f.b) dst n fun t => (out.getD t none).map (·.bits)) 4)
      | _, _ => .trap .illegalPrefix 0) s

/-! ### Block formats (R45 to R48, R121, R122) -/

/-- One block as a quantizer leaves it: its 32 elements and its E_HI and E_LO, or its scale in E_HI. -/
structure Block where
  elems : List LaneOut
  ehi : Nat
  elo : Nat
  deriving DecidableEq, Repr

/-- Largest finite FP32 number, as an infinity counts in a block (R47). -/
def fp32Max : FVal := .fin false (2 ^ 24 - 1) 104

/-- ⌊log2⌋ of a magnitude, an infinity counted as the FP32 largest finite; none for zero. -/
def floorLog2 (v : FVal) : Option Int :=
  match v with
  | .inf _ => some 127
  | .fin _ m e => if m = 0 then none else some (e + (m.log2 : Nat))
  | .nan _ => none

/-- The largest of a list of exponents. -/
def maxLog2 (l : List FVal) : Option Int :=
  (l.filterMap floorLog2).foldl (fun m x => some (match m with | none => x | some y => max x y)) none

/-- Clamp (R60). -/
def clamp (x lo hi : Int) : Int := max lo (min x hi)

/-- QuantDBF over the elements given (none: not valid, encoded SEL 1, S 0, M 0), with one draw for each (R47).  DEDUCED (log 23): in a block with no
valid element, too, each masked element is encoded so (R121 has such a block encode as all zero). -/
def quantDbf (code delta : Nat) (rm : Rm) (sat : Bool) (xs : List (Option (FVal × Nat))) : Block :=
  let (mb, bias, mmax, dflt) := dbfParams code
  let dl := if delta = 0 then dflt else delta
  let valid := xs.filterMap (fun x => x.map (·.1))
  let isInf (v : FVal) : Bool := match v with | .inf _ => true | _ => false
  if valid.any (·.isNan) || (!sat && valid.any isInf) then
    -- R39: counted once for the block when no valid input is a NaN
    let made := !valid.any (·.isNan)
    ⟨(List.range 32).map fun i => { bits := 0, fl := { nv := i == 0 && valid.any (·.isSig) }, nan := i == 0 && made }, 0xFF, 0xFF⟩
  else
    let (ehi, elo) : Int × Int := match maxLog2 valid with
      | none => (0, 0)
      | some l => let h := clamp (l + 127) 1 254; (h, max (h - dl) 0)
    let enc (x : Option (FVal × Nat)) : LaneOut :=
      match x with
      | none => { bits := 2 ^ (mb + 1) }
      | some (.fin neg m e, draw) =>
        let lo := shiftRound rm draw neg m (e + bias - elo) 0
        let sgn := if neg then 2 ^ mb else 0
        if lo.1 ≤ mmax then { bits := 2 ^ (mb + 1) + sgn + lo.1, fl := { nx := lo.2 }, under := m != 0 && lo.1 == 0 }
        else
          let hi := shiftRound rm draw neg m (e + bias - ehi) 0
          if hi.1 ≤ mmax then { bits := sgn + hi.1, fl := { nx := hi.2 }, under := m != 0 && hi.1 == 0 }
          else { bits := sgn + mmax, fl := { nx := true }, ovf := true, satd := true }
      | some (v, _) => { bits := (if v.sign then 2 ^ mb else 0) + mmax, fl := { nx := true }, satd := true }
    ⟨xs.map enc, ehi.toNat, elo.toNat⟩

/-- Whether the elements of a block are rounded (R47, R48): no valid one is a NaN nor, into DBF without SAT, an infinity.  A block that is NaN
as a whole rounds nothing and takes no draw (R41). -/
def blockRounds (dbf sat : Bool) (l : List (Option FVal)) : Bool :=
  (l.filterMap id).all fun v => match v with | .nan _ => false | .inf _ => !dbf || sat | .fin _ _ _ => true

/-- Quantization into an MX block (R48); in one that is NaN as a whole each valid element that was none counts as made (R39). -/
def quantMx (code : Nat) (rm : Rm) (xs : List (Option (FVal × Nat))) : Block :=
  let valid := xs.filterMap (fun x => x.map (·.1))
  if valid.any (·.isNan) then
    ⟨xs.zipIdx.map fun (x, i) => { bits := 0, fl := { nv := i == 0 && valid.any (·.isSig) },
                                   nan := (x.map fun v => !v.1.isNan).getD false }, 0xFF, 0⟩
  else
    let sc : Nat := match maxLog2 valid with
      | none => 0
      | some l => (clamp (l - mxP code + 127) 0 254).toNat
    let enc (x : Option (FVal × Nat)) : LaneOut :=
      match x with
      | none => { bits := 0 }
      | some (v, draw) =>
        let v' := match v with | .fin n m e => FVal.fin n m (e + 127 - sc) | w => w
        LaneOut.ofRounded (encElem code ⟨rm, true, draw⟩ v') true
    ⟨xs.map enc, sc, 0⟩

/-- A side field with the 16 bits of one block replaced (R13). -/
def setBlockExp (vx : Word) (j ehi elo : Nat) : Word := setBits vx (16 * j + 15) (16 * j) (elo * 256 + ehi)

/-- VQBLK (R121): without a prefix it traps ILLEGAL_PREFIX. -/
def execVqblk (d a : Reg) (p : BitVec 2) (k : KReg) (s : State) : Out :=
  prefixed (fun s => let m := s.me
    match m.pfxNow with
    | none => .trap .illegalPrefix 0
    | some f =>
      let mx := decide (3 ≤ f.b ∧ f.b ≤ 9) && f.scale == 1 && f.delta == 0
      let dbf := decide (12 ≤ f.b ∧ f.b ≤ 14) && (f.scale == 0 || f.scale == 3)
      let n := elemCount f.a
      if f.a ≤ 2 ∧ (mx || dbf) ∧ f.c = 0 ∧ f.rnd ≤ 5 ∧ (p.toNat + 1) * n ≤ 128 then
        let wa := elemWidth f.a
        let wb := elemWidth f.b
        let act := activePart (m.k k) n
        let val (t : Nat) : Option FVal := if act t then some (decElem f.a (laneOf (m.v a) wa t)) else none
        let live (t : Nat) : Bool := act t && blockRounds dbf f.sat ((List.range 32).map fun i => val (t / 32 * 32 + i))
        let elem (t : Nat) : Option (FVal × Nat) := (val t).map fun v => (v, drawAt m.rngseed live t)
        let blocks := (List.range (n / 32)).map fun j =>
          let xs := (List.range 32).map fun i => elem (32 * j + i)
          if dbf then quantDbf f.b f.delta (rmOf f.rnd) f.sat xs else quantMx f.b (rmOf f.rnd) xs
        let outs := (blocks.map (·.elems)).flatten
        let s := (s.drew (rmOf f.rnd) (activeBelow live n)).tally outs
        let v := writePart false (m.v d) wb (p.toNat * n) n fun t => some ((outs.getD t { bits := 0 }).bits)
        let vx := ((List.range (n / 32)).zip blocks).foldl (fun w (j, b) => setBlockExp w (p.toNat * n / 32 + j) b.ehi b.elo) (m.vx d)
        .done ((s.putV d v 4).put (.vx d) (vx.setWidth 1024) 4)
      else .trap .illegalPrefix 0) s

/-- VDQBLK (R122): without a prefix it traps ILLEGAL_PREFIX. -/
def execVdqblk (d a : Reg) (z : Bool) (p : BitVec 2) (k : KReg) (s : State) : Out :=
  prefixed (fun s => let m := s.me
    match m.pfxNow with
    | none => .trap .illegalPrefix 0
    | some f =>
      let mx := decide (3 ≤ f.a ∧ f.a ≤ 9) && f.scale == 1
      let dbf := decide (12 ≤ f.a ∧ f.a ≤ 14) && (f.scale == 0 || f.scale == 3)
      let n := elemCount f.b
      if (mx || dbf) ∧ f.b ≤ 2 ∧ f.c = 0 ∧ f.delta = 0 ∧ f.rnd ≤ 5 ∧ (p.toNat + 1) * n ≤ 128 then
        let src := p.toNat * n
        let wa := elemWidth f.a
        let act := activePart (m.k k) n
        let out := elements n act fun t =>
          let i := src + t
          let x := laneOf (m.v a) wa i
          let e := bits (m.vx a) (16 * (i / 32) + 15) (16 * (i / 32))
          let v := if dbf then decDbf f.a (e % 256) (e / 256) x else decMx f.a (e % 256) x
          LaneOut.ofRounded (encElem f.b ⟨rmOf f.rnd, f.sat, drawAt m.rngseed act t⟩ v) (f.b != 0)
        let s := (s.drew (rmOf f.rnd) (activeBelow act n)).tally (out.filterMap id)
        .done (s.putV d (writePart (m.zm || z) (m.v d) (elemWidth f.b) 0 n fun t => (out.getD t none).map (·.bits)) 4)
      else .trap .illegalPrefix 0) s

end Sys2Proof.Machine
end

