-- ==== Sys2Proof/Machine/Marimba.lean ====
section
/-! DEFINITION. The Marimba sequencer (13: R305 to R313; 14: R337 to R342; 02: R49 to R53): a run accepted or refused, the
words its circuits carry, one block update of a tile, and the end of a run; and the switch of a slot phase. -/

namespace Sys2Proof.Machine

/-! ### The descriptor (R340) -/

/-- Field [hi:lo] of doubleword `w` of a descriptor. -/
def dwf (dws : List Word) (w hi lo : Nat) : Nat := bits (dws.getD w 0) hi lo

/-- AFMT. -/
def Run.afmt (r : Run) : Nat := dwf r.dws 0 63 60
/-- BFMT. -/
def Run.bfmt (r : Run) : Nat := dwf r.dws 0 59 56
/-- ACC. -/
def Run.acc (r : Run) : Nat := dwf r.dws 0 55 53
/-- MODC. -/
def Run.modc (r : Run) : Nat := dwf r.dws 0 52 49
/-- SCALE. -/
def Run.scale (r : Run) : Nat := dwf r.dws 0 48 47
/-- RND. -/
def Run.rnd (r : Run) : Nat := dwf r.dws 0 46 44
/-- SAT. -/
def Run.sat (r : Run) : Bool := dwf r.dws 0 43 43 == 1
/-- ZERO. -/
def Run.zero (r : Run) : Bool := dwf r.dws 0 38 38 == 1
/-- ROLE west. -/
def Run.west (r : Run) : Bool := dwf r.dws 0 36 36 == 1
/-- ROLE north. -/
def Run.north (r : Run) : Bool := dwf r.dws 0 37 37 == 1
/-- PHASE. -/
def Run.phase (r : Run) : Nat := dwf r.dws 0 35 32
/-- P. -/
def Run.p (r : Run) : Nat := dwf r.dws 0 31 26
/-- Q. -/
def Run.q (r : Run) : Nat := dwf r.dws 0 25 20
/-- I. -/
def Run.i (r : Run) : Nat := dwf r.dws 0 19 15
/-- J. -/
def Run.j (r : Run) : Nat := dwf r.dws 0 14 10
/-- OFMT. -/
def Run.ofmt (r : Run) : Nat := dwf r.dws 0 9 6
/-- K. -/
def Run.k (r : Run) : Nat := dwf r.dws 1 63 43
/-- KV. -/
def Run.kv (r : Run) : Nat := dwf r.dws 1 42 22
/-- VR. -/
def Run.vr (r : Run) : Nat := dwf r.dws 1 16 11
/-- VC. -/
def Run.vc (r : Run) : Nat := dwf r.dws 1 10 5
/-- ACCP. -/
def Run.accp (r : Run) : Nat := dwf r.dws 6 18 0
/-- OUTP. -/
def Run.outp (r : Run) : Nat := dwf r.dws 6 50 32

/-- One operand side of a run. -/
structure MmSide where
  isA : Bool
  fmt : Nat
  base : Nat
  stride : Nat
  scl : Nat
  valid : Nat
  deriving DecidableEq, Repr

/-- The A side (R341). -/
def Run.sideA (r : Run) : MmSide := ⟨true, r.afmt, dwf r.dws 3 18 0, dwf r.dws 3 63 32, dwf r.dws 5 18 0, r.vr⟩
/-- The B side (R341). -/
def Run.sideB (r : Run) : MmSide := ⟨false, r.bfmt, dwf r.dws 4 18 0, dwf r.dws 4 63 32, dwf r.dws 5 50 32, r.vc⟩
/-- The sides this tile injects (R306). -/
def Run.sides (r : Run) : List MmSide := (if r.west then [r.sideA] else []) ++ (if r.north then [r.sideB] else [])

/-- Scale mode of a side: codes 12 to 14 carry their own exponents under mode 0 too (R49). -/
def modeOf (scale fmt : Nat) : Nat := if 12 ≤ fmt ∧ fmt ≤ 14 then 3 else scale

/-- Bytes of scales per K block: one E8M0 scale or one pair of exponents for each of 32 rows or columns (R341). -/
def sclBytes (mode : Nat) : Nat := if mode = 1 then 32 else if mode = 3 then 64 else 0

/-- Block step L (R308). -/
def Run.step (r : Run) : Nat :=
  let w := max (elemWidth r.afmt) (elemWidth r.bfmt)
  if 16 ≤ w then 128 else if 6 ≤ w then 32 else 16

/-- ρ(k) (R309). -/
def Run.rho (r : Run) (k : Nat) : Nat := if r.step = 128 then 4 * k else if r.step = 32 then k else k / 2

/-- Modulus of a run with ACC = MOD (R54, R307): 0 for the binary mode. -/
def Run.mod (r : Run) : Nat := if r.acc = 4 ∧ r.modc ≠ 0 then modulus (r.modc - 1) else 0

/-- K blocks of a run. -/
def Run.blocks (r : Run) : Nat := r.k / 32

/-- Beat of the update of block `b` on this tile (R310). -/
def Run.blockBeat (r : Run) (b : Nat) : Nat := r.start + (b + 1 - r.base) * r.step + r.i + r.j

/-- Beat of a run's token (R311). -/
def Run.tokenBeat (r : Run) : Nat := r.start + (r.blocks - r.base) * r.step + r.i + r.j + (if r.ofmt = 0 then 1 else 33)

/-- The block boundary at which a run stops when its tile (0,0) is stopped at a beat (R313). -/
def Run.boundary (r : Run) (beat : Nat) : Nat := r.base + (beat - r.start + r.step - 1) / r.step

/-- Whether a run has come to the boundary it is to stop at (R313). -/
def Run.atStop (r : Run) : Bool := match r.stopAt with | some n => decide (n ≤ r.prog) && decide (n < r.blocks) | none => false

/-- Whether a killed run ends at its boundary at a beat: after the last update before it, or in its start beat (R313). -/
def Run.endsKilled (r : Run) (beat : Nat) : Bool :=
  r.killed && r.atStop && decide (r.start + (r.prog - r.base) * r.step + r.i + r.j ≤ beat)

/-- Whether a run's rectangle uses circuits (R341). -/
def Run.wide (r : Run) : Bool := decide (1 < r.p * r.q)

/-- The descriptor after a pending prefix (R339). -/
def mmPrefixed (dws : List Word) (p : Option (BitVec 26)) : List Word :=
  match p with
  | none => dws
  | some w =>
    let f := pfxOf w
    let d := dws.getD 0 0
    let d := setBits (setBits (setBits (setBits d 63 60 f.a) 59 56 f.b) 55 53 f.c) 48 47 f.scale
    let d := setBits (setBits (setBits d 46 44 f.rnd) 43 43 (bitN f.sat)) 42 39 f.delta
    d :: dws.drop 1

/-! ### Acceptance (R305, R307, R312, R342) -/

/-- Whether the formats form a combination of R307 with scale modes of R49. -/
def Run.formatsOk (r : Run) : Bool :=
  let both (f : Nat → Bool) : Bool := f r.afmt && f r.bfmt
  let int (c : Nat) : Bool := decide (8 ≤ c ∧ c ≤ 10)
  match r.acc with
  | 0 => both (fun c => decide ((1 ≤ c ∧ c ≤ 7) ∨ (12 ≤ c ∧ c ≤ 14))) && both (scaleOk r.scale)
  | 3 => both int && r.scale == 0
  | 4 => (if r.modc = 0 then both int else both (fun c => decide (8 ≤ c ∧ c ≤ 11))) && r.scale == 0
  | _ => false

/-- Whether the reserved fields of a descriptor are zero. -/
def mmReservedOk (dws : List Word) : Bool :=
  [(0, 5, 0), (1, 21, 17), (1, 4, 0), (3, 31, 19), (4, 31, 19), (5, 63, 51), (5, 31, 19), (6, 63, 51), (6, 31, 19)].all
    fun (w, hi, lo) => dwf dws w hi lo == 0

/-- Whether a side's addresses are aligned and its stride long enough (R342). -/
def MmSide.ok (m : MmSide) (scale : Nat) : Bool :=
  let a := sclBytes (modeOf scale m.fmt)
  m.base % 8 == 0 && m.stride % 8 == 0 && decide (4 * elemWidth m.fmt ≤ m.stride) && (a == 0 || m.scl % a == 0)

/-- Whether a run passes the checks of R342 that do not depend on time. -/
def Run.ok (r : Run) : Bool :=
  mmReservedOk r.dws && decide (1 ≤ r.p ∧ r.p ≤ 32 ∧ 1 ≤ r.q ∧ r.q ≤ 32 ∧ r.i < r.p ∧ r.j < r.q)
    && decide (r.k % 32 = 0 ∧ 32 ≤ r.k ∧ r.k ≤ 2 ^ 20 ∧ 1 ≤ r.kv ∧ r.kv ≤ r.k)
    && decide (1 ≤ r.vr ∧ r.vr ≤ 32 ∧ 1 ≤ r.vc ∧ r.vc ≤ 32)
    && r.west == (r.j == 0) && r.north == (r.i == 0) && r.formatsOk
    && decide (r.modc ≤ 10) && (r.modc == 0 || r.acc == 4) && decide (r.rnd ≤ 5) && dwf r.dws 0 42 39 == 0
    && !(12 ≤ r.ofmt && r.ofmt ≤ 14) && !(r.ofmt == 11 && r.acc != 4)
    && r.sides.all (·.ok r.scale) && r.accp % 4096 == 0 && r.outp % 128 == 0

/-- Whether a run accepted at a beat keeps the timing rules (R305, R312, R342). -/
def Run.timely (r : Run) (x : Tile) (beat : Nat) : Bool :=
  decide (beat + 8 ≤ r.start) && (match x.running with | some q => decide (q.tokenBeat ≤ r.start) | none => true)
    && (!r.wide || r.phase == x.active || decide ((beat / 256 + 1) * 256 + 1 ≤ r.start))

/-- The byte ranges a run touches (R341, R342). -/
def Run.areas (r : Run) : List (Nat × Nat) :=
  (r.sides.flatMap fun m => (List.range r.kv).map fun k => (m.base + k * m.stride, 4 * elemWidth m.fmt))
    ++ (r.sides.filterMap fun m =>
      let n := sclBytes (modeOf r.scale m.fmt)
      if n = 0 then none else some (m.scl, n * ((r.kv + 31) / 32)))
    ++ [(r.accp, 4096)] ++ (if r.ofmt = 0 then [] else [(r.outp, 4 * elemWidth r.ofmt * r.vr)])

/-- A run that is refused, or ends: its code is LAST, and its token is written (R343, R287). -/
def State.mmDone (s : State) (t : Nat) (r : AsyncReq) (code : Nat) : State :=
  (s.onTile t fun x => { x with last := code }).writeToken t r.ctx r.tok code

/-- A waiting MMRUN request of a tile is looked at, when the sequencer has room for it (R305). -/
def State.nextRun (s : State) (t : Nat) : State :=
  let x := s.tile t
  if (x.asyncQ.any (·.op == .mmrun)) && !(x.running.isSome && x.queued.isSome) then s.postOnce (.mmrunAccept t) else s

/-- MMRUN_ACCEPT (R305, R339, R342): the oldest MMRUN request of tile `t`, if the sequencer has room; then the next is looked at. -/
def execMmrunAccept (t : Nat) (s : State) : Out :=
  .next (
    let x := s.tile t
    if x.running.isSome && x.queued.isSome then s
    else match x.takeReq (· == .mmrun) with
    | none => s
    | some (q, x') =>
      if x.frozen then s.post (.mmrunAccept t)
      else
        let s := s.setTile t x'
        let a := q.x.toNat
        let refuse (s : State) (n : Nat) : State := (s.mmDone t q n).nextRun t
        if !s.coreStill t a 64 then refuse s 1
        else if x.spPoisoned a 64 then refuse s 4
        else
          let dws := mmPrefixed ((List.range 8).map fun i => BitVec.ofNat 64 (x.sp.le (a + 8 * i) 8)) q.pfx
          let seed := dws.getD 7 0
          let r : Run := ⟨q, dws, q.y.setWidth 32, (q.y >>> 32).setWidth 32, (dws.getD 2 0).toNat, 0, 0, false, none, x.armed 1,
            if seed = 0 then 1 else seed, []⟩
          if !(r.ok && r.timely x s.beat) then refuse s 4
          else match s.portCheck t q.dom .mm r.areas with
            | some n => refuse (s.countDenied t n) n
            | none =>
              let holds := holdsOf t r.areas
              let r := { r with holds := holds }
              ((s.hold holds).onTile t fun x =>
                let x := if r.wide && r.phase != x.active then x.selectPhase r.phase else x
                if x.running.isNone then { x with running := some r } else { x with queued := some r }).nextRun t)

/-! ### Operands (R309, R341) -/

/-- What stands for an element that enters as zero (R341, R53). -/
def zeroElem : Nat := 2 ^ 32

/-- Bits [w·i+w−1 : w·i] of a string of bytes (R33). -/
def bitElem (bs : List Byte) (w i : Nat) : Nat := leNat bs / 2 ^ (w * i) % 2 ^ w

/-- Vector `k` of a side as its tile injects it: none where a poisoned doubleword is met (R374). -/
def Run.vector (r : Run) (x : Tile) (m : MmSide) (k : Nat) : Option (List Nat × List Nat) :=
  let w := elemWidth m.fmt
  let a := m.base + k * m.stride
  let mode := modeOf r.scale m.fmt
  let n := sclBytes mode
  let sa := m.scl + n * (k / 32)
  if r.kv ≤ k then some (List.replicate 32 zeroElem, [])
  else if x.spPoisoned a (4 * w) || (n != 0 && x.spPoisoned sa n) then none
  else
    let bs := x.sp.getList a (4 * w)
    some ((List.range 32).map fun e => if e < m.valid then bitElem bs w e else zeroElem,
      if mode = 1 then (List.range 32).map fun e => x.sp.le (sa + e) 1
      else if mode = 3 then (List.range 32).map fun e => x.sp.le (sa + 2 * e) 2 else [])

/-- The word a side injects as vector `k`, with its beat (R309, R312). -/
def Run.injection (r : Run) (x : Tile) (m : MmSide) (k : Nat) : Injection :=
  let beat := r.start + r.rho (k - 32 * r.base) + (if m.isA then r.i else r.j)
  match r.vector x m k with
  | some (es, sc) => ⟨m.isA, beat, es, sc⟩
  | none => ⟨m.isA, beat, [], []⟩

/-- Invalid elements among those an injected word carries (R37). -/
def Run.invalidIn (r : Run) (m : MmSide) (w : Injection) : Nat :=
  w.elems.countP fun e => e != zeroElem && ((m.fmt == 10 && e == 2) || (m.fmt == 11 && r.mod != 0 && decide (r.mod ≤ e)))

/-- The words a tile injects for block `b`. -/
def Run.injections (r : Run) (x : Tile) (b : Nat) : List (MmSide × Injection) :=
  r.sides.flatMap fun m => (List.range 32).map fun k => (m, r.injection x m (32 * b + k))

/-- The 256 slot-table entries of the active phase. -/
def Tile.activeTable (x : Tile) : List (BitVec 16) := (List.range 256).map fun e => x.slotEntry x.active e

/-- The slot-table entry a tile uses at a beat: of its active phase, or of the phase that was active before the first switch since then, as
its table stood (R180, R338). -/
def Tile.entryAt (x : Tile) (beat : Nat) : BitVec 16 :=
  match x.past.reverse.find? fun p => decide (beat < p.1) with
  | some (_, es) => es.getD (beat % 256) 0
  | none => x.slotEntry x.active (beat % 256)

/-- Source code of output `o` (0 N, 1 E, 2 S, 3 W) of a tile at a beat (R337). -/
def Tile.slotSource (x : Tile) (o beat : Nat) : Nat := (x.entryAt beat).toNat / 2 ^ (3 * o) % 8

/-- The numbers of the vectors a run injects at a beat at the given distance from its edge's first (R309), of blocks it has not completed. -/
def Run.vectorsAt (r : Run) (lag beat : Nat) : List Nat :=
  if beat < r.start + lag then []
  else
    let d := beat - (r.start + lag)
    let ks := if r.step = 128 then (if d % 4 = 0 then [d / 4] else []) else if r.step = 32 then [d] else [2 * d, 2 * d + 1]
    let stop := match r.stopAt with | some n => min n r.blocks | none => r.blocks
    (ks.map (32 * r.base + ·)).filter fun k => decide (32 * r.prog ≤ k ∧ k < 32 * stop)

/-- The words a tile injects at a beat (R309, R180): of the blocks completed, and of the running run's block under way. -/
def Tile.wordsAt (x : Tile) (isA : Bool) (beat : Nat) : List Injection :=
  (x.injected.filter fun w => w.isA == isA && w.beat == beat) ++ match x.running with
    | none => []
    | some r => (r.sides.filter (·.isA == isA)).flatMap fun m =>
        (r.vectorsAt (if isA then r.i else r.j) beat).map fun k => r.injection x m k

/-- The words of the blocks under way that the running run of a tile has injected up to a beat (R309, R312). -/
def Tile.underWay (x : Tile) (beat : Nat) : List Injection :=
  match x.running with
  | none => []
  | some r =>
    let stop := match r.stopAt with | some n => min n r.blocks | none => r.blocks
    ([r.prog, r.prog + 1].filter fun b => decide (b < stop)).flatMap fun b =>
      ((r.injections x b).map Prod.snd).filter fun w => decide (w.beat ≤ beat)

/-- The neighbour an input port leads to and the output of it that feeds the port: ports are 1 N, 2 E, 3 S, 4 W. -/
def feeder (t port : Nat) : Nat × Nat := (neighbour t (port - 1), (port + 1) % 4)

/-- The words that reach input `port` of a tile at a beat by the circuits (R180, R181, R337); `fuel`, a beat more than have passed, bounds the
hops. -/
def State.circuit (s : State) : Nat → Nat → Nat → Nat → List Injection
  | 0, _, _, _ => []
  | fuel + 1, t, port, beat =>
    let (nb, o) := feeder t port
    let y := s.tile nb
    if y.dom != (s.tile t).dom then []
    else match y.slotSource o beat with
      | 0 => []
      | 5 => if beat = 0 then [] else y.wordsAt (o == 1 || o == 3) (beat - 1)
      | p => s.circuit fuel nb p (beat - 1)

/-- Vector `k` of a side as tile `t` of a run takes it (R309, R337): none for an invalid word. -/
def State.operand (s : State) (t : Nat) (r : Run) (isA : Bool) (k : Nat) : Option Injection :=
  let beat := r.start + r.rho (k - 32 * r.base) + r.i + r.j
  let own := if isA then r.j == 0 else r.i == 0
  let words := if own then (s.tile t).injected.filter fun w => w.isA == isA && w.beat == beat
    else s.circuit (beat + 1) t (if isA then 4 else 1) beat
  match words[if r.step = 16 then k % 2 else 0]? with
  | some w => if w.elems = [] then none else some w
  | none => none

/-! ### One block (R50, R51, R310) -/

/-- An element of an operand under its scale mode (R45, R48). -/
def mmElem (fmt mode e scl : Nat) : FVal :=
  if e = zeroElem then .fin false 0 0
  else if mode = 3 then decDbf fmt (scl % 256) (scl / 256) e
  else if mode = 1 then decMx fmt scl e
  else decElem fmt e

/-- Truncation of a product toward zero to a multiple of 2^q (R51). -/
def truncTo (q : Int) (v : FVal) : FVal :=
  match v with
  | .fin n m e => if q ≤ e then v else .fin n (m / 2 ^ (q - e).toNat) q
  | v => v

/-- The block sum of floating products (R50, R51): exact when `exact`, else under the window rule. -/
def blockSum (exact : Bool) (ps : List (Option FVal)) : FVal :=
  let l := ps.filterMap id
  if ps.any (·.isNone) || l.any (·.isNan) || bothInf l then .nan false
  else
    let top := maxLog2 l
    match top with
    | none => sumTerms .rne l
    | some e =>
      if l.any (fun v => match v with | .inf _ => true | _ => false) || exact then sumTerms .rne l
      else
        let (n, q) := sumFin (finites (l.map (truncTo (e - 63))))
        .fin (decide (n < 0)) n.natAbs q

/-- Integer value of an operand element: RES8 reduced in a modular run (R37). -/
def mmInt (fmt m e : Nat) : Int :=
  if e = zeroElem then 0
  else if fmt = 11 then ((if m = 0 then e else e % m : Nat) : Int)
  else if fmt = 10 then (if e = 1 then 1 else if e = 3 then -1 else 0)
  else sInt e (elemWidth fmt)

/-- A cell after a block, from its old word and the 32 pairs of operand elements with their scales (R310).  DESIGN CHOICE (log 58): a block with
a double-block format on one side only is summed under the window rule of R51, as one of R50 with none. -/
def Run.cellAfter (r : Run) (old : Nat) (ab : List ((Nat × Nat) × (Nat × Nat))) : Nat :=
  if r.acc = 0 then
    let ma := modeOf r.scale r.afmt
    let mb := modeOf r.scale r.bfmt
    let ps := ab.map fun ((a, sa), (b, sb)) => mulExact (mmElem r.afmt ma a sa) (mmElem r.bfmt mb b sb)
    (fAdd fp32 modeRne (fp32.dec old) (blockSum (ma == 3 && mb == 3) ps)).bits
  else
    let sum : Int := ab.foldl (fun n ((a, _), (b, _)) => n + mmInt r.afmt r.mod a * mmInt r.bfmt r.mod b) 0
    if r.mod = 0 then ((old + sum) % 2 ^ 32).toNat else ((old + sum) % (r.mod : Int)).toNat

/-- Address of a cell (R306). -/
def Run.cellAt (r : Run) (i j : Nat) : Nat := r.accp + 128 * i + 4 * j

/-- The cells a run writes, ascending (R341). -/
def Run.cells (r : Run) : List (Nat × Nat) := (List.range r.vr).flatMap fun i => (List.range r.vc).map fun j => (i, j)

/-- A tile after one block update of a run (R310), with the injection of R407 for UNIT 1. -/
def Run.update (r : Run) (b : Nat) (as bs : List Injection) (x : Tile) : Tile :=
  let new := r.cells.map fun (i, j) =>
    let old := if b = 0 ∧ r.zero = true then 0 else x.sp.le (r.cellAt i j) 4
    ((i, j), r.cellAfter old ((as.zip bs).map fun (u, v) =>
      ((u.elems.getD i zeroElem, u.scales.getD i 0), (v.elems.getD j zeroElem, v.scales.getD j 0))))
  let x := new.foldl (fun x ((i, j), w) => x.spPut (r.cellAt i j) (leBytes 4 w)) x
  let a := bits x.errinj 18 0
  if r.inject && x.armed 1 && r.cells.contains (a / 32, a % 32) then
    let p := r.cellAt (a / 32) (a % 32)
    match x.injection 1 a with
    | (y, some 0) => y.spPut p (leBytes 4 (y.sp.le p 4 ^^^ 2 ^ y.injectBit))
    | (y, some 2) => { y with spPoison := p / 8 * 8 :: y.spPoison.filter (· != p / 8 * 8) }
    | (y, _) => y
  else x

/-- Whether a run's accumulator cells that block `b` reads carry poison. -/
def Run.accPoisoned (r : Run) (b : Nat) (x : Tile) : Bool :=
  !(b == 0 && r.zero) && r.cells.any fun (i, j) => x.spPoisoned (r.cellAt i j) 4

/-- The running run ended with a code (R311, R312, R313, R343): the queued run takes its place, and a waiting request is looked at. -/
def State.endRun (s : State) (t code : Nat) : State :=
  match (s.tile t).running with
  | none => s
  | some r =>
    (((s.onTile t fun x => { x with running := x.queued, queued := none, prog := r.prog }).mmDone t r.req code).unhold r.holds).nextRun t

/-- The cells multiplied by the factors of scale mode 2, A's first (R49, R311). -/
def Run.factored (r : Run) (x : Tile) : Tile :=
  if r.scale = 2 ∧ r.acc = 0 then
    r.cells.foldl (fun x (i, j) =>
      let c := fp32.dec (x.sp.le (r.cellAt i j) 4)
      let c := fp32.dec (fMul fp32 modeRne c (fp32.dec r.fa.toNat)).bits
      x.spPut (r.cellAt i j) (leBytes 4 (fMul fp32 modeRne c (fp32.dec r.fb.toNat)).bits)) x
  else x

/-- MARIMBA_BLOCK_ACCUMULATE (R309, R310, R312, R313): the update of the running run's next block, in its beat; or
the end of a killed run at its boundary. -/
def execMarimbaBlockAccumulate (t : Nat) (s : State) : Out :=
  .next (match (s.tile t).running with
    | none => s
    | some r =>
      let b := r.prog
      if r.endsKilled s.beat then s.endRun t 7
      else if r.blocks ≤ b ∨ r.blockBeat b ≠ s.beat ∨ r.atStop = true then s
      else
        let x := s.tile t
        let inj := r.injections x b
        let bad := inj.foldl (fun n (m, w) => n + r.invalidIn m w) 0
        let s := s.setTile t (({ x with injected := x.injected ++ inj.map Prod.snd } : Tile).bumpEvc 4 bad)
        let as := (List.range 32).filterMap fun k => s.operand t r true (32 * b + k)
        let bs := (List.range 32).filterMap fun k => s.operand t r false (32 * b + k)
        if as.length < 32 ∨ bs.length < 32 ∨ r.accPoisoned b (s.tile t) = true then s.endRun t (if r.killed then 7 else 4)
        else
          let r' := { r with prog := b + 1 }
          s.onTile t fun x =>
            let x := r.update b as bs x
            { (if b + 1 = r.blocks then r.factored x else x) with running := some r' })

/-! ### Output (R311) -/

/-- A cell's value for the output conversion. -/
def Run.cellVal (r : Run) (w : Nat) : FVal :=
  if r.acc = 0 then fp32.dec w else if r.mod = 0 then ofInt (sInt w 32) else ofInt w

/-- A run of bits of a little-endian area replaced, an event of UNIT 0 (R407). -/
def Tile.setBitElem (x : Tile) (a w i v : Nat) : Tile :=
  let first := w * i / 8
  let n := (w * i + w + 7) / 8 - first
  let lo := w * i - 8 * first
  let old := x.sp.le (a + first) n
  x.spWrite (a + first) (leBytes n (old - old / 2 ^ lo % 2 ^ w * 2 ^ lo + v % 2 ^ w * 2 ^ lo))

/-- One cell converted into the output area, with its draw under STO and its events.  DESIGN CHOICE (log 58): a RES8 output of a cell that is no
residue (MODC 0) is the cell modulo 256. -/
def Run.convert (r : Run) (acc : Tile × Word) (cell : Nat × Nat) : Tile × Word :=
  let (x, seed) := acc
  let (i, j) := cell
  let w := elemWidth r.ofmt
  let v := x.sp.le (r.cellAt i j) 4
  let seed' := drawStep seed
  let o : Rounded := if r.ofmt = 11 then Rounded.exact (v % 256)
    else encElem r.ofmt ⟨rmOf r.rnd, r.sat, drawBits seed'⟩ (r.cellVal v)
  let n (b : Bool) : Nat := if b && decide (r.ofmt ≤ 14) then 1 else 0
  ((x.setBitElem (r.outp + 4 * w * i) w j o.bits).countEvents (n o.ovf) (n o.satd) (n o.mkNan) (n o.under),
    if r.rnd = 5 then seed' else seed)

/-- MARIMBA_RUN_COMPLETE (R311): the output conversion of the running run, and its token, in the token's beat. -/
def execMarimbaRunComplete (t : Nat) (s : State) : Out :=
  .next (match (s.tile t).running with
    | none => s
    | some r =>
      if r.prog < r.blocks ∨ r.tokenBeat ≠ s.beat then s
      else if r.killed then s.endRun t 7
      else if r.ofmt = 0 then s.endRun t 0
      else if r.cells.any fun (i, j) => (s.tile t).spPoisoned (r.cellAt i j) 4 then s.endRun t 4
      else (s.onTile t fun x => (r.cells.foldl r.convert (x, r.draws)).1).endRun t 0)

/-- SLOT_PHASE_SWITCH (R338): at a beat whose number is a multiple of 256 a pending phase becomes active. -/
def execSlotPhaseSwitch (t : Nat) (s : State) : Out :=
  .next (if s.beat % 256 ≠ 0 then s
    else s.onTile t fun x => match x.pending with
      | none => x
      | some p => { x with active := p, pending := none, past := (s.beat, x.activeTable) :: x.past })

end Sys2Proof.Machine
end

