-- ==== Sys2Proof/Machine/Sac.lean ====
section
/-! DEFINITION. The step activation cache (13: R320 to R325; 14: R349 to R351): an operation decided when the unit accepts it,
and performed when it completes. -/

namespace Sys2Proof.Machine

/-! ### Ranges of virtual memory at their memory targets -/

/-- The granules of 4 KB that a range of addresses falls into (R219, R220): address and length of each part. -/
def granules : Nat → Nat → Nat → List (Nat × Nat)
  | 0, _, _ => []
  | fuel + 1, va, n =>
    if n = 0 then [] else let m := min n (4096 - va % 4096); (va, m) :: granules fuel (va + m) (n - m)

/-- What a range of addresses comes to for a tile's engine: its physical parts, a token code, or a hold. -/
inductive EngRange
  | parts (l : List (Nat × Nat))
  | code (n : Nat)
  | hold
  deriving DecidableEq, Repr

/-- Translation of parts of a range, in order. -/
def State.tileParts (s : State) (t : Nat) (write : Bool) : List (Nat × Nat) → State × EngRange
  | [] => (s, .parts [])
  | (va, n) :: rest =>
    match s.tileAddr t va (!write) write write with
    | (s, .at pa) => match s.tileParts t write rest with
      | (s, .parts l) => (s, .parts ((pa, n) :: l))
      | a => a
    | (s, .code n) => (s, .code n)
    | (s, .hold) => (s, .hold)

/-- Translation of a range (R329, R349). -/
def State.tileRange (s : State) (t va n : Nat) (write : Bool) : State × EngRange := s.tileParts t write (granules (n / 4096 + 2) va n)

/-- The bytes of physical parts. -/
def State.partsRead (s : State) (l : List (Nat × Nat)) : List Byte := l.flatMap fun (pa, n) => s.memRead pa n

/-- Whether physical parts touch poison. -/
def State.partsPoisoned (s : State) (l : List (Nat × Nat)) : Bool := l.any fun (pa, n) => s.memPoisoned pa n

/-- Bytes laid over physical parts. -/
def partsWrite : List (Nat × Nat) → List Byte → List (Nat × List Byte)
  | [], _ => []
  | (pa, n) :: rest, bs => (pa, bs.take n) :: partsWrite rest (bs.drop n)

/-! ### The entry descriptor (R350) -/

/-- A SAC operation laid out: its descriptor, the formats in force and its panes. -/
structure SacPlan where
  dws : List Word
  ifmt : Nat
  iscale : Nat
  step : Nat
  inAt : Nat
  inPanes : Nat
  outAt : Nat
  outPanes : Nat
  deriving DecidableEq, Repr

/-- The plan of a request, from its descriptor (R349). -/
def sacPlan (r : AsyncReq) (dws : List Word) : SacPlan :=
  let p := r.pfx.map pfxOf
  { dws := dws
    ifmt := (p.map (·.a)).getD (dwf dws 3 61 58)
    iscale := (p.map (·.scale)).getD (dwf dws 3 57 56)
    step := r.z.toNat % 2 ^ 32
    inAt := 4096 * bits r.y 6 0
    inPanes := bits r.y 11 8 + 1
    outAt := 4096 * bits r.y 22 16
    outPanes := bits r.y 27 24 + 1 }

/-- NIN. -/
def SacPlan.nin (p : SacPlan) : Nat := dwf p.dws 3 37 17
/-- OSIZE. -/
def SacPlan.osize (p : SacPlan) : Nat := dwf p.dws 3 16 0
/-- LAST_STEP. -/
def SacPlan.lastStep (p : SacPlan) : Nat := dwf p.dws 1 63 32
/-- RLIMIT. -/
def SacPlan.rlimit (p : SacPlan) : Nat := dwf p.dws 1 31 16
/-- RCOUNT. -/
def SacPlan.rcount (p : SacPlan) : Nat := dwf p.dws 1 15 0
/-- VALID. -/
def SacPlan.valid (p : SacPlan) : Bool := dwf p.dws 3 63 63 == 1
/-- MODE: ANCHOR. -/
def SacPlan.anchor (p : SacPlan) : Bool := dwf p.dws 3 62 62 == 1
/-- SIN. -/
def SacPlan.sin (p : SacPlan) : Nat := (p.dws.getD 4 0).toNat
/-- SOUT. -/
def SacPlan.sout (p : SacPlan) : Nat := (p.dws.getD 5 0).toNat

/-- Whether the input format is a block format. -/
def SacPlan.isDbf (p : SacPlan) : Bool := decide (12 ≤ p.ifmt ∧ p.ifmt ≤ 14)

/-- Offset of the exponent array, and the bytes of an input (R351). -/
def SacPlan.expAt (p : SacPlan) : Nat := 8 * ((p.nin * elemWidth p.ifmt + 63) / 64)
/-- Bytes of an input with its exponents (R351). -/
def SacPlan.inBytes (p : SacPlan) : Nat :=
  if p.isDbf then p.expAt + 2 * ((p.nin + 31) / 32) else (p.nin * elemWidth p.ifmt + 7) / 8

/-- Whether a tolerance is finite and not negative, −0 accepted (R350). -/
def tolOk (w : Nat) : Bool := decide (w < 0x7F800000) || w == 0x80000000

/-- Whether a descriptor and the panes pass R350, R321 and R351. -/
def SacPlan.ok (p : SacPlan) : Bool :=
  dwf p.dws 3 51 38 == 0 && dwf p.dws 6 63 0 == 0 && dwf p.dws 7 63 0 == 0
    && ((decide (p.ifmt ≤ 10) && p.iscale == 0) || (p.isDbf && (p.iscale == 0 || p.iscale == 3)))
    && decide (1 ≤ p.nin ∧ p.nin ≤ 2 ^ 20 ∧ 1 ≤ p.osize ∧ p.osize ≤ 65536)
    && tolOk (dwf p.dws 2 63 32) && tolOk (dwf p.dws 2 31 0)
    && p.sin % 8 == 0 && p.sout % 8 == 0 && decide (p.rcount ≤ p.rlimit)
    && decide (p.inBytes ≤ 4096 * p.inPanes ∧ p.osize ≤ 4096 * p.outPanes)
    && (decide (p.inAt + 4096 * p.inPanes ≤ p.outAt) || decide (p.outAt + 4096 * p.outPanes ≤ p.inAt))

/-! ### The comparison (R322) -/

/-- Element `i` of an array of bytes (R33). -/
def elemOf (bs : List Byte) (w i : Nat) : Nat :=
  leNat ((bs.drop (w * i / 8)).take ((w * i + w + 7) / 8 - w * i / 8)) / 2 ^ (w * i % 8) % 2 ^ w

/-- The value of element `i` of an input (R321). -/
def SacPlan.value (p : SacPlan) (bs : List Byte) (i : Nat) : FVal :=
  let e := elemOf bs (elemWidth p.ifmt) i
  if p.isDbf then
    let x := elemOf (bs.drop p.expAt) 16 (i / 32)
    decDbf p.ifmt (x % 256) (x / 256) e
  else decElem p.ifmt e

/-- Whether x lies within the tolerances of y (R322): δ ≤ τa + τr × |y|, compared exactly. -/
def within (ta tr : FVal) (x y : FVal) : Bool :=
  let d := fp32.dec ((fAdd fp32 modeRne x y.neg).bits % 2 ^ 31)
  let ay := match y with | .fin _ m e => FVal.fin false m e | .inf _ => .inf false | v => v
  match mulExact tr ay with
  | none => false
  | some p =>
    let bound := match ta, p with
      | .fin _ ma ea, .fin _ mb eb => addFin .rne false ma ea false mb eb
      | _, v => v
    fLe d bound

/-- The invalid elements decoded, and whether every element of the current input lies within the tolerances of the stored one,
up to the first that does not. -/
def SacPlan.compare (p : SacPlan) (cur old : List Byte) : Nat → Nat → Nat × Bool
  | 0, _ => (0, true)
  | n + 1, i =>
    let w := elemWidth p.ifmt
    let bad := bitN (invalidElem p.ifmt (elemOf cur w i)) + bitN (invalidElem p.ifmt (elemOf old w i))
    if within (fp32.dec (dwf p.dws 2 31 0 % 2 ^ 31)) (fp32.dec (dwf p.dws 2 63 32 % 2 ^ 31)) (p.value cur i) (p.value old i) then
      let (k, ok) := p.compare cur old n (i + 1)
      (bad + k, ok)
    else (bad, false)

/-- The descriptor's words with LAST_STEP, RCOUNT and VALID replaced. -/
def SacPlan.after (p : SacPlan) (step rcount : Nat) (valid : Bool) : List Word :=
  let d1 := setBits (setBits (p.dws.getD 1 0) 63 32 step) 15 0 rcount
  let d3 := setBits (p.dws.getD 3 0) 63 63 (bitN valid)
  [p.dws.getD 0 0, d1, p.dws.getD 2 0, d3, p.dws.getD 4 0, p.dws.getD 5 0, p.dws.getD 6 0, p.dws.getD 7 0]

/-- The bytes of a list of doublewords. -/
def dwBytes (l : List Word) : List Byte := l.flatMap fun w => leBytes 8 w.toNat

/-! ### Acceptance (R320, R322) -/

/-- What the unit decides: that it must wait, or an operation, with the state then. -/
inductive SacDecision
  | hold (s : State)
  | op (s : State) (o : SacOp)
  deriving Repr

/-- What physical parts reach outside the module (R437). -/
def State.partsFar (s : State) (l : List (Nat × Nat)) : List Nat := l.flatMap fun (pa, _) => s.farOf pa

/-- A decision whose operation reaches these parts, too. -/
def SacDecision.reaching (l : List Nat) : SacDecision → SacDecision
  | .hold s => .hold s
  | .op s o => .op s { o with far := (o.far ++ l).eraseDups }

/-- The outcome of a SACP that passed its checks (R322, R323). -/
def State.sacp (s : State) (t : Nat) (r : AsyncReq) (p : SacPlan) (holds : List (Nat × Nat)) : SacDecision :=
  let x := s.tile t
  let finishAs (s : State) (code : Nat) (evc : Option Nat) : SacDecision := .op s ⟨r, code, [], [], evc, holds, []⟩
  if !p.valid then finishAs s 17 (some 6)
  else if (if p.anchor then decide (p.step ≤ p.lastStep) else p.step != (p.lastStep + 1) % 2 ^ 32) then finishAs s 20 (some 6)
  else if p.rlimit ≤ p.rcount then finishAs s 19 (some 7)
  else
    match s.tileRange t p.sin p.inBytes false with
    | (s, .hold) => .hold s
    | (s, .code n) => finishAs s n none
    | (s, .parts old) => SacDecision.reaching (s.partsFar old) <|
      if s.partsPoisoned old || x.spPoisoned p.inAt p.inBytes then finishAs s 4 none
      else
        let cur := x.sp.getList p.inAt p.inBytes
        let (bad, ok) := p.compare cur (s.partsRead old) p.nin 0
        let count (s : State) : State := s.onTile t (·.bumpEvc 4 bad)
        if !ok then finishAs (count s) 18 (some 6)
        else match s.tileRange t p.sout p.osize false with
          | (s, .hold) => .hold s
          | (s, .code n) => finishAs s n none
          | (s, .parts out) => SacDecision.reaching (s.partsFar out) <|
            if s.partsPoisoned out then finishAs s 4 none
            else match if p.anchor then (s, EngRange.parts []) else s.tileRange t p.sin p.inBytes true with
              | (s, .hold) => .hold s
              | (s, .code n) => finishAs s n none
              | (s, .parts sin) => SacDecision.reaching (s.partsFar sin) <| match s.tileRange t r.x.toNat 64 true with
                | (s, .hold) => .hold s
                | (s, .code n) => finishAs s n none
                | (s, .parts pa) => SacDecision.reaching (s.partsFar pa) <| .op (count s)
                    ⟨r, 16, partsWrite sin cur ++ partsWrite pa (dwBytes (p.after p.step (p.rcount + 1) true)),
                      [(p.outAt, s.partsRead out)], some 5, holds, []⟩

/-- The writes of a SACC that passed its checks (R324). -/
def State.sacc (s : State) (t : Nat) (r : AsyncReq) (p : SacPlan) (holds : List (Nat × Nat)) : SacDecision :=
  let x := s.tile t
  let finishAs (s : State) (code : Nat) : SacDecision := .op s ⟨r, code, [], [], none, holds, []⟩
  if x.spPoisoned p.inAt p.inBytes || x.spPoisoned p.outAt p.osize then finishAs s 4
  else match s.tileRange t p.sin p.inBytes true with
    | (s, .hold) => .hold s
    | (s, .code n) => finishAs s n
    | (s, .parts sin) => SacDecision.reaching (s.partsFar sin) <| match s.tileRange t p.sout p.osize true with
      | (s, .hold) => .hold s
      | (s, .code n) => finishAs s n
      | (s, .parts sout) => SacDecision.reaching (s.partsFar sout) <| match s.tileRange t r.x.toNat 64 true with
        | (s, .hold) => .hold s
        | (s, .code n) => finishAs s n
        | (s, .parts pa) => SacDecision.reaching (s.partsFar pa) <| .op s ⟨r, 0, partsWrite sin (x.sp.getList p.inAt p.inBytes) ++ partsWrite sout (x.sp.getList p.outAt p.osize)
            ++ partsWrite pa (dwBytes (p.after p.step 0 true)), [], none, holds, []⟩

/-- The decision of R320 to R324 for a request of tile `t`: the descriptor, the checks of R351, the pane checks, and the outcome. -/
def State.sacDecide (s : State) (t : Nat) (r : AsyncReq) : SacDecision :=
  let finishAs (s : State) (code : Nat) : SacDecision := .op s ⟨r, code, [], [], none, [], []⟩
  match s.tileRange t r.x.toNat 64 false with
  | (s, .hold) => .hold s
  | (s, .code n) => finishAs s n
  | (s, .parts pa) => SacDecision.reaching (s.partsFar pa) <|
    if s.partsPoisoned pa then finishAs s 4
    else
      let bs := s.partsRead pa
      let p := sacPlan r ((List.range 8).map fun i => BitVec.ofNat 64 (elemOf bs 64 i))
      let areas := [(p.inAt, 4096 * p.inPanes), (p.outAt, 4096 * p.outPanes)]
      if !p.ok then finishAs s 4
      else match s.portCheck t r.dom .sac areas with
        | some n => finishAs (s.countDenied t n) n
        | none => if r.op = .sacp then s.sacp t r p (holdsOf t areas) else s.sacc t r p (holdsOf t areas)

/-- The requests the SAC unit serves. -/
def ReqOp.isSac (o : ReqOp) : Bool := o == .sacp || o == .sacc

/-- SAC_ACCEPT (R320): the oldest SACP or SACC of tile `t`, when the unit serves none; one that must wait stays the oldest, and what its
translation asked for is under way (R227, R349); nothing of a viral die's is read (R385). -/
def execSacAccept (t : Nat) (s : State) : Out :=
  .next (if (s.tile t).sac.isSome then s
    else match (s.tile t).takeReq ReqOp.isSac with
    | none => s
    | some (r, _) =>
      if (s.tile t).frozen || s.viralAt t then s.post (.sacAccept t)
      else match s.sacDecide t r with
        | .hold s => s.post (.sacAccept t)
        | .op s o => ((s.hold o.holds).onTile t fun x =>
            { ((x.takeReq ReqOp.isSac).map (·.2)).getD x with sac := some o }).post (.sacComplete t))

/-- SAC_COMPLETE (R320, R323, R324): its writes, its event and its token; the next request is then looked at.  DESIGN CHOICE (log 64): the event
is counted in the step that writes the token, so the outcome of an operation whose token is pending is in no snapshot (R362).  A tile that
replays writes no memory (R394), and what a viral die would write does not leave it (R385). -/
def execSacComplete (t : Nat) (s : State) : Out :=
  .next (match (s.tile t).sac with
    | none => s
    | some o =>
      if s.viralAt t && !(s.tile t).replay && o.mem != [] then s.post (.sacComplete t) else
      let s := if (s.tile t).replay then s else o.mem.foldl (fun s (pa, bs) => s.memWrite pa bs) s
      let s := s.onTile t fun x =>
        let x := o.pane.foldl (fun x (a, bs) => x.spWrite a bs) x
        let x := match o.evc with | some i => x.bumpEvc i 1 | none => x
        { x with sac := none }
      ((s.writeToken t o.req.ctx o.req.tok o.code).unhold o.holds).post (.sacAccept t))

end Sys2Proof.Machine
end

