-- ==== Sys2Proof/Machine/Stream.lean ====
section
/-! DEFINITION. Stream engines (13: R295 to R304; 14: R344 to R348): the program and its plan, the walk of its elements with
their addresses, conversions, forks, block formats, promotion and compaction, and its start and end. -/

namespace Sys2Proof.Machine

/-! ### The program (R345, R346) -/

/-- SRCFMT. -/
def Program.srcFmt (p : Program) : Nat := dwf p.dws 0 63 60
/-- DSTFMT. -/
def Program.dstFmt (p : Program) : Nat := dwf p.dws 0 59 56
/-- SSCALE. -/
def Program.sScale (p : Program) : Nat := dwf p.dws 0 55 54
/-- DSCALE. -/
def Program.dScale (p : Program) : Nat := dwf p.dws 0 53 52
/-- RND. -/
def Program.rnd (p : Program) : Nat := dwf p.dws 0 51 49
/-- SAT. -/
def Program.sat (p : Program) : Bool := dwf p.dws 0 48 48 == 1
/-- DELTA. -/
def Program.delta (p : Program) : Nat := dwf p.dws 0 47 44
/-- SMODE. -/
def Program.sMode (p : Program) : Nat := dwf p.dws 0 43 42
/-- DMODE. -/
def Program.dMode (p : Program) : Nat := dwf p.dws 0 41 40
/-- FMODE. -/
def Program.fMode (p : Program) : Nat := dwf p.dws 0 39 38
/-- FORK. -/
def Program.fork (p : Program) : Bool := dwf p.dws 0 37 37 == 1
/-- PROMOTE. -/
def Program.promote (p : Program) : Bool := dwf p.dws 0 36 36 == 1
/-- COMPACT. -/
def Program.compact (p : Program) : Bool := dwf p.dws 0 35 35 == 1
/-- CW. -/
def Program.cw (p : Program) : Nat := dwf p.dws 0 34 33
/-- BLEN. -/
def Program.blen (p : Program) : Nat := dwf p.dws 0 32 27
/-- FDEPTH. -/
def Program.fdepth (p : Program) : Nat := dwf p.dws 0 26 21
/-- NLEV. -/
def Program.nlev (p : Program) : Nat := dwf p.dws 0 20 18
/-- ESIZE. -/
def Program.esize (p : Program) : Nat := 2 ^ dwf p.dws 0 17 15
/-- DCNT. -/
def Program.dcnt (p : Program) : Nat := dwf p.dws 0 11 6
/-- EBASE. -/
def Program.ebase (p : Program) : Nat := (p.dws.getD 4 0).toNat
/-- IDX. -/
def Program.idx (p : Program) : Nat := (p.dws.getD 5 0).toNat
/-- PLAN. -/
def Program.planAt (p : Program) : Nat := (p.dws.getD 6 0).toNat

/-- Count N_L of level L (R346). -/
def Program.count (p : Program) (l : Nat) : Nat := p.plan.getD l 1

/-- One side of a program: its number (0 source, 1 destination, 2 FORK), its mode, base, element width and the strides of levels 1 to 5. -/
structure StreamSide where
  no : Nat
  mode : Nat
  base : Word
  width : Nat
  strides : List Int
  deriving DecidableEq, Repr

/-- Strides of a side, from a word of the plan. -/
def Program.stridesAt (p : Program) (first : Nat) : List Int := (List.range 5).map fun i => sInt (p.plan.getD (first + i) 0) 32

/-- The source side. -/
def Program.src (p : Program) : StreamSide := ⟨0, p.sMode, p.dws.getD 1 0, elemWidth p.srcFmt, p.stridesAt 6⟩
/-- The destination side. -/
def Program.dst (p : Program) : StreamSide := ⟨1, p.dMode, p.dws.getD 2 0, elemWidth p.dstFmt, p.stridesAt 11⟩
/-- The FORK side. -/
def Program.frk (p : Program) : StreamSide := ⟨2, p.fMode, p.dws.getD 3 0, elemWidth p.dstFmt, p.stridesAt 16⟩

/-- Whether a format and scale mode make a block format (R300). -/
def isBlock (fmt mode : Nat) : Bool := decide (12 ≤ fmt ∧ fmt ≤ 14) || (mode == 1 && decide (3 ≤ fmt ∧ fmt ≤ 9))
/-- Whether the source is a block format. -/
def Program.srcBlock (p : Program) : Bool := isBlock p.srcFmt p.sScale
/-- Whether the destination is a block format. -/
def Program.dstBlock (p : Program) : Bool := isBlock p.dstFmt p.dScale
/-- Whether the program copies elements unchanged (R299, R347). -/
def Program.copies (p : Program) : Bool :=
  p.srcFmt == p.dstFmt && modeOf p.sScale p.srcFmt == modeOf p.dScale p.dstFmt && p.sScale != 2

/-- Whether a pane word keeps its reserved bits zero; other bases have none (R345). -/
def baseOk (mode : Nat) (w : Word) : Bool := mode != 3 || bits w 39 19 == 0

/-- The checks of R347 on the program alone. -/
def Program.formOk (p : Program) : Bool :=
  let indexed := p.sMode == 2 || p.dMode == 2
  let anyBlock := p.srcBlock || p.dstBlock
  dwf p.dws 0 14 12 == 0 && dwf p.dws 0 5 0 == 0 && baseOk p.sMode (p.dws.getD 1 0) && baseOk p.dMode (p.dws.getD 2 0)
    && (!p.fork || baseOk p.fMode (p.dws.getD 3 0))
    && decide (1 ≤ p.nlev ∧ p.nlev ≤ 6) && p.planAt % 128 == 0 && (!indexed || p.idx % 4 == 0)
    && decide (p.rnd ≤ 5) && p.cw != 3 && scaleOk p.sScale p.srcFmt && scaleOk p.dScale p.dstFmt
    && !(p.srcBlock && p.dstBlock && !p.copies) && !(p.dstFmt == 11 && p.srcFmt != 11)
    && (if anyBlock then p.blen == 32 && p.fdepth == 32 else p.blen == 0 && p.fdepth == 0)
    && !(p.promote && (p.sMode != 1 || p.compact))
    && !(p.compact && (decide (2 < p.nlev) || p.dMode == 1 || p.dMode == 2 || p.fMode == 1 || p.fMode == 2 || (!p.fork && p.fMode != 0)))
    && p.fMode != 2 && !(p.dcnt != 0 && p.dMode != 3)

/-- The checks of R346 on a plan of 32 words. -/
def Program.planOk (p : Program) : Bool :=
  (List.range 6).all (fun l => if l < p.nlev then p.count l != 0 else p.count l == 1)
    && ([6, 11, 16].all fun f => (List.range 5).all fun i => decide (i + 1 < p.nlev) || p.plan.getD (f + i) 0 == 0)
    && (List.range 11).all (fun i => p.plan.getD (21 + i) 0 == 0)
    && (!p.compact || ([11, 16].all fun f => (List.range 5).all fun i => p.plan.getD (f + i) 0 == 0))

/-! ### Reaching the bytes of an element (R233, R297, R298) -/

/-- Where the bytes of an access of a side lie: memory addresses, a tile's scratchpad, another module's scratchpad; or the code that ends
the program, or a hold. -/
inductive Located
  | mem (l : List Nat)
  | pane (t a : Nat)
  | far (m : Nat)
  | code (n : Nat)
  | hold
  deriving DecidableEq, Repr

/-- The tile address of a stream engine (R423). -/
def engineTile (e : Nat) : Nat := tileAt (24 + e / 64) (e % 64 / 32) (e % 32)

/-- The visit of a side to a block that is under way (R241). -/
def Program.visitTo (p : Program) (side place : Nat) : Option Visit := p.visits.find? fun v => v.side == side && v.place == place

/-- A program whose side visits a block, the entry resolved. -/
def Program.visiting (p : Program) (v : Visit) : Program := { p with visits := v :: p.visits.filter (·.side != v.side) }

/-- What a memory target answers an engine that stands at `src` for a domain: the code that ends a program, if any (R245, R297, R427, R450). -/
def State.targetCode (s : State) (src dom pa : Nat) (need : Rights) : Option Nat :=
  match s.memTarget dom pa with
  | none => some 4
  | some g => if s.isDown src g then some 6 else if s.denied .engine dom pa need then some 4 else none

/-- What resolving a block's entry at the start of a visit comes to: the entry, or why there is none (R238, R240, R241; log 40); a poisoned
entry is not used (R374). -/
def State.resolveBlock (s : State) (src dom : Nat) (a : Word) (q : BtPlace) (write : Bool) : State × (Word ⊕ Located) :=
  match s.targetCode src dom q.entry (needOf true false false) with
  | some n => (s, .inr (.code n))
  | none =>
    let e := s.entryAt q.entry
    if s.memPoisoned q.entry 8 || !entryOk e then (s, .inr (.code 4))
    else if !write then (s, .inl e)
    else match s.btWrite dom a with
      | .done s e => (s, .inl e)
      | .held => (s, .inr .hold)
      | .trap _ _ => (s, .inr (.code 4))
      | .copy => match s.btCopy dom a with
        | .done s e => (s, .inl e)
        | _ => (s, .inr (.code 4))

/-- The bytes from a BT address for an engine that stands at `src` (R237, R241): each through the entry of its block, resolved once at each
visit. -/
def State.btBytes (s : State) (src : Nat) (p : Program) (side : Nat) (write : Bool) : Nat → Word → State × Program × Located
  | 0, _ => (s, p, .mem [])
  | n + 1, a =>
    match s.btPlace p.req.dom a with
    | none => (s, p, .code (if (s.blockTable p.req.dom (btidOf a)).isNone then 4 else 3))
    | some q =>
      let got : State × (Word ⊕ Located) := match p.visitTo side q.entry with
        | some v => (s, .inl v.entry)
        | none => s.resolveBlock src p.req.dom a q write
      match got with
      | (s, .inr l) => (s, p, l)
      | (s, .inl e) =>
        let pa := entryFrame e * 4096 + q.off
        match s.targetCode src p.req.dom pa (needOf (!write) write false) with
        | some c => (s, p, .code c)
        | none => match s.btBytes src (p.visiting ⟨side, q.entry, e⟩) side write n (a + 1) with
          | (s, p, .mem l) => (s, p, .mem (pa :: l))
          | r => r

/-- Whether the target of a physical address for a domain has another link-up count than in a list of them (R244). -/
def State.upSince (s : State) (dom pa : Nat) (l : List (LinkTarget × Nat)) : Bool :=
  (s.memTarget dom pa).any fun g => upCount s.linkCount g.link != upCount l g.link

/-- A program whose translation of an address comes to a physical one; none when the link-up count of the target is no more what it was
when the program translated the page first (R245, R304). -/
def State.translate (s : State) (p : Program) (va pa : Nat) : Option Program :=
  match p.pages.find? (·.1 == va / 65536) with
  | some (_, l) => if s.upSince (s.tile p.tile).dom pa l then none else some p
  | none => some { p with pages := (va / 65536, s.linkCount) :: p.pages }

/-- The bytes from a virtual address for an engine that stands at `src` (R225, R304). -/
def State.vaBytes (s : State) (src : Nat) (p : Program) (write : Bool) : Nat → Int → State × Program × Located
  | 0, _ => (s, p, .mem [])
  | n + 1, a =>
    if a < 0 ∨ 2 ^ 52 ≤ a then (s, p, .code 4)
    else match s.engineWalk src p.tile a.toNat (!write) write write with
      | (s, .at pa) => match s.translate p a.toNat pa with
        | none => (s, p, .code 6)
        | some p => match s.vaBytes src p write n (a + 1) with
          | (s, p, .mem l) => (s, p, .mem (pa :: l))
          | r => r
      | (s, .code n) => (s, p, .code n)
      | (s, .hold) => (s, p, .hold)

/-- Where `n` bytes at an address of a side lie, for a program of engine `e`: every check is made before any byte moves (R233, R292). -/
def State.located (s : State) (e : Nat) (p : Program) (side : StreamSide) (a : Int) (n : Nat) (write : Bool) : State × Program × Located :=
  match side.mode with
  | 1 => s.btBytes (engineTile e) p side.no write n (BitVec.ofInt 64 a)
  | 3 =>
    let tile := bits side.base 63 40
    let off := a - (bits side.base 63 19 * 2 ^ 19 : Nat)
    if s.targetGone (engineTile e) p.req.dom tile then (s, p, .code 6)
    else if off < 0 ∨ 0x7C000 < off + n then (s, p, .code 3)
    else if tile / 32768 ≠ s.modNo then (s, p, .far (tile / 32768))
    else
      let q := tile % 32768
      match s.portCheck q p.req.dom .rma [(off.toNat, n)] with
      | some c => (s.countDenied q c, p, .code c)
      | none => (s, p, .pane q off.toNat)
  | _ => s.vaBytes (engineTile e) p write n a

/-- What reading bytes comes to. -/
inductive Got
  | bytes (l : List Byte)
  | code (n : Nat)
  | hold
  deriving DecidableEq, Repr

/-- Reads `n` bytes of a side (R298, R374). -/
def State.streamRead (s : State) (e : Nat) (p : Program) (side : StreamSide) (a : Int) (n : Nat) : State × Program × Got :=
  match s.located e p side a n false with
  | (s, p, .mem l) =>
    (s, p, if l.any fun pa => s.memPoisoned pa 1 then .code 4 else .bytes (l.map fun pa => (s.memRead pa 1).getD 0 0))
  | (s, p, .pane t x) => (s, p, if (s.tile t).spPoisoned x n then .code 4 else .bytes ((s.tile t).sp.getList x n))
  | (s, p, .far _) =>
    let c := s.farCode
    let s := { s with fv := s.fv + 1 }
    (s, p, if c = 0 then .bytes ((List.range n).map fun i => Config.remoteByte s.fv i) else .code c)
  | (s, p, .code c) => (s, p, .code c)
  | (s, p, .hold) => (s, p, .hold)

/-- A byte with the bits of a mask replaced. -/
def maskByte (old new mask : Nat) : Byte := BitVec.ofNat 8 (old &&& (255 - mask) ||| new &&& mask)

/-- The droppable bytes of a write that leave the module, by its first, sent under the engine's reservation if it has one (R434). -/
def State.bulkBytes (s : State) (e : Nat) (l : List Nat) : Option State :=
  match l.filter fun pa => (s.modOf pa).1 != s.modNo with
  | [] => some s
  | pa :: rest => s.bulkTo (.engine e) pa (rest.length + 1)

/-- Writes bytes of a side under their masks: a token code, 0 when all are written, 256 for a hold.  A tile that replays writes none (R394). -/
def State.streamWrite (s : State) (e : Nat) (p : Program) (side : StreamSide) (a : Int) (bs : List (Nat × Nat)) : State × Program × Nat :=
  let dry := (s.tile p.tile).replay
  match s.located e p side a bs.length (!dry) with
  | (s, p, .code c) => (s, p, c)
  | (s, p, .hold) => (s, p, 256)
  | (s, p, .mem l) =>
    if dry then (s, p, 0)
    else match s.bulkBytes e l with
      | none => (s, p, 256)
      | some s =>
        ((l.zip bs).foldl (fun s (pa, v, mask) => s.memWrite pa [maskByte ((s.memRead pa 1).getD 0 0).toNat v mask]) s,
          { p with sent := p.sent + (l.filter fun pa => (s.modOf pa).1 != s.modNo).length }, 0)
  | (s, p, .pane t x) =>
    (if dry then s else s.onTile t fun y => y.spWrite x (bs.zipIdx.map fun ((v, mask), i) => maskByte (y.sp.get (x + i)).toNat v mask), p, 0)
  | (s, p, .far m) =>
    if dry then (s, p, 0)
    else match s.bulk m (.engine e) bs.length with
      | none => (s, p, 256)
      | some s => ({ s with fv := s.fv + 1 }, { p with sent := p.sent + bs.length }, s.farCode)

/-! ### Elements (R296, R297) -/

/-- Total number of elements. -/
def Program.total (p : Program) : Nat := (List.range 6).foldl (fun n l => n * p.count l) 1

/-- Index of level L of the element with linear index `n`. -/
def Program.level (p : Program) (n l : Nat) : Nat := n / (List.range l).foldl (fun k i => k * p.count i) 1 % p.count l

/-- Σ over L ≥ 1 of i_L × STRIDE_L. -/
def Program.rowOff (p : Program) (side : StreamSide) (n : Nat) : Int :=
  (List.range 5).foldl (fun (k : Int) (i : Nat) => k + (p.level n (i + 1) : Int) * side.strides.getD i 0) 0

/-- Byte address and bit of the element with linear index `n` of a side, with position `i0` along level 0; `entry` is its index
entry (R297). -/
def Program.locate (p : Program) (side : StreamSide) (n i0 : Nat) (entry : Int) : Int × Nat :=
  let base : Int := side.base.toNat
  if side.mode = 2 then (base + entry * p.esize + p.rowOff side n, 0)
  else (base + p.rowOff side n + (i0 * side.width / 8 : Nat), i0 * side.width % 8)

/-- Bytes that `w` bits from a bit of a byte touch. -/
def bytesFor (bit w : Nat) : Nat := (bit + w + 7) / 8

/-- The bytes and masks of `w` bits of a value from a bit of a byte. -/
def fieldBytes (bit w v : Nat) : List (Nat × Nat) :=
  (List.range (bytesFor bit w)).map fun i => (v % 2 ^ w * 2 ^ bit / 256 ^ i % 256, (2 ^ w - 1) * 2 ^ bit / 256 ^ i % 256)

/-- A linear side at a virtual address: an index list, an exponent array or a plan. -/
def linearSide : StreamSide := ⟨0, 0, 0, 8, []⟩

/-- Why a walk stops. -/
inductive WalkEnd | go | code (n : Nat) | hold
  deriving DecidableEq, Repr

/-- A walk under way. -/
structure Walk where
  s : State
  p : Program
  stop : WalkEnd
  deriving Repr

/-- A promotion given up: its frame returns to the HBM free list (R243). -/
def State.abandon (s : State) (dom : Nat) (m : Promotion) : State := s.onTable dom m.btid (·.free m.frame false)

/-- A promotion ended at the end of a visit (R243): swapped in when the whole block was read, its entry stands, and MIG is clear. -/
def State.promoted (s : State) (dom : Nat) (m : Promotion) : State :=
  let e := s.entryAt m.place
  match s.blockTable dom m.btid with
  | none => s
  | some b =>
    if m.mask = 2 ^ m.size - 1 ∧ e = m.entry ∧ entryMig e = false then
      let old := entryFrame e
      let s := s.onNaming b old fun x => setBits (setBits x 51 12 m.frame) 1 1 0
      if entryRef e < 4095 then s.quarantine dom m.btid old true
      else s.onTable dom m.btid fun b => { b with kept := b.kept ++ [old] }
    else s.abandon dom m

/-- The visit of a program's source ended: its promotion is swapped in or given up (R243). -/
def State.leaveBlock (s : State) (p : Program) : State × Program :=
  match p.promo with
  | some m => (s.promoted p.req.dom m, { p with promo := none })
  | none => (s, p)

/-- A promotion begun with the entry a visit has resolved (R243): none for a block of HBM, for one with MIG set, or with no HBM frame free. -/
def State.beginPromotion (s : State) (p : Program) (q : BtPlace) (e : Word) : State × Program :=
  if !(entryTier e && !entryMig e) then (s, p)
  else match ((s.blockTable p.req.dom q.bt.btid).getD q.bt).take false with
    | some (f, b) => (s.onTable p.req.dom b.btid fun _ => b, { p with promo := some ⟨b.btid, q.entry, e, f, b.blkSize, 0⟩ })
    | none => (s, p)

/-- The promotion after bytes of one block are read at a BT address (R243, R302), in the visit of `old` or a new one; none on a tile that
replays (R394). -/
def State.promoteRead (s : State) (old p : Program) (a : Word) (bs : List Byte) : State × Program :=
  if !p.promote || (s.tile p.tile).replay then (s, p)
  else match s.btPlace p.req.dom a with
  | none => (s, p)
  | some q =>
    let (s, p) :=
      if (old.visitTo 0 q.entry).isSome then (s, p)
      else match p.visitTo 0 q.entry with
        | none => s.leaveBlock p
        | some v =>
          let (s, p) := s.leaveBlock p
          s.beginPromotion p q v.entry
    match p.promo with
    | none => (s, p)
    | some m =>
      if m.place ≠ q.entry then (s, p)
      else (s.memWrite (m.frame * 4096 + q.off) bs, { p with promo := some { m with mask := m.mask ||| ((2 ^ bs.length - 1) * 2 ^ q.off) } })

/-- Reads bytes from a BT address one by one, each promoted with its own block (R302): none where the walk stops. -/
def Walk.readPromoted (e : Nat) (side : StreamSide) : Nat → Walk → Int → Walk × List Byte
  | 0, k, _ => (k, [])
  | n + 1, k, a =>
    match k.s.streamRead e k.p side a 1 with
    | (s, p, .bytes bs) =>
      let (s, p) := s.promoteRead k.p p (BitVec.ofInt 64 a) bs
      let (k, rest) := Walk.readPromoted e side n ⟨s, p, k.stop⟩ (a + 1)
      (k, bs ++ rest)
    | (s, p, .code c) => (⟨s, p, .code c⟩, [])
    | (s, p, .hold) => (⟨s, p, .hold⟩, [])

/-- Reads `w` bits at a place of a side. -/
def Walk.readBits (k : Walk) (e : Nat) (side : StreamSide) (a : Int) (bit w : Nat) : Walk × Nat :=
  if side.mode = 1 ∧ k.p.promote = true then
    let (k, bs) := Walk.readPromoted e side (bytesFor bit w) k a
    (k, if k.stop = .go then leNat bs / 2 ^ bit % 2 ^ w else 0)
  else match k.s.streamRead e k.p side a (bytesFor bit w) with
  | (s, p, .bytes bs) => (⟨s, p, k.stop⟩, leNat bs / 2 ^ bit % 2 ^ w)
  | (s, p, .code n) => (⟨s, p, .code n⟩, 0)
  | (s, p, .hold) => (⟨s, p, .hold⟩, 0)

/-- Writes `w` bits at a place of a side. -/
def Walk.writeBits (k : Walk) (e : Nat) (side : StreamSide) (a : Int) (bit w v : Nat) : Walk :=
  if k.stop ≠ .go then k
  else match k.s.streamWrite e k.p side a (fieldBytes bit w v) with
    | (s, p, 0) => ⟨s, p, .go⟩
    | (s, p, 256) => ⟨s, p, .hold⟩
    | (s, p, n) => ⟨s, p, .code n⟩

/-- The index entry of an element, if its side has a list (R297). -/
def Walk.entry (k : Walk) (e : Nat) (side : StreamSide) (n : Nat) : Walk × Int :=
  if side.mode ≠ 2 then (k, 0)
  else
    let j := k.p.level n 0 + k.p.count 0 * k.p.level n 1
    let (k, v) := k.readBits e linearSide (k.p.idx + 4 * j : Nat) 0 32
    (k, sInt v 32)

/-- The element with linear index `n` read from the source, as bits. -/
def Walk.readElem (k : Walk) (e n : Nat) : Walk × Nat :=
  let (k, i) := k.entry e k.p.src n
  if k.stop ≠ .go then (k, 0)
  else
    let (a, bit) := k.p.locate k.p.src n (k.p.level n 0) i
    k.readBits e k.p.src a bit k.p.src.width

/-- An encoded element written at its destination and at the FORK destination, at position `i0` along level 0 (R301); `pad` tells
an element beyond the valid count, which an index-list side does not write (R300). -/
def Walk.writeElem (k : Walk) (e n i0 v : Nat) (pad : Bool) : Walk :=
  if k.stop ≠ .go then k
  else
    let k :=
      if pad && k.p.dMode == 2 then k
      else
        let (k, i) := k.entry e k.p.dst n
        let (a, bit) := k.p.locate k.p.dst n i0 i
        k.writeBits e k.p.dst a bit k.p.dst.width v
    if !k.p.fork then k
    else
      let (a, bit) := k.p.locate k.p.frk n i0 0
      k.writeBits e k.p.frk a bit k.p.frk.width v

/-- Blocks of a level-0 pass. -/
def Program.passBlocks (p : Program) : Nat := (p.count 0 + 31) / 32

/-- Number of the block an element lies in, in linear order (R300). -/
def Program.blockNo (p : Program) (n : Nat) : Nat := n / p.count 0 * p.passBlocks + n % p.count 0 / 32

/-- The value of a source element, with the walk after its exponents or scale are read and an invalid encoding counted (R299). -/
def Walk.value (k : Walk) (e n b : Nat) : Walk × FVal :=
  let f := k.p.srcFmt
  let k := if invalidElem f b then { k with s := k.s.onTile k.p.tile (·.bumpEvc 4 1) } else k
  if k.p.srcBlock then
    if 12 ≤ f then
      let (k, x) := k.readBits e linearSide (k.p.ebase + 2 * k.p.blockNo n : Nat) 0 16
      (k, decDbf f (x % 256) (x / 256) b)
    else
      let (k, x) := k.readBits e linearSide (k.p.ebase + k.p.blockNo n : Nat) 0 8
      (k, decMx f x b)
  else if k.p.sScale = 2 then (k, fp32.dec (fMul fp32 modeRne (decElem f b) (.fin false 1 0)).bits)
  else (k, decElem f b)

/-- The events of converted elements, counted in the issuing tile (R39). -/
def Walk.count (k : Walk) (l : List LaneOut) : Walk :=
  { k with s := k.s.onTile k.p.tile fun x => x.countEvents (l.countP (·.ovf)) (l.countP (·.satd)) (l.countP (·.nan)) (l.countP (·.under)) }

/-- A walk with `n` more elements emitted and one more group done. -/
def Walk.emitted (k : Walk) (n : Nat) : Walk := { k with p := { k.p with pos := k.p.pos + 1, elems := k.p.elems + n } }

/-! ### The three kinds of walk -/

/-- A walk after a group, or at the start of one that must be held: the group is made again then, but the entries its sides have resolved, the
bytes it has promoted and written stand (R241, R243); its events are counted once. -/
def Walk.keep (old new : Walk) : Walk :=
  if new.stop = .hold then
    let x := old.s.tile old.p.tile
    ⟨new.s.onTile old.p.tile fun y => { y with evc := x.evc, evcNew := x.evcNew },
      { old.p with visits := new.p.visits, promo := new.p.promo, pages := new.p.pages, sent := new.p.sent }, .hold⟩
  else new

/-- One element copied or converted (R296, R299). -/
def Walk.element (e : Nat) (k : Walk) : Walk :=
  let n := k.p.pos
  let (k1, b) := k.readElem e n
  if k1.stop ≠ .go then k.keep k1
  else if k.p.copies then
    let k2 := k1.writeElem e n (k.p.level n 0) b false
    if k2.stop = .go then k2.emitted 1 else k.keep k2
  else
    let (k2, v) := k1.value e n b
    let seed := drawStep k.p.draws
    let r := encElem k.p.dstFmt ⟨rmOf k.p.rnd, k.p.sat, drawBits seed⟩ v
    let k3 := k2.writeElem e n (k.p.level n 0) r.bits false
    if k3.stop = .go then
      let k4 := (k3.count [LaneOut.ofRounded r (decide (1 ≤ k.p.dstFmt ∧ k.p.dstFmt ≤ 14))]).emitted 1
      { k4 with p := { k4.p with draws := if k.p.rnd = 5 then seed else k.p.draws } }
    else k.keep k3

/-- The elements of a list of linear indexes read and decoded. -/
def Walk.readAll (e : Nat) (k : Walk) : List Nat → Walk × List FVal
  | [] => (k, [])
  | n :: rest =>
    let (k, b) := k.readElem e n
    let (k, v) := if k.stop = .go then k.value e n b else (k, .nan false)
    if k.stop ≠ .go then (k, []) else
      let (k, l) := k.readAll e rest
      (k, v :: l)

/-- One block encoded (R300): its valid elements read, its exponents or scale and its 32 elements written; each valid element draws (R299). -/
def Walk.block (e : Nat) (k : Walk) : Walk :=
  let p := k.p
  let n0 := p.count 0
  let pass := p.pos / p.passBlocks
  let first := p.pos % p.passBlocks * 32
  let valid := min 32 (n0 - first)
  let (k1, vs) := k.readAll e ((List.range valid).map fun i => pass * n0 + first + i)
  if k1.stop ≠ .go then k.keep k1
  else
    let xs := (List.range 32).map fun i => (vs[i]?).map fun v => (v, drawBits (drawN (i + 1) p.draws))
    let dbf := decide (12 ≤ p.dstFmt)
    let blk := if dbf then quantDbf p.dstFmt p.delta (rmOf p.rnd) p.sat xs else quantMx p.dstFmt (rmOf p.rnd) xs
    let k2 := (List.range 32).foldl (fun (k : Walk) i =>
      k.writeElem e (pass * n0 + min (first + i) (n0 - 1)) (first + i) ((blk.elems.getD i { bits := 0 }).bits) (decide (valid ≤ i))) k1
    let k3 := if dbf then k2.writeBits e linearSide (p.ebase + 2 * p.pos : Nat) 0 16 (blk.ehi + 256 * blk.elo)
      else k2.writeBits e linearSide (p.ebase + p.pos : Nat) 0 8 blk.ehi
    if k3.stop = .go then
      let k4 := (k3.count blk.elems).emitted valid
      { k4 with p := { k4.p with draws := if p.rnd = 5 then drawN valid p.draws else p.draws } }
    else k.keep k3

/-- W of a compaction, in bits. -/
def Program.cwBits (p : Program) : Nat := if p.cw = 0 then 8 else if p.cw = 1 then 16 else 32

/-- A field of a compaction stream written at field position `i` of a side; one that overflows stops the walk (R303). -/
def Walk.field (k : Walk) (e : Nat) (side : StreamSide) (i v : Nat) : Walk :=
  if k.stop ≠ .go then k
  else
    let w := k.p.cwBits
    let tooBig := decide (2 ^ w ≤ v)
    let k := k.writeBits e { side with width := w } (side.base.toNat + i * (w / 8) : Nat) 0 w (if tooBig then 2 ^ w - 1 else v)
    if tooBig && k.stop == .go then
      { k with s := k.s.onTile k.p.tile (·.bumpEvc 15 1), p := { k.p with iovf := true }, stop := .code 4 }
    else k

/-- One element of a compaction walk (R303): its pair if it is not zero, and a row offset before the first row and after each. -/
def Walk.compacted (e : Nat) (k : Walk) : Walk :=
  let n := k.p.pos
  let (i0, i1) := (k.p.level n 0, k.p.level n 1)
  let k0 := if n = 0 ∧ k.p.fork = true then k.field e k.p.frk 0 0 else k
  let (k1, b) := if k0.stop = .go then k0.readElem e n else (k0, 0)
  let (k2, v) := if k1.stop = .go then k1.value e n b else (k1, .nan false)
  let k3 :=
    if k2.stop ≠ .go || v.isZero then k2
    else
      let m := (k2.field e k.p.dst (2 * k.p.pairs) i1).field e k.p.dst (2 * k.p.pairs + 1) i0
      if m.stop = .go then { m with p := { m.p with pairs := m.p.pairs + 1, elems := m.p.elems + 1 } } else m
  let k4 := if k3.stop = .go ∧ i0 + 1 = k.p.count 0 ∧ k.p.fork = true then k3.field e k.p.frk (i1 + 1) k3.p.pairs else k3
  if k4.stop = .go then k4.emitted 0 else k.keep k4

/-- Groups of a program: blocks when the destination is one that is encoded, else elements. -/
def Program.groups (p : Program) : Nat :=
  if p.dstBlock && !p.copies && !p.compact then p.total / p.count 0 * p.passBlocks else p.total

/-- Steps of a walk until it stops. -/
def walkLoop (f : Walk → Walk) : Nat → Walk → Walk
  | 0, k => k
  | n + 1, k => if k.stop = .go then walkLoop f n (f k) else k

/-- The rest of a program's walk (R296 to R303). -/
def State.walkStream (s : State) (e : Nat) (p : Program) : Walk :=
  let f := if p.compact then Walk.compacted e else if p.dstBlock && !p.copies then Walk.block e else Walk.element e
  let k := walkLoop f (p.groups - p.pos) ⟨s, p, .go⟩
  if k.stop = .hold then k
  else
    let (s, p) := k.s.leaveBlock k.p
    ⟨s, p, k.stop⟩

/-! ### Engines (R295, R298, R348) -/

/-- Stream engine `e`. -/
def State.engine (s : State) (e : Nat) : Engine := aget ⟨[], [], [], false⟩ s.engines e

/-- The state with an engine replaced. -/
def State.setEngine (s : State) (e : Nat) (x : Engine) : State := { s with engines := aset s.engines e x }

/-- Whether an engine is withdrawn, its die is down, or no route leads to it from a tile (R344, R427). -/
def State.engineGone (s : State) (t e : Nat) : Bool :=
  (s.engine e).withdrawn || s.fenced (24 + e / 64) || s.downTargets.contains (.edgeDie (24 + e / 64)) || !s.routable t (engineTile e)

/-- A tile's record of its last program on an engine changed, if that is the one of a number (R348). -/
def Tile.onSeStat (x : Tile) (e num : Nat) (f : SeStat → SeStat) : Tile :=
  { x with seStat := x.seStat.map fun r => if r.engine = e ∧ r.num = num then f r else r }

/-- A tile's record of a new SEGO to an engine, which waits (R348), and the SEGO's number. -/
def Tile.newSego (x : Tile) (e : Nat) : Tile × Nat :=
  let num := ((x.seStat.find? (·.engine == e)).map (·.num)).getD 0 + 1
  ({ x with seStat := ⟨e, num, 0, 0xFF, false⟩ :: x.seStat.filter (·.engine != e) }, num)

/-- A program's token written, with its record and its boundary (R298, R348, R242); a promotion under way is given up. -/
def State.endProgram (s : State) (e : Nat) (p : Program) (code : Nat) : State :=
  let s := match p.promo with | some m => s.abandon p.req.dom m | none => s
  ((s.onTile p.tile (·.onSeStat e p.num fun r => { r with elems := p.elems, last := code, iovf := p.iovf })).writeToken p.tile p.req.ctx
    p.req.tok code).passBoundary p.req.dom e

/-- A SEGO refused before it is a program: its token and its record take the code. -/
def State.endSego (s : State) (e : Nat) (w : SegoWait) (code : Nat) : State :=
  (s.onTile w.tile (·.onSeStat e w.num fun r => { r with last := code })).writeToken w.tile w.req.ctx w.req.tok code

/-- The plan of a program, read at module scope (R346). -/
def State.readPlan (s : State) (e : Nat) (p : Program) : Option (List Nat) :=
  match s.streamRead e p linearSide p.planAt 128 with
  | (_, _, .bytes bs) => some ((List.range 32).map fun i => elemOf bs 32 i)
  | _ => none

/-- Whether the index list of a program of engine `e` can be translated and read (R347). -/
def State.idxOk (s : State) (e : Nat) (p : Program) : Bool :=
  !(p.sMode == 2 || p.dMode == 2) ||
    (granules (p.count 0 * p.count 1 / 1024 + 2) p.idx (4 * (p.count 0 * p.count 1))).all fun (va, n) =>
      match s.engineWalk (engineTile e) p.tile va true false false with
      | (_, .at pa) => decide (va + n ≤ 2 ^ 52) && !s.memPoisoned pa n
      | _ => false

/-! ### What a program reaches outside the module's own memory (R433, R437) -/

/-- The index entry of an element as its list now stands, 0 where there is none to read (R297). -/
def State.entryNow (s : State) (p : Program) (n : Nat) : Int :=
  let va := p.idx + 4 * (p.level n 0 + p.count 0 * p.level n 1)
  match s.walked p.tile va false with
  | .fill e => sInt (s.memLe (s.entryAddr e va) 4) 32
  | _ => 0

/-- What one element of a side reaches, as memory and the tables now stand. -/
def State.elemFar (s : State) (p : Program) (side : StreamSide) (n : Nat) : List Nat :=
  let (a, _) := p.locate side n (p.level n 0) (if side.mode = 2 then s.entryNow p n else 0)
  if a < 0 then []
  else if side.mode = 1 then
    match s.btPlace p.req.dom (BitVec.ofInt 64 a) with
    | some q => s.farOf (entryFrame (s.entryAt q.entry) * 4096 + q.off)
    | none => []
  else s.vaFar p.tile a.toNat

/-- What a side of a program reaches: the other modules and, from 65,536, the groups (R435). -/
def State.sideFar (s : State) (p : Program) (side : StreamSide) : List Nat :=
  if side.mode = 3 then
    let m := bits side.base 63 40 / 32768
    if m = s.modNo then [] else [m]
  else ((List.range p.total).flatMap (s.elemFar p side)).eraseDups

/-- What a program of engine `e` reaches by its source, its destination and its FORK; one not started yet, by its plan as it now stands. -/
def State.programFar (s : State) (e : Nat) (p : Program) : List Nat :=
  let p := if p.started then p else match s.readPlan e p with | some plan => { p with plan := plan } | none => p
  s.sideFar p p.src ++ s.sideFar p p.dst ++ if p.fork then s.sideFar p p.frk else []

/-- The first program of an engine started, or, if it was stopped, continued from its record (R295, R304, R391); programs that are refused
when they start are taken out one after the other, until one starts (R347). -/
def State.startNext (s : State) (e : Nat) : Nat → State
  | 0 => s
  | n + 1 =>
    match (s.engine e).slots with
    | [] => s
    | p :: rest =>
      let refuse (s : State) : State :=
        ((s.setEngine e { s.engine e with slots := rest }).endProgram e p 4).startNext e n
      if p.started then s.postOnce (.streamProgramEnd e)
      else
        let s := s.passBoundary p.req.dom e
        if !p.formOk then refuse s
        else match s.readPlan e p with
          | none => refuse s
          | some plan =>
            let seed := p.dws.getD 7 0
            let p' := { p with plan := plan, started := true, draws := if seed = 0 then 1 else seed }
            if !p'.planOk || !s.idxOk e p' then refuse s
            else (s.setEngine e { s.engine e with slots := p' :: rest }).post (.streamProgramEnd e)

/-- A program as its SEGO is accepted (R344): its eight doublewords from the tile's scratchpad. -/
def newProgram (w : SegoWait) (dws : List Word) : Program :=
  ⟨w.tile, w.num, w.req, dws, [], false, 0, 1, 0, 0, false, [], none, none, [], 0⟩

/-- The first waiting SEGO whose tile is not stopped, and the others. -/
def State.nextSego (s : State) (e : Nat) : Option (SegoWait × List SegoWait) :=
  match (s.engine e).waits.findIdx? fun w => !(s.tile w.tile).frozen with
  | none => none
  | some i => ((s.engine e).waits[i]?).map fun w => (w, dropAt (s.engine e).waits i)

/-- The SEGOs that wait at an engine accepted while a slot is free and no program with a record waits for it (R295): their programs are checked
and read (R344), and the engine's access table must let the domain start one (R450; log 44). -/
def State.takeSegos (s : State) (e : Nat) : Nat → State
  | 0 => s
  | n + 1 =>
    if 4 ≤ (s.engine e).slots.length ∨ (s.engine e).back ≠ [] then s
    else match s.nextSego e with
      | none => s
      | some (w, rest) =>
        let x := s.tile w.tile
        let a := w.req.x.toNat
        let s := s.setEngine e { s.engine e with waits := rest }
        if s.engineGone w.tile e then (s.endSego e w 6).takeSegos e n
        else if !(s.rightsAt .engines w.req.dom .context).x then (s.endSego e w 4).takeSegos e n
        else if !s.coreStill w.tile a 64 then (s.endSego e w 1).takeSegos e n
        else if x.spPoisoned a 64 then (s.endSego e w 4).takeSegos e n
        else
          let p := newProgram w ((List.range 8).map fun i => BitVec.ofNat 64 (x.sp.le (a + 8 * i) 8))
          let first := (s.engine e).slots.isEmpty
          let s := s.setEngine e { s.engine e with slots := (s.engine e).slots ++ [p] }
          (if first then s.startNext e 1 else s).takeSegos e n

/-- The free slots of an engine given to the programs that wait for one with their records, and its first program started (R295, R391). -/
def State.takeBack (s : State) (e : Nat) : Nat → State
  | 0 => s
  | n + 1 =>
    let x := s.engine e
    let free := 4 - x.slots.length
    let s := s.setEngine e { x with slots := x.slots ++ x.back.take free, back := x.back.drop free }
    (s.startNext e (s.engine e).slots.length).takeBack e n

/-- The slots of an engine filled: its first program runs, programs with records and then waiting SEGOs are accepted. -/
def State.fillEngine (s : State) (e : Nat) : State :=
  let s := s.takeBack e ((s.engine e).back.length + 1)
  s.takeSegos e (s.engine e).waits.length

/-- STREAM_PROGRAM_START (R289, R295, R344): the oldest SEGO of tile `t` leaves the issue queue for its engine, where it is accepted when a
slot is free and waits otherwise; none leaves a viral die (R385). -/
def execStreamProgramStart (t : Nat) (s : State) : Out :=
  .next (
    let x := s.tile t
    match x.takeReq (· == .sego) with
    | none => s
    | some (r, x') =>
      if x.frozen || s.viralAt t then s.post (.streamProgramStart t)
      else
        let e := r.y.toNat
        let (y, num) := x'.newSego e
        let w : SegoWait := ⟨t, num, r⟩
        let s := s.setTile t y
        if s.engineGone t e then s.endSego e w 6
        else
          let s := s.setEngine e { s.engine e with waits := (s.engine e).waits ++ [w] }
          s.takeSegos e (s.engine e).waits.length)

/-- Whether a side of a program names the panes of a tile whose die is viral and not yet fenced: nothing of it answers (R385). -/
def State.sideMute (s : State) (p : StreamSide) : Bool :=
  p.mode == 3 && bits p.base 63 40 / 32768 == s.modNo && s.mute (bits p.base 63 40 % 32768)

/-- Whether a program must wait for a viral die, or to send again a write that was dropped on its way to another module (R433, R434); when the
path there has gone down it does not, and ends (R432). -/
def State.programHeld (s : State) (e : Nat) (p : Program) : Bool :=
  s.sideMute p.src || s.sideMute p.dst || (p.fork && s.sideMute p.frk) || match p.dropped with
  | some m => s.pathUp m && !s.granted m (.engine e) p.sent
  | none => false

/-- STREAM_PROGRAM_END (R296 to R304): the running program of an engine walks its elements; unless it is held, it ends, bumps its
destination counter, writes its token, and the engine's next program starts; one whose dropped write can no more be sent again ends
TARGET_GONE (R432). -/
def execStreamProgramEnd (e : Nat) (s : State) : Out :=
  .next (match (s.engine e).slots with
    | [] => s
    | p :: rest =>
      if !p.started then s
      else if (s.tile p.tile).frozen || s.programHeld e p then s.post (.streamProgramEnd e)
      else if p.dropped.any fun m => !s.pathUp m then
        ((s.setEngine e { s.engine e with slots := rest }).endProgram e p 6).fillEngine e
      else
        let s := match p.dropped with | some m => s.useGrant m (.engine e) p.sent | none => s
        let k := s.walkStream e (if p.dropped.isSome then { p with dropped := none, sent := 0 } else p)
        let after (s : State) (n : Nat) : State := ((s.setEngine e { s.engine e with slots := rest }).endProgram e k.p n).fillEngine e
        match k.stop with
        | .hold =>
          ((k.s.setEngine e { k.s.engine e with slots := k.p :: rest }).onTile p.tile
            (·.onSeStat e p.num fun r => { r with elems := k.p.elems, iovf := k.p.iovf })).post (.streamProgramEnd e)
        | .code n => after k.s n
        | .go =>
          let q := bits (p.dws.getD 2 0) 63 40
          after (if p.dcnt ≠ 0 ∧ q / 32768 = s.modNo ∧ (s.tile p.tile).replay = false then k.s.bump (q % 32768) p.dcnt 1 else k.s) 0)

/-- The word SESTAT receives (R348). -/
def State.seWord (s : State) (t e : Nat) : Word :=
  let slots := (s.engine e).slots.length
  match (s.tile t).seStat.find? (·.engine == e) with
  | some r => BitVec.ofNat 64 (min r.elems (2 ^ 32 - 1) * 2 ^ 32 + r.last * 2 ^ 16 + bitN r.iovf * 2 ^ 8 + slots)
  | none => BitVec.ofNat 64 slots

/-- ENGINE_ANSWER (R348): the answer to a SESTAT; none is asked from a viral die (R385). -/
def execEngineAnswer (t c : Nat) (s : State) : Out :=
  .next (match (s.ctxAt t c).wait with
    | some (.sent r) =>
      if r.kind = .seStat then
        if s.viralAt t then s.post (.engineAnswer t c) else s.onCtx t c fun k => { k with status := .running, wait := some (.answered r ((s.seWord t r.x.toNat).setWidth 1024)) }
      else s
    | _ => s)

end Sys2Proof.Machine
end

