-- ==== Sys2Proof/Machine/Contain.lean ====
section
/-! DEFINITION. Containment (17: R366 to R385, R460; 21: R436, R437): what S and the controllers do about a trap, a lost tile, an
uncorrectable error, and the kill of a colour or a domain. -/

namespace Sys2Proof.Machine

/-! ### What S sends through LOOPB -/

/-- The header S gives a message it forms (R317, R369, R372, R378). -/
def sHead (hid : Nat) (vn : Bool) (len : Nat) : H0 := ⟨0, hid, vn, false, false, len, false, 0, false, 0⟩

/-- A message that S forms on a tile, as LOOPB with KEEP = 0 numbers it (R406). -/
def State.sMsg (s : State) (t hid : Nat) (vn : Bool) (tag : Word) (pay : List Word) : Msg :=
  { h0 := { sHead hid vn pay.length with dst := s.addr t }.word
    h1 := ({ src := s.addr t, sctx := 5, orighid := 0, returned := false, seq := (s.tile t).seq.toNat } : H1).word
    tag := tag
    pay := pay }

/-- S of a tile places a message in the LOOPB input of its own NI (R406); on a tile that replays, its log feeds it (R394). -/
def State.sLoop (s : State) (t hid : Nat) (vn : Bool) (tag : Word) (pay : List Word) : State :=
  let m := s.sMsg t hid vn tag pay
  (s.takeSeq t).onTile t fun x => if x.replay then x else { x with loopIn := x.loopIn ++ [.msg m false] }

/-! ### Discarding a tile's work (R375, R381, R371) -/

/-- Whether a request that has been sent is performed although its instruction is given up (R276). -/
def ReqKind.kept : ReqKind → Bool
  | .load => false
  | .btRead => false
  | .btData => false
  | .seStat => false
  | .tgNew => false
  | .gangSw => false
  | .take => false
  | .slotLoad => false
  | .tlbInv => false
  | _ => true

/-- The request a context has sent, performed though no register receives its result, after the context's earlier stores (R252, R276). -/
def State.finishSent (s : State) (t c : Nat) : State :=
  match (s.ctxAt t c).wait with
  | some (.sent r) =>
    if !r.kind.kept then s
    else
      let s := if s.viralAt t then s else (s.ctxAt t c).storeQ.foldl (fun s _ => s.performStore t c) s
      let s := s.onCtx t c fun k => { k with wait := none }
      (s.onTile t fun x => { x with left := x.left ++ [((s.tile t).dom, r)] }).performLeft t c
  | _ => s

/-- The fill that a parked context has asked for, on its way though its context is freed, so that a further miss joins the request (R227). -/
def State.answerParked (s : State) (t c : Nat) : State :=
  match s.parkedAt t c with
  | some va => if s.fillComes t va || s.gone (s.serviceTile t) then s else s.sendFill t va (s.ctxAt t c).parkedWrite
  | none => s

/-- A context freed by a kill (R375 step 2, R89, R276). -/
def State.dropCtx (s : State) (t c : Nat) : State :=
  let s := (s.finishSent t c).answerParked t c
  (s.dropEvents (· == .trapDelivery t c)).onTile t fun x =>
    { x.onCtx c Ctx.dropped with
      sEvents := x.sEvents.filter fun e => e != SEvent.trap c
      trapQ := x.trapQ.filter (· != c) }

/-- An operation without the activation that issued it: its token is dropped. -/
def AsyncReq.orphan (r : AsyncReq) : AsyncReq := { r with ctx := 7 }

/-- A tile whose accepted operations of a context have lost their activation (R290, R371). -/
def Tile.orphan (x : Tile) (c : Nat) : Tile :=
  let req (r : AsyncReq) : AsyncReq := if r.ctx = c then r.orphan else r
  let run (r : Run) : Run := { r with req := req r.req }
  { x with
    rmaOps := x.rmaOps.map fun o => { o with req := req o.req }
    rmaDone := x.rmaDone.map fun o => if o.ctx = c then { o with ctx := 7 } else o
    running := x.running.map run
    queued := x.queued.map run
    sac := x.sac.map fun o => { o with req := req o.req } }

/-- The same with the programs of the stream engines, and with completions for the operations left. -/
def State.orphan (s : State) (t c : Nat) : State :=
  let lost := (s.tile t).rmaDone.filter (·.ctx == c)
  let s := s.onTile t (·.orphan c)
  let prog (p : Program) : Program := if p.tile = t ∧ p.req.ctx = c then { p with req := p.req.orphan } else p
  let wait (w : SegoWait) : SegoWait := if w.tile = t ∧ w.req.ctx = c then { w with req := w.req.orphan } else w
  let s := { s with engines := s.engines.map fun (e, x) =>
    (e, { x with slots := x.slots.map prog, back := x.back.map prog, waits := x.waits.map wait }) }
  lost.foldl (fun s o => s.post (.rmaCompletion t (7 * 32 + o.tok.toNat))) s

/-- Whether S's memory holds a poisoned entry for a tile, in a spill ring or in the match-overflow area (R374). -/
def Tile.spoiled (x : Tile) : Bool := x.queues.toList.any (fun u => u.ring.any (·.bad)) || x.area.any (·.bad) || x.votes.any (·.bad)

/-- A tile's structures without the entries whose tag is chosen (R373, R375 step 3); a poisoned entry of a ring or of the area, whose colour S
cannot tell (R374), goes only with the `whole` domain.  DESIGN CHOICE (log 64): a queue whose spill ring this leaves empty is no longer SPILLING,
though R156 names only the refill that empties the ring. -/
def Tile.purge (x : Tile) (f : Nat → Nat → Bool) (whole : Bool) : Tile :=
  let has (m : Msg) : Bool := f (domOf m.tag) (colOf m.tag)
  let keep (l : List Slot) : List Slot := l.filter fun sl => !has sl.msg
  let keepS (l : List Slot) : List Slot := l.filter fun sl => !has sl.msg || (sl.bad && !whole)
  { x with
    queues := vmap (fun u => { u with waiting := keep u.waiting, ring := keepS u.ring, spilling := u.spilling && keepS u.ring != [] }) x.queues
    store := keep x.store
    area := keepS x.area
    votes := x.votes.filter fun v => !f (domOf v.tag) (colOf v.tag) || (v.bad && !whole)
    fifo := vmap (fun l => l.filter fun e => !f e.dom e.col) x.fifo
    counters := vmap (fun k => if f (domOf k.tag) (colOf k.tag) then { k with armed := false } else k) x.counters }

/-- Programs, and SEGOs that wait for a slot, taken out of the stream engines, each ended with a code (R290, R298). -/
def State.killPrograms (s : State) (f : Program → Bool) (g : SegoWait → Bool) (code : Nat) : State :=
  s.engines.foldl (fun s (e, x) =>
    if !((x.slots ++ x.back).any f || x.waits.any g) then s
    else
      let s := s.setEngine e { x with
        slots := x.slots.filter fun p => !f p, back := x.back.filter fun p => !f p, waits := x.waits.filter fun w => !g w }
      let s := ((x.slots ++ x.back).filter f).foldl (fun s p => s.endProgram e p code) s
      ((x.waits.filter g).foldl (fun s w => s.endSego e w code) s).fillEngine e) s

/-- Address of tile (0,0) of the rectangle of a run on a tile (R306). -/
def runOrigin (t : Nat) (r : Run) : Nat := tileAt (dieAt t) ((yOf t + 32 - r.i) % 32) ((xOf t + 32 - r.j) % 32)

/-- Whether runs on two tiles are one run of a rectangle. -/
def sameRun (t : Nat) (r : Run) (u : Nat) (q : Run) : Bool :=
  runOrigin t r == runOrigin u q && r.start == q.start && r.req.dom == q.req.dom && r.base == q.base

/-- A run set to stop at its next boundary on every tile of its rectangle (R313). -/
def State.stopRun (s : State) (t : Nat) (r : Run) (killed : Bool) : State :=
  let stop (u : Nat) (q : Run) : Run :=
    if sameRun t r u q ∧ q.stopAt = none then { q with stopAt := some (q.boundary s.beat), killed := q.killed || killed } else q
  s.mapTiles fun u x => { x with running := x.running.map (stop u), queued := x.queued.map (stop u) }

/-- The asynchronous operations of a tile that a kill names (R290, R313, R325); `whole` when the domain is killed, whose runs end
at the boundary they have reached. -/
def State.killAsync (s : State) (t : Nat) (f : Nat → Nat → Bool) (whole : Bool) : State :=
  let x := s.tile t
  let mine (r : AsyncReq) : Bool := f r.dom r.col
  let s := (x.asyncQ.filter mine).foldl (fun s r => s.writeToken t r.ctx r.tok 7) s
  let s := s.onTile t fun x => { x with
    asyncQ := x.asyncQ.filter fun r => !mine r
    rmaDone := x.rmaDone.map fun o => if f o.dom o.col then { o with code := 7 } else o
    sac := x.sac.map fun o => if mine o.req then { o with code := 7, mem := [], pane := [], evc := none } else o }
  let s := s.endRma t (fun o => mine o.req) 7
  let s := match x.queued with
    | some r => if mine r.req then (((s.onTile t fun x => { x with queued := none }).mmDone t r.req 7).unhold r.holds).nextRun t else s
    | none => s
  let s := match x.running with
    | some r =>
      if !mine r.req then s
      else if whole || r.atStop then s.endRun t 7
      else
        let kill (q : Run) : Run := { q with killed := true }
        let s := s.onTile t fun x => { x with running := x.running.map kill }
        if r.i = 0 ∧ r.j = 0 then s.stopRun t r true else s
    | none => s
  s.killPrograms (fun p => p.tile == t && mine p.req) (fun w => w.tile == t && mine w.req) 7

/-- Everything of the chosen colours on a tile discarded (R375 steps 2 to 4, R380); freed occupancy may start refills (R376). -/
def State.purgeTile (s : State) (t : Nat) (f : Nat → Nat → Bool) (whole : Bool) : State :=
  let s := s.killAsync t f whole
  let dead (k : Ctx) : Bool := match k.act with | some a => f (domOf a.slot.msg.tag) (colOf a.slot.msg.tag) | none => false
  let s := (List.range 5).foldl (fun s c => if dead (s.ctxAt t c) then (s.dropCtx t c).orphan t c else s) s
  let s := s.onTile t (·.purge f whole)
  ((List.range 16).foldl (fun s q => s.refillIfDue t q) s).overflowIfDue t

/-! ### Colour kill (R375 to R380) -/

/-- S starts a colour-reclaim sweep, unless one runs (R379). -/
def State.startSweep (s : State) (dom : Nat) : State := s.postOnce (.colourReclaimSweep dom)

/-- The guardian's notice, when the kill reaches its tile (R378). -/
def State.notice (s : State) (t dom col cause start : Nat) : State :=
  match (s.domain dom).bind fun d => d.colours.find? fun c => c.col == col && c.tile == t with
  | none => s
  | some c => s.sLoop t c.hid false c.tag [BitVec.ofNat 64 col, BitVec.ofNat 64 cause, BitVec.ofNat 64 start]

/-- Whether a tile of a domain has no room in its kill list for a colour (R379). -/
def Tile.killsFull (x : Tile) (dom col : Nat) : Bool :=
  x.dom == dom && dom != 0 && !x.withdrawn && decide (64 ≤ x.kills.length) && !x.kills.contains (dom, col)

/-- A colour kill acts on a tile (R375, R378); S that meets a poisoned entry of a ring or of the area as it purges them kills the domain
(R374). -/
def State.colourKillAt (s : State) (t dom col cause start : Nat) : State :=
  let s := s.onTile t fun x =>
    if x.kills.contains (dom, col) ∨ 64 ≤ x.kills.length then x
    else { x with kills := x.kills ++ [(dom, col)], sEvents := x.sEvents ++ [.killNotice dom col] }
  let s := (s.purgeTile t (fun d c => d == dom && c == col) false).notice t dom col cause start
  if (s.tile t).dom = dom ∧ (s.tile t).spoiled = true then s.killDomain dom 0x20 else s

/-- COLOUR_KILL_ARRIVAL (R375): one that finds a full kill list on a tile of the domain kills the domain, and one that brings a list to 48
entries starts a sweep of the tile's domain (R379). -/
def execColourKillArrival (t dom col cause start : Nat) (s : State) : Out :=
  .next (
    if (s.tile t).killsFull dom col then s.killDomain dom 0x26
    else
      let s := s.colourKillAt t dom col cause start
      let more := s.later.any fun e => match e with | .colourKillArrival _ d c _ _ => d == dom && c == col | _ => false
      let s := if more then s else { s with gong := s.gong.filter fun k => !(k.dom == dom && k.col == col) }
      if 48 ≤ (s.tile t).kills.length ∧ (s.tile t).dom ≠ 0 then s.startSweep (s.tile t).dom else s)

/-- The tag a frame of a fabric buffer carries (R373): its DOM and COL; a request for a reservation is of no domain. -/
def Inbound.owner : Inbound → Option (Nat × Nat)
  | .message m _ _ => some (domOf m.tag, colOf m.tag)
  | .put _ _ o _ _ _ => some (o.dom, o.col)
  | .get _ o _ => some (o.dom, o.col)
  | .ratom _ o _ _ _ _ => some (o.dom, o.col)
  | .load o _ _ => some (o.dom, o.col)
  | .store _ o _ _ _ => some (o.dom, o.col)
  | .atomic o _ _ _ _ _ => some (o.dom, o.col)
  | .colour o _ _ _ => some (o.dom, o.col)
  | .reserve _ _ => none

/-- Whether a frame is of a domain. -/
def Inbound.of (f : Inbound) (dom : Nat) : Bool := f.owner.any (·.1 == dom)

/-- The colours present in a tile's structures and in its activations' `tg` (R379 step 2). -/
def Tile.coloursPresent (x : Tile) (dom : Nat) : List Nat :=
  let of (tag : Word) : List Nat := if domOf tag = dom then [colOf tag] else []
  let slots (l : List Slot) : List Nat := l.flatMap fun sl => of sl.msg.tag
  let req (r : AsyncReq) : List Nat := if r.dom = dom then [r.col] else []
  (x.queues.toList.flatMap fun q => slots q.waiting ++ slots q.ring) ++ slots x.store ++ slots x.area
    ++ (x.votes.flatMap fun v => of v.tag) ++ (x.counters.toList.flatMap fun k => if k.armed then of k.tag else [])
    ++ (x.fifo.toList.flatMap fun l => l.flatMap fun e => if e.dom = dom then [e.col] else [])
    ++ (x.ctxs.toList.flatMap fun k => match k.act with | some a => of a.slot.msg.tag ++ [colOf k.tg] | none => [])
    ++ (x.loopIn.flatMap fun l => match l with | .msg m _ => of m.tag | _ => []) ++ (x.completions.flatMap fun (m, _) => of m.tag) ++ (x.joins.flatMap fun j => of j.tag)
    ++ (x.asyncQ ++ x.rmaOps.map (·.req)).flatMap req ++ (x.rmaDone.flatMap fun o => if o.dom = dom then [o.col] else [])
    ++ (x.running.toList ++ x.queued.toList).flatMap (fun r => req r.req) ++ x.sac.toList.flatMap fun o => req o.req

/-- The colours present in the structures of a domain. -/
def State.coloursPresent (s : State) (d : Domain) : List Nat :=
  (d.tiles.flatMap fun t => (s.tile t).coloursPresent d.dom)
    ++ (s.engines.flatMap fun (_, e) => ((e.slots ++ e.back).map (·.req) ++ e.waits.map (·.req)).flatMap fun r => if r.dom = d.dom then [r.col] else [])
    ++ (s.net.flatMap fun p => if domOf p.msg.tag = d.dom then [colOf p.msg.tag] else [])
    ++ s.ports.toList.flatMap fun x => x.inbox.flatMap fun f => match f.owner with | some (dom, col) => if dom = d.dom then [col] else [] | none => []

/-- The colours of a domain in the kill lists of its tiles whose kill is done everywhere. -/
def State.killedColours (s : State) (d : Domain) : List Nat :=
  ((d.tiles.flatMap fun t => (s.tile t).kills.filterMap fun (k : Nat × Nat) => if k.1 = d.dom then some k.2 else none)
    ++ (d.colours.filterMap fun c => if c.killed then some c.col else none)).eraseDups.filter fun c =>
      !s.gong.any fun k => k.dom == d.dom && k.col == c

/-- How many frames that wait at a port a sweep or kill of a domain has marked: none stands behind them. -/
def Port.marksOf (x : Port) (dom : Nat) : Nat := ((x.marks.find? (·.1 == dom)).map (·.2)).getD 0

/-- Whether the networks, the fabric buffers among them, hold a marked flit of a domain (R379 step 3, R381). -/
def State.markedLeft (s : State) (dom : Nat) : Bool :=
  s.net.any (fun p => p.marked && domOf p.msg.tag == dom)
    || s.ports.toList.any fun x => (x.inbox.take (x.marksOf dom)).any (·.of dom)

/-- The domain's flits marked (R379 step 2), those in the fabric buffers as the frames that stand there now. -/
def State.markFlits (s : State) (dom : Nat) : State :=
  { s with
    net := s.net.map fun p => if domOf p.msg.tag = dom then { p with marked := true } else p
    ports := vmap (fun x => { x with marks := (dom, x.inbox.length) :: x.marks.filter (·.1 != dom) }) s.ports }

/-- COLOUR_RECLAIM_SWEEP (R379; R381 for a killed domain): at the pulse the colours that may return are determined, and when every
flit marked at it is gone they return, and S reinstates the tiles whose kill lists held them (R83; log 46).  None runs while the domain is
switched out (R392). -/
def execColourReclaimSweep (dom : Nat) (s : State) : Out :=
  .next (match s.domain dom with
    | none =>
      if !s.unswept.contains dom then s
      else if s.markedLeft dom then s.post (.colourReclaimSweep dom)
      else { s with unswept := s.unswept.filter (· != dom) }
    | some d =>
      if d.moving then s.post (.colourReclaimSweep dom)
      else match d.sweep with
        | none =>
          let present := s.coloursPresent d
          let back := s.killedColours d ++ (d.colours.map (·.col)).filter fun c => !present.contains c
          ((s.markFlits dom).onDomain dom fun d => { d with sweep := some back }).post (.colourReclaimSweep dom)
        | some back =>
          if s.markedLeft dom then s.post (.colourReclaimSweep dom)
          else
            let mine (k : Nat × Nat) : Bool := k.1 == dom && back.contains k.2
            let s := s.mapTiles fun _ x =>
              let x' := { x with kills := x.kills.filter fun k => !mine k }
              if x.dom = dom ∧ x.kills.any mine = true then x'.reinstated else x'
            s.onDomain dom fun d => { d with sweep := none, colours := d.colours.filter fun c => !back.contains c.col })

/-! ### Domain kill (R381) -/

/-- Whether a step belongs to a domain as a whole. -/
def eventOfDomain (dom : Nat) : Event → Bool
  | .colourKillArrival _ d _ _ _ => d == dom
  | .colourReclaimSweep d => d == dom
  | .domainKill d _ => d == dom
  | .gongStop d => d == dom
  | .gangSwitch d => d == dom
  | .gangResume d => d == dom
  | _ => false

/-- A domain taken off the module: its tiles unbound, its lines written back, its record gone with its tables, its entries in the access
tables, pools, episodes, reservations and save areas; DEBUG of its function reads 0. -/
def State.removeDomain (s : State) (d : Domain) : State :=
  let s := (s.caches.filter (·.dom == d.dom)).foldl (fun s l => s.flushLine l.die l.line) s
  let s := s.mapTiles fun _ x =>
    let x := if x.dom = d.dom ∧ d.dom ≠ 0 then (if x.withdrawn then { x with dom := 0 } else x.unbound) else x
    { x with
      kills := x.kills.filter fun (k : Nat × Nat) => k.1 != d.dom
      left := x.left.filter (·.1 != d.dom)
      joins := x.joins.filter fun j => domOf j.tag != d.dom
      completions := x.completions.filter fun (m, _) => domOf m.tag != d.dom }
  { s with
    domains := s.domains.filter (·.dom != d.dom)
    tables := s.tables.filter (·.dom != d.dom)
    placed := s.placed.filter (·.1 != d.dom)
    gong := s.gong.filter (·.dom != d.dom)
    later := s.later.filter fun e => !eventOfDomain d.dom e }.setDebug d.dom

/-- DOMAIN_KILL (R381); its notice wakes S of the domain's tiles (R405). -/
def execDomainKill (dom cause : Nat) (s : State) : Out :=
  .next (match s.domain dom with
    | none => s
    | some d =>
      let s := (s.killTiles dom).foldl (fun s t => s.purgeTile t (fun e _ => e == dom) true) s
      let s := s.killPrograms (·.req.dom == dom) (·.req.dom == dom) 7
      let s := (s.removeDomain d).markFlits dom
      let s := { s with unswept := dom :: s.unswept.filter (· != dom) }
      let s := d.tiles.foldl (fun s t => s.onTile t fun x => { x with sEvents := x.sEvents ++ [.killNotice dom 0] }) s
      (s.post (.colourReclaimSweep dom)).hostRecord dom 4 cause [])

/-! ### Lost work (R371, R372) -/

/-- DOMAIN_LOST (R372, R437): the message to the surviving tile with the lowest logical index, and the record with its payload;
with no survivor only the record, and the domain is killed with cause 0x25. -/
def State.domainLost (s : State) (dom kind addr : Nat) : State :=
  match s.domain dom with
  | none => s
  | some d =>
    let pay := [BitVec.ofNat 64 kind, BitVec.ofNat 64 addr, BitVec.ofNat 64 s.beat]
    let tag : Word := setDom 0 dom
    match s.survivors d with
    | [] => (s.hostRecord dom 3 0 ([none, none, some tag] ++ (pay ++ List.replicate 13 0).map some)).killDomain dom 0x25
    | t :: _ => s.inPlace d t fun s => (s.hostRecord dom 3 0 (s.sMsg t d.trapHid true tag pay).words).sLoop t d.trapHid true tag pay

/-- Whether an operation that the RMA engine of tile `t` has accepted holds pane `p` of the tile (R233). -/
def Tile.holdsPane (x : Tile) (t p : Nat) : Bool := x.rmaOps.any fun o => o.holds.contains (t, p)

/-- Tile `t` withdrawn (R371 steps 1 to 4, R427): its contents are discarded; operations of it that other agents have accepted
complete with their tokens dropped, from the panes they hold, which nothing else can reach any more.  The domain it was bound to stays named
for those.  Its router keeps forwarding: packets, and the words that its sequencer has injected and those of others, by its slot tables
(R180). -/
def State.discardTile (s : State) (t : Nat) : State :=
  let s := (List.range 6).foldl (fun s c => (s.finishSent t c).orphan t c) s
  (s.dropEvents fun e => match e with | .trapDelivery u _ => u == t | _ => false).onTile t fun x =>
    { Tile.reset with
      enabled := x.enabled
      withdrawn := true
      dom := x.dom
      ctxs := ⟨⟨(List.range 6).map fun c => { Ctx.reset c with storeQ := (x.ctx c).storeQ }⟩, by simp⟩
      sp := x.sp.filter fun c => x.holdsPane t (c.1 / 4096)
      spPoison := x.spPoison.filter fun p => x.holdsPane t (p / 4096)
      panes := ⟨⟨(List.range 128).map fun p => if x.holdsPane t p then x.pane p else Tile.reset.pane p⟩, by simp⟩
      seq := x.seq, kills := x.kills, joins := x.joins, completions := x.completions, linkUp := x.linkUp
      rmaOps := x.rmaOps, rmaDone := x.rmaDone, evc := x.evc, left := x.left
      phases := x.phases, active := x.active, pending := x.pending, past := x.past, injected := x.injected ++ x.underWay s.beat }

/-- A tile withdrawn and its domain told (R371, R372). -/
def State.withdraw (s : State) (t : Nat) : State :=
  if (s.tile t).withdrawn then s
  else
    let dom := (s.tile t).dom
    let s := s.discardTile t
    let s := { s with life := { s.life with withdrawals := min (s.life.withdrawals + 1) (2 ^ 64 - 1) } }
    if dom = 0 then s else s.domainLost dom 1 (s.addr t)

/-- DOUBLE_FAULT (R371). -/
def execDoubleFault (t : Nat) (s : State) : Out := .next (s.withdraw t)

/-! ### Traps (R366 to R370) -/

/-- The kill of a context's colour or domain that a trap ends in (R368). -/
def State.killFor (s : State) (t c : Nat) (domain : Bool) : State :=
  let k := s.ctxAt t c
  let code := bits k.trapc 4 0
  if domain then s.killDomain (s.tile t).dom code else s.killColour (s.addr t) (s.tile t).dom k.colour code

/-- Whether a kill of a domain is in progress. -/
def State.domainDying (s : State) (dom : Nat) : Bool := s.later.any fun e => match e with | .domainKill d _ => d == dom | _ => false

/-- Whether S has still to serve a trap that the tile took before that of context `c` (R366). -/
def State.trapWaits (s : State) (t c : Nat) : Bool :=
  ((s.tile t).trapQ.takeWhile (· != c)).any fun b => s.later.contains (.trapDelivery t b)

/-- TRAP_DELIVERY (R366, R368, R369): S applies the disposition of a trapped context's cause, the traps of a tile in the order they were
taken. -/
def execTrapDelivery (t c : Nat) (s : State) : Out :=
  .next (
    let x := s.tile t
    let k := x.ctx c
    match s.domain x.dom with
    | none => s
    | some d =>
      if k.status ≠ .trapped ∨ s.domainDying d.dom = true then s
      else if x.frozen || s.trapWaits t c then s.post (.trapDelivery t c)
      else
        let code := bits k.trapc 4 0
        let hid := (k.act.map (·.hid)).getD 0
        if hid = d.trapHid ∧ k.act.isSome then s.killFor t c true
        else match d.disp.getD code 0 with
          | 0 => s.killFor t c false
          | 1 => s.killFor t c true
          | 2 => s.postOnce (.gongStop d.dom)
          | _ => s.sLoop t d.trapHid true ((k.act.map (·.slot.msg.tag)).getD 0)
              [k.trapc, k.trappc, k.trapva, k.trapiw, BitVec.ofNat 64 c])

/-- A trap handler's verdict judged (R370). -/
def State.judge (s : State) (t : Nat) (m : Msg) : State :=
  let dom := (s.tile t).dom
  let len := (h0Of m.h0).len
  let c := (payAt m.pay 0).toNat
  let action := (payAt m.pay 1).toNat
  let at' := payAt m.pay 2
  if len = 0 then s.killDomain dom 0x27
  else if 4 < c ∨ (s.ctxAt t c).status ≠ .trapped then s
  else if len = 1 ∨ 3 < action ∨ (action = 1 ∧ (len < 3 ∨ bits at' 1 0 ≠ 0)) then s.killDomain dom 0x27
  else match action with
    | 0 => s.resume t c none
    | 1 => s.resume t c (some at')
    | 2 => s.killFor t c false
    | _ => s.killFor t c true

/-- SERVICE_VERDICT (R370): the oldest verdict in the service buffer; S runs while the domain is stopped, too. -/
def execServiceVerdict (t : Nat) (s : State) : Out :=
  .next (
    let x := s.tile t
    let isVerdict (i : SvcItem) : Bool := match i with | .verdict _ => true | _ => false
    match x.svc.findIdx? isVerdict with
      | none => s
      | some i => match x.svc[i]? with
        | some (.verdict m) => (s.setTile t { x with svc := dropAt x.svc i }).judge t m
        | _ => s)

/-! ### Errors (R373, R374) -/

/-- The work an uncorrectable error damages (R373): that of a colour, or that of a domain. -/
inductive Damage
  | colour (dom col : Nat)
  | domain (dom : Nat)
  deriving DecidableEq, Repr

/-- The work of a tag. -/
def damageOf (tag : Word) : Damage := .colour (domOf tag) (colOf tag)

/-- What an error in an entry of one of a tile's own structures damages (R373), when the entry is there.  A counter that no binding and no CNTSET
has written carries no tag. -/
def Tile.damage (x : Tile) : ErrUnit → Option Damage
  | .queueSlot _ q i => ((x.queue q).waiting[i]?).map fun sl => damageOf sl.msg.tag
  | .matchEntry _ i => match x.store[i]? with
    | some sl => some (damageOf sl.msg.tag)
    | none => ((x.votes.filter (!·.overflowed))[i - x.store.length]?).map fun v => damageOf v.tag
  | .counter _ n => if domOf (x.counter n).tag = 0 then none else some (damageOf (x.counter n).tag)
  | .context _ c => if c < 5 then ((x.ctx c).act).map fun a => damageOf a.slot.msg.tag else none
  | .fifoEntry _ p i => ((x.fifoAt p)[i]?).map fun e => .colour e.dom e.col
  | .sequencer _ queued => (if queued then x.queued else x.running).map fun r => .colour r.req.dom r.req.col
  | .sacOperation _ => x.sac.map fun o => .colour o.req.dom o.req.col
  | .killEntry _ i => (x.kills[i]?).map fun (k : Nat × Nat) => .domain k.1
  | .barval _ => if x.dom = 0 then none else some (.domain x.dom)
  | .paneRecord _ p => if (x.pane p).dom = 0 then none else some (.domain (x.pane p).dom)
  | _ => none

/-- What an error in the spill rings, the match-overflow area or the save area of a tile that is switched out damages (R392). -/
def Tile.savedDamage (x : Tile) : ErrUnit → Option Damage
  | .spillEntry _ q i => ((x.queue q).ring[i]?).map fun sl => damageOf sl.msg.tag
  | .areaEntry _ i => match x.area[i]? with
    | some sl => some (damageOf sl.msg.tag)
    | none => ((x.votes.filter (·.overflowed))[i - x.area.length]?).map fun v => damageOf v.tag
  | u => x.damage u

/-- The tile a unit is of. -/
def unitTile : ErrUnit → Nat
  | .queueSlot t _ _ => t
  | .matchEntry t _ => t
  | .counter t _ => t
  | .context t _ => t
  | .fifoEntry t _ _ => t
  | .sequencer t _ => t
  | .sacOperation t => t
  | .killEntry t _ => t
  | .barval t => t
  | .paneRecord t _ => t
  | .spillEntry t _ _ => t
  | .areaEntry t _ => t
  | _ => 0

/-- The kill that an uncorrectable error starts from a tile. -/
def State.damaged (s : State) (t : Nat) (o : Option Damage) : State :=
  match o with
  | some (.colour dom col) => s.killColour (s.addr t) dom col 0x20
  | some (.domain dom) => s.killDomain dom 0x20
  | none => s

/-- A list of slots with entry `i` poisoned in memory. -/
def spoilAt (l : List Slot) (i : Nat) : List Slot := l.zipIdx.map fun (sl, j) => if j = i then { sl with bad := true } else sl

/-- UNCORRECTABLE_ERROR (R373): an entry of a spill ring or of the match-overflow area is poisoned, and S kills the domain when it reads it
(R374); one of a spill ring or save area of a domain that is switched out starts a kill that the Gong root holds (R392). -/
def execUncorrectableError (u : ErrUnit) (s : State) : Out :=
  .next (match u with
    | .context t c => if c = 5 then s.post (.doubleFault t) else s.damaged t ((s.tile t).damage u)
    | .flit n => match s.net[n]? with | some p => s.damaged p.place (some (damageOf p.msg.tag)) | none => s
    | .streamState e i => match (s.engine e).slots[i]? with
      | some p => s.damaged p.tile (some (.colour p.req.dom p.req.col))
      | none => s
    | .paneData t a =>
      if 0x7C000 ≤ a then s.post (.doubleFault t)
      else s.onTile t fun x => { x with spPoison := a / 8 * 8 :: x.spPoison.filter (· != a / 8 * 8) }
    | .cacheDirty die line => match s.line? die line with | some l => s.setLine { l with poison := l.poison ||| l.dirtyDws } | none => s
    | .cacheClean die line => match s.line? die line with | some l => if l.dirty = 0 then s.dropLine die line else s | none => s
    | .tlbEntry t i => s.onTile t fun x => { x with tlb := dropAt x.tlb i }
    | .handlerEntry t i => s.onTile t fun x => { x with hcache := dropAt x.hcache i }
    | .memoryData pa => s.poisonMem pa 1
    | .sState t => s.post (.doubleFault t)
    | .serviceBuffer t => s.post (.doubleFault t)
    | .dieState d => s.post (.dieViral d)
    | .spillEntry t q i => s.onTile t fun x => x.onQueue q fun u => { u with ring := spoilAt u.ring i }
    | .areaEntry t i => s.onTile t fun x => { x with
        area := spoilAt x.area i
        votes := x.votes.zipIdx.map fun (v, j) =>
          if v.overflowed ∧ x.area.length + (x.votes.take j).countP (·.overflowed) = i then { v with bad := true } else v }
    | .fabricFrame p i => match (vget s.ports p Port.reset).inbox[i]?.bind Inbound.owner with
      | some (dom, col) => s.damaged (portTile p) (some (.colour dom col))
      | none => s
    | .saved dom u => s.damaged (unitTile u) ((s.savedTile dom (unitTile u)).bind (·.savedDamage u))
    | .damagedCol dom => s.killDomain dom 0x20
    | u => s.damaged (unitTile u) ((s.tile (unitTile u)).damage u))

/-- A list of eight counts with one of them raised. -/
def countUp (l : List Nat) (i : Nat) : List Nat := (List.range 8).map fun j => min (l.getD j 0 + bitN (j == i)) (2 ^ 64 - 1)

/-- CORRECTED_ERROR (R373, R451, R454): the lifetime records, and the die's window, count one of an array class. -/
def execCorrectedError (e : Corrected) (s : State) : Out :=
  .next (if 8 ≤ e.cls then s
    else
      let x := vget s.dies e.die Die.reset
      { s with
        life := { s.life with corrected := countUp s.life.corrected e.cls }
        dies := vset s.dies e.die { x with errors := countUp x.errors e.cls } })

/-- VOTE_TIMEOUT (R384): an entry 65,536 beats after its first copy. -/
def execVoteTimeout (t i : Nat) (s : State) : Out :=
  .next (match (s.tile t).votes[i]? with
    | none => s
    | some v =>
      if s.beat < v.first + 65536 then s
      else
        let s := s.onTile t fun x => { x with votes := dropAt x.votes i }
        let s := (if v.decided then
          { s with fv := s.fv + 1 }.logVote t ⟨Config.openWord s.fv 0, Config.openWord s.fv 1, v.tag, [Config.openWord s.fv 2]⟩
          else s.killColour (s.addr t) (domOf v.tag) (colOf v.tag) 0x21)
        s.overflowIfDue t)

/-! ### Remap (R317, R417) -/

/-- The tiles of a rectangle of P rows and Q columns with an origin inside a die. -/
def rectTiles (o p q : Nat) : List Nat :=
  (List.range p).flatMap fun i => (List.range q).map fun j => tileAt (dieAt o) ((yOf o + i) % 32) ((xOf o + j) % 32)

/-- Whether a tile has nothing that a remap would lose (R317 step 3). -/
def Tile.idleForRemap (x : Tile) : Bool :=
  x.running.isNone && x.queued.isNone && (List.range 5).all fun c => (x.ctx c).status == .free

/-- The lowest spare rectangle of a shape on a die (R317 step 2); rectangles go round a die (R306). -/
def spareRect (spares : List Nat) (die p q : Nat) : Option Nat :=
  (List.range 1024).map (die * 1024 + ·) |>.find? fun o => decide (q ≤ 32 ∧ p ≤ 32) && (rectTiles o p q).all spares.contains

/-- The notice of a remap (R317 step 6). -/
def State.remapNotice (s : State) (t u old new : Nat) : State :=
  match s.domain (s.tile t).dom with
  | none => s
  | some d => s.sLoop t d.trapHid true (setDom 0 d.dom) [BitVec.ofNat 64 u, BitVec.ofNat 64 old, BitVec.ofNat 64 new]

/-- A failed tile of a domain replaced by a spare (R317 step 4): no work is lost, so no domain is told; a tile that is not the domain's
stays. -/
def State.replaceTile (s : State) (dom old new : Nat) : State :=
  match s.domain dom with
  | none => s
  | some d =>
    if !d.tiles.contains old then s else
    let i := d.tiles.findIdx (· == old)
    let s := s.discardTile old
    let s := { s with life := { s.life with withdrawals := min (s.life.withdrawals + 1) (2 ^ 64 - 1) } }
    let s := if i < d.tiles.length then s.bindTile d new i else s
    s.onDomain dom fun d => { d with
      tiles := d.tiles.map fun t => if t = old then new else t
      spares := d.spares.filter (· != new) }

/-- CHANNEL_REMAP (R317). -/
def execChannelRemap (t u : Nat) (s : State) : Out :=
  .next (
    let x := s.tile t
    let ea := x.rnsmap.toNat + 8 * u
    let w : Word := BitVec.ofNat 64 (x.sp.le ea 8)
    let old := bits w 23 0
    let o := old % 32768
    let p := bits w 29 24
    let q := bits w 37 32
    match s.domain x.dom with
    | none => s
    | some d =>
      if x.rnsmap = 0 then s
      else match if p = 0 ∨ q = 0 then none else spareRect d.spares (dieAt o) p q with
        | none => s.remapNotice t u old 0
        | some n =>
          let tiles := rectTiles o p q
          if tiles.any fun f => !(s.tile f).idleForRemap then s.post (.channelRemap t u)
          else
            let s := (tiles.zip (rectTiles n p q)).foldl (fun s (a, b) => s.replaceTile d.dom a b) s
            let new := s.addr n
            let s := s.onTile t fun x => x.spPut ea (leBytes 8 (setBits w 23 0 new).toNat)
            { s with life := { s.life with remaps := min (s.life.remaps + 1) (2 ^ 64 - 1) } }.remapNotice t u old new)

/-! ### Federations (R436, R437) -/

/-- FEDERATED_COLOUR_KILL (R436): a kill that another module of the federation started. -/
def execFederatedColourKill (dom col cause start : Nat) (s : State) : Out := .next (s.killHere start dom col cause)

/-- FEDERATION_REGISTRATION (R428). -/
def execFederationRegistration (dom : Nat) (mods : List Nat) (s : State) : Out :=
  .next ({ s with federations := (dom, mods) :: s.federations.filter (·.1 != dom) }.onDomain dom fun d => { d with federation := mods })

/-- What the program of a SEGO that its engine has not accepted reaches, as its descriptor now stands (R344). -/
def State.segoFar (s : State) (t : Nat) (r : AsyncReq) : List Nat :=
  s.programFar r.y.toNat (newProgram ⟨t, 0, r⟩ ((List.range 8).map fun i => BitVec.ofNat 64 ((s.tile t).sp.le (r.x.toNat + 8 * i) 8)))

/-- What a range of addresses of tile `t` reaches outside the module. -/
def State.rangeFar (s : State) (t va n : Nat) : List Nat := (granules (n / 4096 + 2) va n).flatMap fun (va, _) => s.vaFar t va

/-- What a SACP or SACC that its unit has not accepted reaches, as its descriptor now stands (R349). -/
def State.sacFar (s : State) (t : Nat) (r : AsyncReq) : List Nat :=
  s.rangeFar t r.x.toNat 64 ++ match s.walked t r.x.toNat false with
    | .fill e =>
      let bs := s.memRead (s.entryAddr e r.x.toNat) 64
      let p := sacPlan r ((List.range 8).map fun i => BitVec.ofNat 64 (elemOf bs 64 i))
      s.rangeFar t p.sin p.inBytes ++ s.rangeFar t p.sout p.osize
    | _ => []

/-- What an operation of the RMA engine of tile `t` reaches, with what it has read from CORE panes. -/
def State.rmaFar (s : State) (t : Nat) (r : AsyncReq) (words : List Nat) : List Nat :=
  if r.y.getLsbD 63 then
    let ads := match r.op with | .ratom _ => [(remoteAddr r.x true, 0)] | _ => (rmaPlan r words).moves
    ads.flatMap fun (va, _) => s.vaFar t va
  else if bits r.x 63 40 / 32768 = s.modNo then [] else [bits r.x 63 40 / 32768]

/-- What a request that waits in the queue of tile `t` reaches outside the module, as memory and the tables now stand. -/
def State.reqFar (s : State) (t : Nat) (r : AsyncReq) : List Nat :=
  if r.op == .sego then s.segoFar t r
  else if r.op.isSac then s.sacFar t r
  else if r.op.isRma then s.rmaFar t r ((s.tile t).rmaWords r)
  else []

/-- The operations of a tile of a domain that reach what is lost end ABORTED (R437). -/
def State.abortToward (s : State) (dom t : Nat) (hit : List Nat → Bool) : State :=
  let mine (r : AsyncReq) : Bool := r.dom == dom && hit (s.reqFar t r)
  let s' := ((s.tile t).asyncQ.filter mine).foldl (fun s r => s.writeToken t r.ctx r.tok 5) s
  let s' := s'.onTile t fun x => { x with
    asyncQ := x.asyncQ.filter fun r => !mine r
    rmaDone := x.rmaDone.map fun o => if o.dom = dom ∧ hit o.far then { o with code := 5 } else o
    sac := x.sac.map fun o =>
      if o.req.dom = dom ∧ hit o.far = true then { o with code := 5, mem := [], pane := [], evc := none } else o }
  s'.endRma t (fun o => o.req.dom == dom && hit (o.far ++ s.rmaFar t o.req o.words)) 5

/-- The programs and the waiting SEGOs in the engine save area of a domain that reach what is lost end ABORTED, too (R437). -/
def State.abortSaved (s : State) (d : Domain) (hit : List Nat → Bool) : State :=
  let lost (e : Nat × Program) : Bool := hit ((s.withImage d e.2.tile).programFar e.1 e.2)
  let lostWait (e : Nat × SegoWait) : Bool := hit ((s.withImage d e.2.tile).segoFar e.2.tile e.2.req)
  let s' := (d.savedPrograms.filter lost).foldl (fun s' (e, p) => s'.inPlace d p.tile (·.endProgram e p 5)) s
  let s' := (d.savedWaits.filter lostWait).foldl (fun s' (e, w) => s'.inPlace d w.tile (·.endSego e w 5)) s'
  s'.onDomain d.dom fun d => { d with
    savedPrograms := d.savedPrograms.filter fun e => !lost e, savedWaits := d.savedWaits.filter fun e => !lostWait e }

/-- FEDERATION_MODULE_LOSS (R437): DOMAIN_LOST of kind 3, the operations outstanding toward the module or a group of the domain end
ABORTED, those saved while it is switched out among them, and the domain's groups are dissolved. -/
def execFederationModuleLoss (dom m : Nat) (s : State) : Out :=
  .next (match s.domain dom with
    | none => s
    | some d =>
      let lost : List Nat := m :: (s.groups.filter (·.dom == dom)).map fun g => 65536 + g.g
      let hit (l : List Nat) : Bool := l.any lost.contains
      let s := d.tiles.foldl (fun s t => s.inPlace d t (·.abortToward dom t hit)) s
      let s := s.killPrograms (fun p => p.req.dom == dom && hit (s.programFar p.req.y.toNat p))
        (fun w => w.req.dom == dom && hit (s.segoFar w.tile w.req)) 5
      let s := s.abortSaved d hit
      ({ s with groups := s.groups.filter (·.dom != dom) }.domainLost dom 3 (m * 32768)))

/-- JOB_LEAVES (R139): S unbinds the tiles of a domain whose job is over. -/
def execJobLeaves (dom : Nat) (s : State) : Out :=
  .next (match s.domain dom with
    | none => s
    | some d => s.removeDomain d)

end Sys2Proof.Machine
end

