-- ==== Sys2Proof/Machine/NiSteps.lean ====
section
/-! DEFINITION. The pending steps of the network interface, the Carillon and the colour allocator (06: R153 to R168, R172; 07:
R194, R203 to R208). -/

namespace Sys2Proof.Machine

/-! ### Colours (R194, R140, R428) -/

/-- Whether a colour of a domain is free: neither registered nor killed (R140, R379). -/
def State.colourFree (s : State) (d : Domain) (c : Nat) : Bool :=
  !(d.colours.any (·.col == c)) && !(s.gong.any fun k => k.dom == d.dom && k.col == c)
    && !(d.tiles.any fun t => (s.tile t).kills.contains (d.dom, c))

/-- The first free colour at or after the `start`-th of 1 to 0xFFF, in turn. -/
def State.firstFree (s : State) (d : Domain) (start : Nat) : Option Nat :=
  ((List.range 4095).map fun i => (start + i) % 4095 + 1).find? (s.colourFree d)

/-- Whether a domain's colour allocator is another module's: that of its federation's lowest number (R428). -/
def State.allocatesAfar (s : State) (d : Domain) : Bool := d.federation.any fun m => decide (m < s.modNo)

/-- COLOUR_ALLOCATOR_ANSWER (R194): which free colour is free; with none, S starts a sweep (R379).  Another module's allocator answers a free
colour, or none (R428; log 21). -/
def execColourAllocatorAnswer (t c : Nat) (s : State) : Out :=
  .next (match (s.ctxAt t c).wait with
    | some (.sent r) =>
      if r.kind ≠ .tgNew then s
      else
        let k := s.ctxAt t c
        let answer (s : State) (n : Nat) : State :=
          s.onCtx t c fun k => { k with status := .running, wait := some (.answered r (BitVec.ofNat 1024 n)) }
        match s.domain r.x.toNat with
        | none => answer s 0
        | some d => match s.firstFree d (Config.pick s.fv) with
          | none => if s.allocatesAfar d then answer s 0 else (answer s 0).startSweep d.dom
          | some n =>
            let col : Colour := ⟨n, t % 32768, bits k.mh0 39 28, (k.act.map (·.slot.msg.tag)).getD k.tg, false⟩
            let s' := { s with fv := s.fv + 1 }
            if s.allocatesAfar d ∧ Config.performed s.fv = false then answer s' 0
            else (answer s' n).onDomain d.dom fun d => { d with colours := d.colours ++ [col] }
    | _ => s)

/-! ### Arrivals (R153, R172) -/

/-- Whether a slot placed in a queue would be passed to S (R153). -/
def Tile.spills (x : Tile) (q : Nat) (vn : Bool) : Bool := x.overflows q && ((x.queue q).spill || vn)

/-- Whether an arrival is a verdict for S (R370). -/
def State.isVerdict (s : State) (t : Nat) (m : Msg) : Bool :=
  (h0Of m.h0).hid == 0xFFF && domOf m.tag == (s.tile t).dom && (s.tile t).dom != 0 && (h1Of m.h1).src == s.addr t

/-- Whether a message that enters Arrive would need S (R159): a verdict, a spill, or a match overflow. -/
def State.arrivalNeedsS (s : State) (t : Nat) (m : Msg) : Bool :=
  let x := s.tile t
  let h := h0Of m.h0
  if x.killed m.tag || x.withdrawn then false
  else if h.hid = 0xFFF then s.isVerdict t m
  else if domOf m.tag ≠ x.dom then false
  else match s.validHandler t x.dom h.hid with
    | none => false
    | some e =>
      if e.arity2 && decide (8 < h.len) then false
      else if e.arity2 then
        match x.store.find? fun u => partners u.msg m with
        | some u => x.spills e.queue (h0Of (pairSlot u.msg m).msg.h0).vn
        | none => x.storeFull
      else x.spills e.queue h.vn

/-- Whether a message resolved from a network would need S (R159): a copy needs it when it opens a vote entry in a full store, or makes a copy
win that needs it, by when a third copy's entry is retired (R384). -/
def State.needsS (s : State) (t : Nat) (m : Msg) : Bool :=
  let x := s.tile t
  if x.killed m.tag || x.withdrawn then false
  else if !(h0Of m.h0).triple then s.arrivalNeedsS t m
  else match x.votes.find? (·.isFor m) with
    | none => x.storeFull
    | some v => match v.elects m with
      | none => false
      | some w =>
        let s := if v.copies.length = 1 then s else s.onTile t fun y => { y with votes := y.votes.erase v }
        s.arrivalNeedsS t w

/-- Whether an arrival must wait for a free entry of the service buffer (R159). -/
def State.svcFull (s : State) (t : Nat) (m : Msg) : Bool := decide (8 ≤ (s.tile t).svc.length) && s.needsS t m

/-- A message resolved from a network: one with TRIPLE is voted (R384) unless the tile is withdrawn (R371), another enters Arrive. -/
def State.resolveNet (s : State) (t : Nat) (p : Packet) : State :=
  let s := s.countResolved t p.msg
  if (h0Of p.msg.h0).triple && !(s.tile t).withdrawn then s.vote t p.msg p.pos else s.arrive t p.msg .net

/-- The packets of a network that wait at a tile, by their places, in the order in which they came. -/
def State.waiting (s : State) (t : Nat) (reply : Bool) : List (Nat × Packet) :=
  (s.net.zipIdx.filter fun (p, _) => p.place == t % 32768 && p.ejected && p.reply == reply).map fun (p, i) => (i, p)

/-- The packet that is next among some: the first of its source, one of PRI = 1 before the others (R151, R171). -/
def frontOf (l : List (Nat × Packet)) : Option (Nat × Packet) :=
  let first := l.filter fun (i, p) => !l.any fun (j, q) => decide (j < i) && (h1Of q.msg.h1).src == (h1Of p.msg.h1).src
  (first.find? fun (_, p) => (h0Of p.msg.h0).pri).or first.head?

/-- Whether a message that enters Arrive waits for its handler table entry (R152): the cache lacks it, and the read of it is still under way. -/
def State.entryLate (s : State) (t i : Nat) (m : Msg) : Bool :=
  let x := s.tile t
  let hid := (h0Of m.h0).hid
  hid != 0xFFF && domOf m.tag == x.dom && x.dom != 0 && !x.withdrawn && !x.killed m.tag
    && !(x.hcache.any fun e => e.1 == x.dom && e.2.1 == hid) && Config.lateEntry s.fv i

/-- The same of a message from a network: of a copy, if the copy it makes win does (R384). -/
def State.netLate (s : State) (t i : Nat) (m : Msg) : Bool := ((s.tile t).enters m).any (s.entryLate t i)

/-- The same of an entry of the LOOPB input; work that S issues there names its queue itself. -/
def State.loopLate (s : State) (t i : Nat) (l : LoopIn) : Bool := match l with | .msg m _ => s.entryLate t i m | _ => false

/-- The entry of the LOOPB input that an NI takes: the first that does not wait for its handler entry, nor names the HID of one that waits
(R152). -/
def State.takesLoop (s : State) (t : Nat) : List Nat → List (Nat × LoopIn) → Option (Nat × LoopIn)
  | _, [] => none
  | held, (i, l) :: rest =>
    let hids := match l with | .msg m _ => [(h0Of m.h0).hid] | _ => []
    if hids.any held.contains then s.takesLoop t held rest
    else if s.loopLate t i l then s.takesLoop t (hids ++ held) rest
    else some (i, l)

/-- The arrival an NI takes, of at most `n` looked at: the next that does not wait for its handler entry, nor names the HID of one that waits;
a held one lets those of its source for other HIDs pass (R152). -/
def State.takes (s : State) (t : Nat) : Nat → List Nat → List (Nat × Packet) → Option (Nat × Packet)
  | 0, _, _ => none
  | n + 1, held, l =>
    match frontOf l with
    | none => none
    | some (i, p) =>
      let hid := (h0Of p.msg.h0).hid
      if held.contains hid || s.netLate t i p.msg then s.takes t n (hid :: held) (l.filter (·.1 != i)) else some (i, p)

/-- The oldest entry of a spill ring placed at the tail of its queue (R157); S goes on while the queue has room.  A poisoned entry kills the
domain (R374). -/
def State.placeRefill (s : State) (t q : Nat) : State :=
  let x := s.tile t
  match (x.queue q).ring with
  | [] => s
  | sl :: rest =>
    if (x.queue q).depth ≤ x.occupancy q then s
    else if sl.bad then (s.onTile t (·.onQueue q fun u => { u with ring := rest })).killDomain x.dom 0x20
    else
      let s := s.onTile t (·.onQueue q fun u => { u with ring := rest })
      let s := (s.place t q sl .refill).1.placed' .queued t sl.owed q .refill
      let y := s.tile t
      if rest ≠ [] ∧ y.occupancy q < (y.queue q).depth then s.onTile t fun y => { y with loopIn := y.loopIn ++ [.ring q] } else s

/-- The first pair of partners in a match-overflow area, by their places, the later second. -/
def areaPair (l : List Slot) : Option (Nat × Nat) :=
  (List.range l.length).findSome? fun j =>
    ((List.range j).find? fun i =>
      match l[i]?, l[j]? with | some a, some b => partners a.msg b.msg | _, _ => false).map fun i => (i, j)

/-- The queue for which the next pair of the match-overflow area is, and the slot of the pair. -/
def State.areaSlot (s : State) (t : Nat) : Option (Nat × Slot) :=
  let x := s.tile t
  match areaPair x.area with
  | none => none
  | some (i, j) => match x.area[i]?, x.area[j]? with
    | some a, some b => some (((s.handler t x.dom (h0Of b.msg.h0).hid).map (·.queue)).getD 0, (pairSlot a.msg b.msg).owing [a.msg, b.msg])
    | _, _ => none

/-- A pair that S found in the area enters the NI as one matched arrival (R161): refused, the later operand is returned and the other stays. -/
def State.placePair (s : State) (t : Nat) : State :=
  let x := s.tile t
  match areaPair x.area, s.areaSlot t with
  | some (i, j), some (q, sl) =>
    let rest := s.onTile t fun x => { x with area := dropAt x.area j }
    let again (s : State) : State := if (s.tile t).areaUsed = 0 then s else s.postOnce (.matchOverflowService t)
    match rest.place t q sl .loopb with
    | (_, .refused) => again (match x.area[j]? with | some b => rest.returnOrDrop t b.msg | none => rest)
    | (s', p) => again ((s'.onTile t fun x => { x with area := dropAt x.area i }).placed' p t sl.owed q .loopb)
  | _, _ => s

/-- Whether an entry of the LOOPB input would need S (R159): a refill is placed in any case (R153). -/
def State.loopNeedsS (s : State) (t : Nat) (l : LoopIn) : Bool :=
  match l with
  | .msg m false => s.arrivalNeedsS t m
  | .msg m true => !(s.tile t).killed m.tag && !(s.tile t).withdrawn && s.isVerdict t m
  | .ring _ => false
  | .pair => match s.areaSlot t with
    | some (q, sl) => (s.tile t).spills q (h0Of sl.msg.h0).vn
    | none => false

/-- MESSAGE_ARRIVAL (R153, R172): one arrival of an input class of tile `t`, the first that waits for no handler entry (R152).  While it
needs S and the service buffer is full it waits (R151, R159).  DEDUCED (log 59): no arrival of its class passes it meanwhile. -/
def execMessageArrival (t : Nat) (cls : ArrClass) (s : State) : Out :=
  let net (reply : Bool) : State :=
    let l := s.waiting t reply
    let late := l.any fun (i, p) => s.netLate t i p.msg
    let s' := if late then { s with fv := s.fv + 1 } else s
    match s.takes t l.length [] l with
    | none => s'
    | some (i, p) => if s.svcFull t p.msg then s' else { s' with net := dropAt s'.net i }.resolveNet t p
  .next (match cls with
    | .loopb =>
      let l := (s.tile t).loopIn.zipIdx.map fun (m, i) => (i, m)
      let s' := if l.any fun (i, m) => s.loopLate t i m then { s with fv := s.fv + 1 } else s
      match s.takesLoop t [] l with
      | none => s'
      | some (i, m) =>
        if decide (8 ≤ (s.tile t).svc.length) && s.loopNeedsS t m then s' else
        let s := s'.onTile t fun x => { x with loopIn := dropAt x.loopIn i }
        match m with
        | .msg m refill => s.arrive t m (if refill then .refill else .loopb)
        | .ring q => s.placeRefill t q
        | .pair => s.placePair t
    | .reply => net true
    | .req => net false)

/-- Work of S for the LOOPB input, unless it is there already. -/
def Tile.loopOnce (x : Tile) (l : LoopIn) : Tile := if x.loopIn.contains l then x else { x with loopIn := x.loopIn ++ [l] }

/-- SPILL_REFILL (R157, R159): S serves the service-buffer entry of a spill of queue `q`, whose slot it has appended to the ring; or the NI
asks for a refill that is due, and S then issues it by LOOPB. -/
def execSpillRefill (t q : Nat) (s : State) : Out :=
  .next (
    let x := s.tile t
    if x.svc.contains (.spill q) then (s.onTile t (·.served (.spill q))).refillIfDue t q
    else if !x.refillDue q then s.onTile t (·.served (.refill q))
    else if x.svc.contains (.refill q) then s.onTile t fun x => (x.served (.refill q)).loopOnce (.ring q)
    else (s.onTile t (·.serve (.refill q))).post (.spillRefill t q))

/-- An operand written into a free entry of the matching store with the next arrival order, an event of UNIT 3 for the entry's number (R407). -/
def State.putStore (s : State) (t : Nat) (sl : Slot) : State :=
  let i := (s.tile t).store.length
  ((s.takeOrder t).onTile t fun x => { x with store := x.store ++ [sl] }).injectSlot t 3 i sl.msg
    fun y w => { y with store := y.store.dropLast ++ [sl.setH0 w] }

/-- The oldest entries of the match-overflow area written back into free store entries, as they stood; operands first, then votes. -/
def State.writeBackArea (s : State) (t : Nat) : State :=
  let x := s.tile t
  let n := 512 - x.storeUsed
  let back := x.area.take n
  let s := back.foldl (fun s sl =>
    (s.putStore t sl).logArrival t sl.msg (((s.handler t x.dom (h0Of sl.msg.h0).hid).map (·.queue)).getD 0) .loopb)
      (s.onTile t fun x => { x with area := x.area.drop n })
  let votes := ((List.range x.votes.length).filter fun i => (x.votes[i]?.map (·.overflowed)).getD false).take (n - back.length)
  votes.foldl (fun s i =>
    (s.onTile t fun x => { x with votes := x.votes.modify i fun v => { v with overflowed := false } }).voteEvent t i) s

/-- MATCH_OVERFLOW_SERVICE (R161): S takes an operand passed to it; it enters a pair it finds in the area by LOOPB, or writes the oldest
entries back when store occupancy is at or below 256.  A poisoned entry that it reads kills the domain (R374). -/
def execMatchOverflowService (t : Nat) (s : State) : Out :=
  .next (
    let s := s.onTile t (·.served .overflow)
    let x := s.tile t
    if x.area.any (·.bad) || x.votes.any (·.bad) then s.killDomain x.dom 0x20
    else if (areaPair x.area).isSome then s.onTile t (·.loopOnce .pair)
    else if x.areaUsed = 0 ∨ 256 < x.storeUsed then s
    else s.writeBackArea t)

/-! ### Counters and dispatch (R164, R166) -/

/-- TIMER_TICK (R164, R201): each armed TIMER counter of a tile is bumped, at a beat whose BEAT[9:0] is 0, but one that CNTSET set in this
beat; a domain being switched counts no more, and first after the beat of its resume again (R388, R391). -/
def execTimerTick (t : Nat) (s : State) : Out :=
  .next (
    let still := match s.domain (s.tile t).dom with
      | some d => (d.moving && ((s.tile t).frozen || !d.switching)) || d.resumedAt == some s.beat
      | none => false
    if s.beat % 1024 ≠ 0 ∨ still = true then s
    else
      let fresh := (s.tile t).freshCnt
      (List.range 64).foldl (fun s c => if ((s.tile t).counter c).timer ∧ fresh ≠ some c then s.bump t c 1 else s) s)

/-- DISPATCH (R166). -/
def execDispatch (t : Nat) (s : State) : Out := .next (s.dispatchBeat t)

/-! ### Barriers (R203 to R207) -/

/-- The value of an episode after one more join (R204). -/
def joinValue (op : Nat) (a b : Word) : Word :=
  match op with
  | 0 => a + b
  | 1 => if a.slt b then b else a
  | _ => if b.slt a then b else a

/-- An episode with a join counted (R203): the first join fixes N, OP, HID and the record's address. -/
def Episode.count' (e : Episode) (j : Join) : Episode :=
  { e with
    acc := joinValue e.op e.acc j.val
    count := e.count + 1
    mismatch := e.mismatch || !(e.n == j.n && e.op == j.op && e.hid == j.hid && e.place == j.place)
    evc := (List.range 16).map fun i => min (e.evc.getD i 0 + j.evc.getD i 0) (2 ^ 32 - 1)
    joiners := e.joiners ++ [(j.tile, j.tag)] }

/-- The episode a join opens. -/
def Join.opens (j : Join) : Episode := ⟨j.g, j.n, j.op, j.hid, j.place, j.val, 1, false, j.evc, [(j.tile, j.tag)]⟩

/-- The 128 bytes of an episode record (R206). -/
def Episode.record (e : Episode) (number : Nat) : List Byte :=
  leBytes 8 e.acc.toNat ++ leBytes 4 number ++ leBytes 4 e.n ++ leBytes 4 (bitN e.mismatch) ++ List.replicate 44 0
    ++ (List.range 16).flatMap fun i => leBytes 4 (e.evc.getD i 0)

/-- The completion message of a join, before it has its number (R205). -/
def Episode.message (e : Episode) (number addr : Nat) (tag : Word) : Msg where
  h0 := ({ dst := addr, hid := e.hid, vn := false, pri := false, port := false, len := 2, triple := false, copy := 0, drop := false, cnt := 0 } : H0).word
  h1 := ({ src := addr, sctx := 7, orighid := 0, returned := false, seq := 0 } : H1).word
  tag := tag
  pay := [e.acc, BitVec.ofNat 64 (number + bitN e.mismatch * 2 ^ 32)]

/-- An episode completed (R205, R206): its record is written and each joining tile has a completion message on its way. -/
def State.completeEpisode (s : State) (d : Domain) (e : Episode) : State :=
  let number := (((d.completed.find? (·.1 == e.g)).map (·.2)).getD 0 + 1) % 2 ^ 32
  let s := s.memWrite e.place (e.record number)
  let s := s.onDomain d.dom fun d => { d with
    completed := (e.g, number) :: d.completed.filter (·.1 != e.g)
    episodes := d.episodes.filter (·.g != e.g) }
  e.joiners.foldl (fun s (t, tag) =>
    (s.onTile t fun x => { x with completions := x.completions ++ [(e.message number (s.addr t) tag, e.g, e.acc)] }).post
      (.barrierCompletion t)) s

/-- BARRIER_JOIN_ARRIVAL (R203): the oldest join of tile `t` reaches the Carillon root; none leaves a viral die (R385). -/
def execBarrierJoinArrival (t : Nat) (s : State) : Out :=
  .next (match (s.tile t).joins with
    | [] => s
    | j :: rest =>
      if s.viralAt t then s else
      let s := s.onTile t fun x => { x with joins := rest }
      match s.domain (domOf j.tag) with
      | none => s
      | some d =>
        let e := match d.episodes.find? (·.g == j.g) with | some e => e.count' j | none => j.opens
        if e.count = e.n then s.completeEpisode d e
        else s.onDomain d.dom fun d => { d with episodes := e :: d.episodes.filter (·.g != j.g) })

/-- BARRIER_COMPLETION (R205): BARVAL takes the value, and the message its number, and enters Arrive. -/
def execBarrierCompletion (t : Nat) (s : State) : Out :=
  .next (match (s.tile t).completions with
    | [] => s
    | (m, g, w) :: rest =>
      let x := s.tile t
      let m := { m with h1 := { h1Of m.h1 with seq := x.seq.toNat }.word }
      let s := s.setTile t { x with completions := rest, barval := vset x.barval g w, seq := x.seq + 1 }
      s.arrive t m .barrier)

end Sys2Proof.Machine
end

