-- ==== Sys2Proof/Machine/Fabric.lean ====
section
/-! DEFINITION. The networks and the fabric (06: R151, R169 to R171; 21: R423 to R436, R458, R459; 09: R244, R245; 22: R450, R457): one
hop of a packet, links and their counts, paths to other modules, what comes in from them, drops and reservations, multicast groups. -/

namespace Sys2Proof.Machine

/-! ### Where a packet goes next (R170, R425, R429) -/

/-- Destination of a packet. -/
def Packet.dst (p : Packet) : Nat := (h0Of p.msg.h0).dst
/-- Whether a packet is bound for another module. -/
def State.leaves (s : State) (p : Packet) : Bool := p.dst / 32768 != s.modNo

/-- The tile inside the module that a packet makes for: its destination, or the port its module is reached by (R428). -/
def State.goal (s : State) (p : Packet) : Option Nat :=
  if s.leaves p then (s.routePort (p.dst / 32768)).map portTile else some (p.dst % 32768)

/-- What a hop of a packet comes to. -/
inductive Hop
  | inject
  | move (place : Nat) (cls : PClass)
  | eject
  | lost
  deriving DecidableEq, Repr

/-- The next hop of a packet. -/
def State.nextHop (s : State) (p : Packet) : Hop :=
  if !p.injected then .inject
  else match s.goal p with
    | none => .lost
    | some q =>
      if p.place = q then .eject
      else match s.hop p.place q p.cls with
        | some (place, cls) => .move place cls
        | none => .lost

/-- Whether an earlier packet of one source, destination and network stands in the same place (R171). -/
def State.behind (s : State) (n : Nat) (p : Packet) : Bool :=
  (s.net.take n).any fun q => q.place == p.place && q.reply == p.reply && q.dst == p.dst && !q.dropped
    && (h1Of q.msg.h1).src == (h1Of p.msg.h1).src && q.ejected == p.ejected && q.injected == p.injected && q.link == p.link

/-- What a hop needs of the router that makes it: the link to the next place, whichever buffer class takes the packet there. -/
def Hop.link : Hop → Hop
  | .move place _ => .move place .dest
  | h => h

/-- Whether a packet of PRI = 1 waits in the same place for what a packet of PRI = 0 waits for (R151). -/
def State.outranked (s : State) (p : Packet) : Bool :=
  !(h0Of p.msg.h0).pri && s.net.zipIdx.any fun (q, i) =>
    (h0Of q.msg.h0).pri && q.place == p.place && q.reply == p.reply && !q.ejected && q.link == none && !q.dropped
      && !s.behind i q && (s.nextHop q).link == (s.nextHop p).link

/-- The networks with packet `n` replaced. -/
def State.setPacket (s : State) (n : Nat) (p : Packet) : State := { s with net := s.net.set n p }
/-- The networks without packet `n`. -/
def State.dropPacket (s : State) (n : Nat) : State := { s with net := dropAt s.net n }

/-! ### Packets that cannot be delivered (R154, R432, R458, R459) -/

/-- ReturnOrDrop made by a router or endpoint with an address of the module: it counts in no event counter (R459), and its sequence number is
free, since no tile's NI gives it one (log 18). -/
def State.routerReturn (s : State) (at' : Nat) (m : Msg) : State :=
  match s.domain (domOf m.tag) with
  | none => s
  | some d =>
    if (h1Of m.h1).returned then s.killColour (s.addr at') (domOf m.tag) (colOf m.tag) 0x22
    else
      let h0 := h0Of m.h0
      let seq := (Config.openWord s.fv 0).toNat % 2 ^ 16
      let r : Msg := { m with
        h0 := { h0 with dst := (h1Of m.h1).src, hid := d.refusal, vn := true, cnt := 0, triple := false, copy := 0, drop := false }.word
        h1 := ({ src := s.addr at', sctx := 6, orighid := h0.hid, returned := true, seq := seq } : H1).word }
      { s with fv := s.fv + 1 }.inject at' r true

/-- ReturnOrDrop made at an address: by a tile's NI, or by an endpoint of an edge die. -/
def State.giveBack (s : State) (at' : Nat) (m : Msg) : State := if 24 ≤ dieAt at' then s.routerReturn at' m else s.returnOrDrop at' m

/-- A packet whose path to another module is down: returned by what holds it, or discarded with an UNDELIVERED record (R432, R458). -/
def State.pathLost (s : State) (at' : Nat) (p : Packet) (byNi : Bool) : State :=
  if p.reply then s.undelivered p.msg
  else if byNi then s.giveBack at' p.msg else s.routerReturn at' p.msg

/-- What an NI makes of a message of its own as it injects it (R458, R459): none when the message goes out. -/
def State.formedGone (s : State) (p : Packet) : Option State :=
  let q := p.dst % 32768
  if 28 ≤ dieAt q then some (s.giveBack p.place p.msg)
  else if s.leaves p then
    if !s.pathUp (p.dst / 32768) then some (s.pathLost p.place p true)
    else if s.modGone p.place (p.dst / 32768) then some (s.giveBack p.place p.msg)
    else none
  else if s.routable p.place q then none
  else some (s.giveBack p.place p.msg)

/-- A packet moved behind the others, changed: what comes to a place comes after what came there before. -/
def State.requeue (s : State) (n : Nat) (p : Packet) : State := { s.dropPacket n with net := (s.dropPacket n).net ++ [p] }


/-- A packet at its goal (R423, R429, R442, R459). -/
def State.ejectPacket (s : State) (n : Nat) (p : Packet) : State :=
  if s.leaves p then
    if !s.pathUp (p.dst / 32768) then (s.dropPacket n).pathLost p.place p false
    else if s.viralAt p.place then s
    else s.requeue n { p with link := s.routePort (p.dst / 32768), hold := none }
  else if p.place = endpoint then (s.requeue n { p with ejected := true }).post .hostReturnRecord
  else if 24 ≤ dieAt p.place ∨ (s.tile p.place).enabled = false then (s.dropPacket n).routerReturn p.place p.msg
  else (s.onTile p.place id).requeue n { p with ejected := true }

/-- A packet left without a route: bound for a fenced die, its colour is killed (R427); else it is returned where it stands. -/
def State.strandedPacket (s : State) (n : Nat) (p : Packet) : State :=
  let s := s.dropPacket n
  if s.leaves p then (if s.pathUp (p.dst / 32768) then s.routerReturn p.place p.msg else s.pathLost p.place p false)
  else if s.fenced (dieAt (p.dst % 32768)) then s.killColour (s.addr p.place) (domOf p.msg.tag) (colOf p.msg.tag) 0x24
  else s.routerReturn p.place p.msg

/-- A packet one hop on, with its buffer classes (R177, R426); the exit tile keeps it while it is in the next die (R427). -/
def Packet.moved (p : Packet) (place : Nat) (cls : PClass) : Packet :=
  { p with
    place := place
    cls := cls
    wrapped := ringClass p.wrapped p.prev p.place place
    prev := p.place
    hold := if dieAt place = dieAt p.place then p.hold else some p.place }

/-! ### Droppable traffic off the module (R433, R434) -/

/-- The agent that answers for a packet. -/
def Packet.agent (p : Packet) : Agent := .ni ((h1Of p.msg.h1).src % 32768)

/-- Bytes of a packet's message: headers, tag and payload. -/
def Packet.size (p : Packet) : Nat := 24 + 8 * (h0Of p.msg.h0).len

/-- Whether a message of DROP = 1 that leaves the module goes under a reservation: it was dropped, or its source has one (R434). -/
def State.underGrant (s : State) (p : Packet) : Bool :=
  s.leaves p && (h0Of p.msg.h0).drop && (p.dropped || (s.grantOf (p.dst / 32768) p.agent).isSome)

/-- An NI's injection of a packet (R170, R434): one under a reservation uses it, and is not droppable from then on. -/
def State.injectPacket (s : State) (n : Nat) (p : Packet) : State :=
  if s.underGrant p then
    (s.useGrant (p.dst / 32768) p.agent p.size).setPacket n { p with injected := true, dropped := true }
  else s.setPacket n { p with injected := true }

/-- PACKET_HOP (R170, R425): packet `n` takes one hop, unless another goes first, its reservation does not let it (R434), or its die may not
send (R385). -/
def execPacketHop (n : Nat) (s : State) : Out :=
  .next (match s.net[n]? with
    | none => s
    | some p =>
      if p.ejected || p.link.isSome || s.behind n p || s.outranked p then s
      else match s.nextHop p with
        | .inject => match (s.dropPacket n).formedGone p with
          | some s' => s'.feedEndpoint
          | none =>
            if s.underGrant p && !s.granted (p.dst / 32768) p.agent p.size then s
            else (s.injectPacket n p).feedEndpoint
        | .move place cls =>
          if dieAt place ≠ dieAt p.place ∧ s.viralAt p.place = true then s
          else s.setPacket n (p.moved place cls)
        | .eject => s.ejectPacket n p
        | .lost => s.strandedPacket n p)

/-! ### Link-up counts (R244, R245, R432) -/

/-- A port changed. -/
def State.onPort (s : State) (p : Nat) (f : Port → Port) : State := { s with ports := vset s.ports p (f (vget s.ports p Port.reset)) }

/-- Whether a TLB entry names a target: some granule of its page, hint applied, lies there (R219, R220, R244). -/
def State.names (s : State) (dom : Nat) (e : TlbEntry) (x : LinkTarget) : Bool :=
  (List.range 16).any fun i => match s.memTarget dom (s.entryAddr e (4096 * i)) with | some g => g.link == x | none => false

/-- The route to a module as firmware sets it when the state of its path changes (R428): a port, NONE, or as it was. -/
def State.reroute (s : State) (m : Nat) (up : Bool) : State :=
  let v := Config.pick s.fv % 33
  let others := s.routes.filter (·.1 != m)
  { s with
    fv := s.fv + 1
    routes := if v = 32 then s.routes else if up then (m, v) :: others else if v < 16 then others else s.routes }

/-- A target that takes traffic again (R244, R432): its count and every tile's copy rise; one that wraps to 0 takes the TLB entries that name
the target. -/
def State.bringUp (s : State) (x : LinkTarget) : State :=
  let n := (upCount s.linkCount x + 1) % 256
  let stale (t : Tile) (e : TlbEntry) : Bool := n == 0 && s.names t.dom e x
  { s with
    linkCount := setUpCount s.linkCount x n
    downTargets := s.downTargets.filter (· != x)
    downPaths := match x with | .remote m => s.downPaths.filter (· != m) | _ => s.downPaths }.mapTiles fun _ t =>
      { t with linkUp := setUpCount t.linkUp x n, tlb := t.tlb.filter fun e => !stale t e }

/-- LINK_UP (R244): of another module, with the route that firmware then sets, and its port (R428). -/
def execLinkUp (x : LinkTarget) (s : State) : Out :=
  .next (match x with
    | .remote m =>
      let s := s.reroute m true
      (match s.routePort m with | some p => s.onPort p fun x => { x with up := true } | none => s).bringUp x
    | x => s.bringUp x)

/-- A target that takes no traffic from now on. -/
def State.takeDown (s : State) (x : LinkTarget) : State := { s with downTargets := x :: s.downTargets.filter (· != x) }

/-- The path to a module down (R432): its count stands as down, and it leaves the multicast groups it is a member of (R435). -/
def State.downPath (s : State) (m : Nat) : State :=
  { s.takeDown (.remote m) with
    downPaths := m :: s.downPaths.filter (· != m)
    groups := s.groups.map fun g => if g.root = s.modNo then { g with members := g.members.filter (· != m) } else g }

/-- The packets in flight to a module, in a die or on a Forzen link, given up as its path fails (R432): a REQ message is returned by the
endpoint of the port its route leads to, a REPLY message is discarded with a record. -/
def State.linkLost (s : State) (m : Nat) : State :=
  let held (p : Packet) : Bool := p.injected && p.dst / 32768 == m
  let out := s.net.filter held
  out.foldl (fun s p => s.pathLost (((s.routePort m).map portTile).getD p.place) p false) { s with net := s.net.filter fun p => !held p }

/-- The modules whose traffic leaves by a port (R428). -/
def State.routedBy (s : State) (p : Nat) : List Nat := (s.routes.filter (·.2 == p)).map (·.1)

/-- The path to a module fails (R432): for want of an answer, or for a link that does not retrain; which is free.  When the link is the port's
own, the port goes down and every path by it with it. -/
def State.pathFails (s : State) (m : Nat) : State :=
  let own := Config.performed s.fv
  let s := { s with fv := s.fv + 1 }
  match s.routePort m, own with
  | some p, true =>
    let l := s.routedBy p
    let s := (l.foldl (fun s m => s.downPath m) s).onPort p fun x => { x with up := false }
    l.foldl (fun s m => (s.linkLost m).reroute m false) s
  | _, _ => ((s.downPath m).linkLost m).reroute m false

/-- LINK_FAILURE (R245). -/
def execLinkFailure (x : LinkTarget) (s : State) : Out :=
  .next (match x with | .remote m => s.pathFails m | x => s.takeDown x)

/-- PATH_DOWN (R432). -/
def execPathDown (m : Nat) (s : State) : Out := .next (s.pathFails m)

/-! ### What comes in from other modules (R428, R429, R434, R450) -/

/-- The module a frame comes from, where it tells. -/
def Inbound.source : Inbound → Option Nat
  | .message m _ _ => some ((h1Of m.h1).src / 32768)
  | .put src _ _ _ _ _ => some src
  | .store src _ _ _ _ => some src
  | .reserve src _ => some src
  | _ => none

/-- Whether a frame came at droppable priority (R433). -/
def Inbound.bulk : Inbound → Bool
  | .message _ _ b => b
  | .put _ _ _ _ _ b => b
  | .store _ _ _ _ b => b
  | _ => false

/-- Whether what comes in at a port reaches a place of the module (R385, R427, R429): it routes there as from a source on the edge die. -/
def State.portReaches (s : State) (port q : Nat) : Bool :=
  !s.viralAt (portTile port) && !s.fenced (dieAt (portTile port)) && s.routable (portTile port) q

/-- An operation of another module at a tile of this one (R292): a refused one counts EVC12. -/
def State.farAtTile (s : State) (port tile dom : Nat) (ranges : List (Nat × Nat)) (f : State → State) : State :=
  let q := tile % 32768
  if 24 ≤ dieAt q ∨ s.gone q = true ∨ s.portReaches port q = false ∨ (s.tile q).dom ≠ dom ∨ dom = 0 then s
  else match s.portCheck q dom .rma ranges with
    | some n => s.countDenied q n
    | none => f s

/-- Whether an access of another module at an address of this one is performed (R218, R429, R450): it has a target, which is up, reaches it
and is granted there what it needs. -/
def State.farReaches (s : State) (port : Nat) (o : Origin) (pa n : Nat) (need : Rights) : Bool :=
  decide (pa < 2 ^ 42) && match s.memTarget o.dom pa with
    | some g => !s.downTargets.contains g.link && s.portReaches port g.endpoint
        && !s.denied o.cls o.dom pa need && !s.denied o.cls o.dom (pa + n - 1) need
    | none => false

/-- A RATOM of another module at a tile (R332). -/
def State.farRatom (s : State) (q op place : Nat) (x x2 : Word) : State :=
  let size := ratomSize op
  if (s.tile q).spPoisoned place size || !ratomOk op x then s
  else
    let (new, _, writes) := ratomEffect op ((s.tile q).sp.le place size) x x2
    if writes then s.onTile q (·.spWrite place (leBytes size new)) else s

/-- An atomic of another module at this module's memory (R270, R435). -/
def State.farAtomic (s : State) (kind : ReqKind) (pa size : Nat) (x y : Word) : State :=
  if (s.groupAt pa).isSome || s.memPoisoned pa size then s
  else
    let w := s.memLe pa size
    if atomWrites kind w x y then s.memSetLe pa size (atomNew kind w x y) else s

/-- A TGNEW of another member of a federation (R428): the colour allocator registers a colour for the guardian there, which its address with
the bit above its 24 tells from a tile of this module. -/
def State.farColour (s : State) (dom tile hid : Nat) (tag : Word) : State :=
  match s.domain dom with
  | none => s
  | some d => match s.firstFree d (Config.pick s.fv) with
    | none => s.startSweep dom
    | some n => { s with fv := s.fv + 1 }.onDomain dom fun d => { d with
        colours := d.colours ++ [(⟨n, tile + 2 ^ 24, hid, tag, false⟩ : Colour)] }

/-- A reservation that an ingress port grants (R434): start and rate are free, but the rates outstanding stay within what the port's targets
absorb (log 20); with no rate left the source waits. -/
def State.grantIn (s : State) (port src bytes : Nat) : State :=
  let x := vget s.ports port Port.reset
  let live := x.granted.filter fun (_, start, _) => decide (s.beat < start + 65536)
  let left := Config.ingressRate port - live.foldl (fun n g => n + g.2.2) 0
  if left = 0 then s.onPort port fun x => { x with granted := live, inbox := x.inbox ++ [.reserve src bytes] }
  else
    let start := s.beat + 256 * (Config.pick s.fv % 256)
    let rate := (Config.pick (s.fv + 1)) % left + 1
    { s with fv := s.fv + 2 }.onPort port fun x => { x with granted := live ++ [(src, start, rate)] }

/-- A reservation granted to a source, in use: it is idle from now on. -/
def Port.usedBy (x : Port) (src beat : Nat) : Port :=
  { x with granted := x.granted.map fun (m, start, rate) => if m = src then (m, max start beat, rate) else (m, start, rate) }

/-- A frame from another module taken in (R429): the checks are those of this module (R153, R292, R225, R450); `marked` when a sweep or kill of
its domain found it at the port (R379). -/
def State.takeIn (s : State) (port : Nat) (f : Inbound) (marked : Bool) : State :=
  match f with
  | .message m reply _ =>
    { s with net := s.net ++ [⟨m.normal, reply, portTile port, true, false, .source, false, portTile port, none, none, false, marked, 0⟩] }
  | .put _ tile o moves cnt _ =>
    s.farAtTile port tile o.dom (moves.map fun (a, bs) => (a, bs.length)) fun s =>
      (moves.foldl (fun s (a, bs) => s.onTile (tile % 32768) (·.spWrite a bs)) s).bump (tile % 32768) cnt 1
  | .get tile o ranges => s.farAtTile port tile o.dom ranges id
  | .ratom tile o op place x x2 => s.farAtTile port tile o.dom [(place, ratomSize op)] fun s => s.farRatom (tile % 32768) op place x x2
  | .load _ _ _ => s
  | .store _ o pa data _ => if s.farReaches port o pa data.length (needOf false true false).atTable then s.memWrite pa data else s
  | .atomic o kind pa size x y =>
    if s.farReaches port o pa size (needOf true (kind != .fxrd) false).atTable then s.farAtomic kind pa size x y else s
  | .colour o tile hid tag => s.farColour o.dom tile hid tag
  | .reserve src bytes => s.grantIn port src bytes

/-! ### Forzen links (R431, R433, R434) -/

/-- A link retrained: the lifetime records count it. -/
def State.retrained (s : State) (p : Nat) (x4 : Bool) : State :=
  { s with life := { s.life with retrains := min (s.life.retrains + 1) (2 ^ 64 - 1) } }.onPort p fun x => { x with up := true, x4 := x4, replays := 0 }

/-- What crosses a Forzen link next: the oldest frame that came in, the oldest packet of the replay buffer, or a colour kill for a module
that the port leads to (R436); the last two unless the edge die is viral (R385). -/
inductive Frame
  | come (f : Inbound)
  | go (n : Nat)
  | kill (n : Nat)
  deriving DecidableEq, Repr

/-- The frames that may cross the link of a port next: none while it is down (R432, R448). -/
def State.frames (s : State) (port : Nat) : List Frame :=
  let x := vget s.ports port Port.reset
  if !(s.modSet && x.up) then []
  else (x.inbox.head?.toList.map Frame.come) ++
    (if s.viralAt (portTile port) then [] else
      ((s.net.findIdx? fun p => p.link == some port).toList.map Frame.go)
        ++ ((s.outKills.findIdx? fun k => s.routePort k.1 == some port && s.pathUp k.1).toList.map Frame.kill))

/-- A port without the oldest of the frames that wait. -/
def Port.advanced (x : Port) : Port :=
  { x with
    inbox := x.inbox.drop 1
    marks := (x.marks.map fun (k : Nat × Nat) => (k.1, k.2 - 1)).filter fun (k : Nat × Nat) => k.2 != 0 }

/-- A frame taken by the far end of the link.  One that comes in at droppable priority may be dropped by the ingress port; whether is free
(R433). -/
def State.crossed (s : State) (port : Nat) (f : Frame) : State :=
  match f with
  | .go n => s.dropPacket n
  | .kill n => { s with outKills := dropAt s.outKills n }
  | .come f =>
    let marked := f.owner.any fun o => (vget s.ports port Port.reset).marksOf o.1 != 0
    let s := s.onPort port fun x =>
      match f.source with | some m => x.advanced.usedBy m s.beat | none => x.advanced
    if !f.bulk then s.takeIn port f marked
    else
      let s' := { s with fv := s.fv + 1 }
      if Config.ingressDrop s.fv then s' else s'.takeIn port f marked

/-- FORZEN_FRAME (R431): the next frame crosses the link of a port, or the far end asks for it again; a link that fails 16 replays in succession
retrains.  Which goes first of what comes and what leaves is free. -/
def execForzenFrame (port : Nat) (good : Bool) (s : State) : Out :=
  let l := s.frames port
  .next (match l[Config.pick s.fv % l.length]? with
    | none => s
    | some f =>
      let s := { s with fv := s.fv + 1 }
      if good then (s.onPort port fun x => { x with replays := 0 }).crossed port f
      else
        let x := vget s.ports port Port.reset
        if 16 ≤ x.replays then s.retrained port x.x4 else s.onPort port fun x => { x with replays := x.replays + 1 })

/-- LINK_RETRAIN (R431): at full width or on four lanes; a port that was down brings the paths by it up (R432). -/
def execLinkRetrain (port : Nat) (x4 : Bool) (s : State) : Out :=
  let back := if (vget s.ports port Port.reset).up then [] else (s.routedBy port).filter s.downPaths.contains
  .next (back.foldl (fun s m => s.bringUp (.remote m)) (s.retrained port x4))

/-- A source asks a module's ingress port for a reservation, unless it has one or has asked (R434). -/
def State.askFor (s : State) (m : Nat) (a : Agent) : State :=
  if (s.grantOf m a).isSome || s.asks.contains (m, a) then s else { s with asks := s.asks ++ [(m, a)] }

/-- A droppable operation of an engine on its way off the module (R433): a performed PUT or PUTX whose token is not written, by its tile and
place, or the running program of a stream engine. -/
inductive Bulk
  | rma (t i m : Nat)
  | engine (e m : Nat)
  deriving DecidableEq, Repr


/-- The droppable operations of the engines, those under a reservation left out. -/
def State.bulks (s : State) : List Bulk :=
  (s.tiles.flatMap fun (t, x) => x.rmaDone.zipIdx.flatMap fun (o, i) =>
      if !(o.op == .put || o.op == .putx) || o.dropped.isSome then []
      else (o.far.filter fun m => decide (m < 512) && (s.grantOf m (.rma t)).isNone).map fun m => Bulk.rma t i m)
    ++ s.engines.flatMap fun (e, x) => match x.slots.head? with
      | none => []
      | some p =>
        if !p.started || p.dropped.isSome then []
        else ((s.sideFar p p.dst ++ if p.fork then s.sideFar p p.frk else []).filter fun m =>
          decide (m < 512) && (s.grantOf m (.engine e)).isNone).map fun m => Bulk.engine e m

/-- A packet of an operation of an engine dropped: the engine asks for a reservation, under which it sends it again. -/
def State.dropBulk (s : State) (b : Bulk) : State :=
  match b with
  | .rma t i m =>
    (s.onTile t fun x => { x with rmaDone := x.rmaDone.zipIdx.map fun (o, j) => if j = i then { o with dropped := some m } else o }).askFor m (.rma t)
  | .engine e m =>
    let x := s.engine e
    (s.setEngine e { x with slots := match x.slots with | p :: rest => { p with dropped := some m } :: rest | [] => [] }).askFor m (.engine e)

/-- DROP_NOTICE (R433, R434): a packet on a link was dropped: a message of DROP = 1, by its place in the networks, or past those a packet of an
RMA or stream engine; its source asks for a reservation and sends it again under that. -/
def execDropNotice (n : Nat) (s : State) : Out :=
  .next (match s.net[n]? with
    | none => match s.bulks[n - s.net.length]? with
      | some b => s.dropBulk b
      | none => s
    | some p =>
      if p.link.isNone || !(h0Of p.msg.h0).drop || p.dropped then s
      else
        let src := (h1Of p.msg.h1).src % 32768
        (s.requeue n { p with
          link := none, dropped := true, injected := false, place := src, prev := src, cls := .source, wrapped := false }).askFor
            (p.dst / 32768) p.agent)

/-- RESERVATION_GRANT (R434): a module's ingress port answers the oldest request of this module's agents; START counts units of 256 beats from
now.  A rate of 0 is no grant. -/
def execReservationGrant (m start rate : Nat) (s : State) : Out :=
  .next (match s.asks.findIdx? (·.1 == m) with
    | none => s
    | some i => match s.asks[i]? with
      | none => s
      | some (_, a) =>
        if rate = 0 then s
        else
          let from' := s.beat + 256 * start
          { s with asks := dropAt s.asks i, grants := ⟨m, a, from', rate, 0, from'⟩ :: s.grants.filter fun g => !(g.mod == m && g.agent == a) })

/-- Whether an agent still has dropped packets to send again to a module: its reservation there is in use (R434). -/
def State.owes (s : State) (m : Nat) (a : Agent) : Bool :=
  match a with
  | .ni _ => s.net.any fun p => p.dropped && !p.injected && p.dst / 32768 == m && p.agent == a
  | .rma t => (s.tile t).rmaDone.any (·.dropped == some m)
  | .engine e => (s.engine e).slots.any (·.dropped == some m)

/-- RESERVATION_IDLE (R434): the reservations at a module that have been idle for 65,536 beats end. -/
def execReservationIdle (m : Nat) (s : State) : Out :=
  .next { s with grants := s.grants.filter fun g => !(g.mod == m && decide (g.last + 65536 ≤ s.beat) && !s.owes m g.agent) }

/-! ### Multicast groups (R435) and stacks (R457) -/

/-- MULTICAST_GROUP_REGISTRATION (R435): a record outside the limits of R435 is none. -/
def execMulticastGroupRegistration (g root dom base size : Nat) (members : List Nat) (s : State) : Out :=
  .next (if 1 ≤ g ∧ g ≤ 255 ∧ base % 65536 = 0 ∧ size % 65536 = 0 ∧ members.length ≤ 512 ∧ members.contains root = true then
    { s with groups := ⟨g, root, dom, base, size, members⟩ :: s.groups.filter (·.g != g) }
  else s)

/-- MULTICAST_STORE (R435, R264): performed by the root at every member, or by this member as the root sends it. -/
def execMulticastStore (g off : Nat) (data : List Byte) (s : State) : Out :=
  .next (match s.groups.find? (·.g == g) with
    | none => s
    | some r => s.multicast r off data)

/-- A tile whose entries in the spill pool of its domain are poisoned where `f` says so, by arrival order or place. -/
def Tile.poolFails (x : Tile) (f : Nat → Bool) : Tile :=
  let fail (l : List Slot) : List Slot := l.map fun sl => { sl with bad := sl.bad || f sl.order }
  { x with
    queues := vmap (fun u => { u with ring := fail u.ring }) x.queues
    area := fail x.area
    votes := x.votes.zipIdx.map fun (v, j) => { v with bad := v.bad || (v.overflowed && f j) } }

/-- STACK_FAILURE (R457): the stack stays in the list, marked failed.  Which entries of the spill pools lie in it is free, since the manual gives
the pools no place (log 66). -/
def execStackFailure (k : Nat) (s : State) : Out :=
  .next (if s.stackList.contains k && !s.failedStacks.contains k then
      let hit (t i : Nat) : Bool := (Config.openWord s.fv (t * 2 ^ 64 + i)).getLsbD 0
      let s : State := { s with
        fv := s.fv + 1
        failedStacks := k :: s.failedStacks
        domains := s.domains.map fun (d : Domain) => { d with saved := d.saved.map fun (t, x) => (t, x.poolFails (hit t)) } }
      s.mapTiles fun t x => x.poolFails (hit t)
    else s)

end Sys2Proof.Machine
end

