-- ==== Sys2Proof/Machine/Sha.lean ====
section
/-! DEFINITION. SHA-256 (03: R79; 22: R445), which the manual names and FIPS 180-4 gives (log 8; PRESUMED: from that standard). -/

namespace Sys2Proof.Machine

/-- The round constants: the first 32 bits of the fractional parts of the cube roots of the first 64 primes. -/
def shaK : List (BitVec 32) :=
  [0x428a2f98, 0x71374491, 0xb5c0fbcf, 0xe9b5dba5, 0x3956c25b, 0x59f111f1, 0x923f82a4, 0xab1c5ed5,
   0xd807aa98, 0x12835b01, 0x243185be, 0x550c7dc3, 0x72be5d74, 0x80deb1fe, 0x9bdc06a7, 0xc19bf174] ++
  [0xe49b69c1, 0xefbe4786, 0x0fc19dc6, 0x240ca1cc, 0x2de92c6f, 0x4a7484aa, 0x5cb0a9dc, 0x76f988da,
   0x983e5152, 0xa831c66d, 0xb00327c8, 0xbf597fc7, 0xc6e00bf3, 0xd5a79147, 0x06ca6351, 0x14292967] ++
  [0x27b70a85, 0x2e1b2138, 0x4d2c6dfc, 0x53380d13, 0x650a7354, 0x766a0abb, 0x81c2c92e, 0x92722c85,
   0xa2bfe8a1, 0xa81a664b, 0xc24b8b70, 0xc76c51a3, 0xd192e819, 0xd6990624, 0xf40e3585, 0x106aa070] ++
  [0x19a4c116, 0x1e376c08, 0x2748774c, 0x34b0bcb5, 0x391c0cb3, 0x4ed8aa4a, 0x5b9cca4f, 0x682e6ff3,
   0x748f82ee, 0x78a5636f, 0x84c87814, 0x8cc70208, 0x90befffa, 0xa4506ceb, 0xbef9a3f7, 0xc67178f2]

/-- The eight words of a hash as they stand after some rounds. -/
structure ShaState where
  a : BitVec 32
  b : BitVec 32
  c : BitVec 32
  d : BitVec 32
  e : BitVec 32
  f : BitVec 32
  g : BitVec 32
  h : BitVec 32
  deriving DecidableEq, Repr

/-- The initial hash: the first 32 bits of the fractional parts of the square roots of the first 8 primes. -/
def shaInit : ShaState := ⟨0x6a09e667, 0xbb67ae85, 0x3c6ef372, 0xa54ff53a, 0x510e527f, 0x9b05688c, 0x1f83d9ab, 0x5be0cd19⟩

/-- A word rotated to the right. -/
def shaRot (w : BitVec 32) (n : Nat) : BitVec 32 := (w >>> n) ||| (w <<< (32 - n))

/-- The next word of a message schedule, from the words so far, the newest first. -/
def shaNext (l : List (BitVec 32)) : BitVec 32 :=
  let x := l.getD 1 0
  let y := l.getD 14 0
  (shaRot x 17 ^^^ shaRot x 19 ^^^ (x >>> 10)) + l.getD 6 0 + (shaRot y 7 ^^^ shaRot y 18 ^^^ (y >>> 3)) + l.getD 15 0

/-- A message schedule with `n` more words. -/
def shaSchedule : Nat → List (BitVec 32) → List (BitVec 32)
  | 0, l => l
  | n + 1, l => shaSchedule n (shaNext l :: l)

/-- One round with a round constant and a word of the schedule. -/
def ShaState.round (s : ShaState) (k w : BitVec 32) : ShaState :=
  let t1 := s.h + (shaRot s.e 6 ^^^ shaRot s.e 11 ^^^ shaRot s.e 25) + ((s.e &&& s.f) ^^^ (~~~s.e &&& s.g)) + k + w
  let t2 := (shaRot s.a 2 ^^^ shaRot s.a 13 ^^^ shaRot s.a 22) + ((s.a &&& s.b) ^^^ (s.a &&& s.c) ^^^ (s.b &&& s.c))
  ⟨t1 + t2, s.a, s.b, s.c, s.d + t1, s.e, s.f, s.g⟩

/-- The rounds of a block. -/
def ShaState.rounds (s : ShaState) (kw : List (BitVec 32 × BitVec 32)) : ShaState := kw.foldl (fun s e => s.round e.1 e.2) s

/-- The 32-bit words of a list of bytes, each with its first byte the most significant. -/
def beWords : List Byte → List (BitVec 32)
  | a :: b :: c :: d :: rest => BitVec.ofNat 32 (((a.toNat * 256 + b.toNat) * 256 + c.toNat) * 256 + d.toNat) :: beWords rest
  | _ => []

/-- The hash after a block of 16 words. -/
def ShaState.block (s : ShaState) (m : List (BitVec 32)) : ShaState :=
  let r := s.rounds (shaK.zip (shaSchedule 48 m.reverse).reverse)
  ⟨s.a + r.a, s.b + r.b, s.c + r.c, s.d + r.d, s.e + r.e, s.f + r.f, s.g + r.g, s.h + r.h⟩

/-- The hash after the first `n` blocks of a list of words. -/
def shaBlocks : Nat → ShaState → List (BitVec 32) → ShaState
  | 0, s, _ => s
  | n + 1, s, m => shaBlocks n (s.block (m.take 16)) (m.drop 16)

/-- A message padded to whole blocks: a bit 1, zeros, and its length in bits. -/
def shaPadded (m : List Byte) : List Byte :=
  m ++ [0x80] ++ List.replicate ((119 - m.length % 64) % 64) 0 ++ (leBytes 8 (8 * m.length)).reverse

/-- SHA-256 of a byte string, with its first byte the least significant of the number, as a register of the machine holds it. -/
def sha256 (m : List Byte) : BitVec 256 :=
  let p := shaPadded m
  let r := shaBlocks (p.length / 64) shaInit (beWords p)
  let bytes := [r.a, r.b, r.c, r.d, r.e, r.f, r.g, r.h].flatMap fun w => (leBytes 4 w.toNat).reverse
  BitVec.ofNat 256 (leNat bytes)

end Sys2Proof.Machine
end

