-- ==== Sys2Proof/Machine/Bringup.lean ====
section
/-! DEFINITION. Bring-up, the management interface, power and service life (22: R444 to R457; 17: R385, R386; 21: R427): losing and
resetting a die, the module reset, the commands of the mailbox, the rails and the clock, and the lifetime records. -/

namespace Sys2Proof.Machine

/-! ### Dies -/

/-- A die of the module. -/
def State.die (s : State) (d : Nat) : Die := vget s.dies d Die.reset

/-- The state with a die changed. -/
def State.onDie (s : State) (d : Nat) (f : Die → Die) : State := { s with dies := vset s.dies d (f (s.die d)) }

/-- The listed tiles of a die. -/
def State.tilesOn (s : State) (d : Nat) : List Nat := (s.tiles.map (·.1)).filter fun t => dieAt t == d

/-- The lines of a die's cache written back and dropped, as its reset flushes them (R236). -/
def State.flushDie (s : State) (d : Nat) : State :=
  (s.caches.filter (·.die == d)).foldl (fun s l => s.flushLine l.die l.line) s

/-- Everything that stands on a lost die is gone: its tiles' contents, the lines of its die cache (R385, R427). -/
def State.loseDie (s : State) (d : Nat) : State :=
  let s := { s with caches := s.caches.filter (·.die != d) }
  let s := (s.tilesOn d).foldl (fun s t => s.discardTile t) s
  if d < 24 then s else s.takeDown (.edgeDie d)

/-- The programs of an edge die's engines end when the die is lost (R344: the engine cannot be reached). -/
def State.loseEngines (s : State) (d : Nat) : State :=
  (List.range 64).foldl (fun s i =>
    let e := (d - 24) * 64 + i
    let x := s.engine e
    if x.slots = [] ∧ x.back = [] ∧ x.waits = [] then s
    else
      let s := (x.slots ++ x.back).foldl (fun s p => s.endProgram e p 6) (s.setEngine e { x with slots := [], back := [], waits := [] })
      x.waits.foldl (fun s w => s.endSego e w 6) s) s

/-- DIE_VIRAL (R385): the die sends nothing more, and every domain with a tile on it is told of its lost work (R372). -/
def execDieViral (d : Nat) (s : State) : Out :=
  .next (if (s.die d).viral then s
    else
      let doms := (s.domains.filter fun x => x.tiles.any fun t => dieAt t == d && (s.tile t).dom == x.dom).map (·.dom)
      let s := s.onDie d fun x => { x with viral := true }
      let s := s.loseDie d
      let s := if d < 24 then s else s.loseEngines d
      (doms.foldl (fun s dom => s.domainLost dom 2 (s.addr (tileAt d 0 0))) s).post (.dieFence d))

/-- A packet as the neighbour that keeps it sends it again: it stands at the neighbour's exit tile (R427). -/
def Packet.resent (p : Packet) (place : Nat) : Packet := { p with place := place, prev := place, wrapped := false, hold := none }

/-- What becomes of a packet that stands in a die at its fence (R427): one that no neighbour keeps, or that the die consumed, is lost; of one
bound for the die its neighbour kills the colour; another the neighbour sends again. -/
def State.fencePacket (s : State) (d : Nat) (p : Packet) : State :=
  match p.hold with
  | none => s
  | some h =>
    if p.ejected || s.fenced (dieAt h) then s
    else if !s.leaves p && dieAt (p.dst % 32768) == d then s.killColour (s.addr h) (domOf p.msg.tag) (colOf p.msg.tag) 0x24
    else { s with net := s.net ++ [p.resent h] }

/-- DIE_FENCE (R385, R427). -/
def execDieFence (d : Nat) (s : State) : Out :=
  .next (if (s.die d).fenced then s
    else
      let s := s.onDie d fun x => { x with fenced := true }
      let s := (s.tilesOn d).foldl (fun s t => s.onTile t fun x => { x with rmaOps := [] }) s
      let s := { s with life := { s.life with fenced := min (s.life.fenced + 1) (2 ^ 64 - 1) } }
      let caught := s.net.filter fun p => dieAt p.place == d
      let s := { s with net := s.net.filter fun p => dieAt p.place != d }
      caught.foldl (fun s p => s.fencePacket d p) s)

/-! ### Boot (R444, R445) -/

/-- A measurement register extended with a digest (R445). -/
def extend (m d : BitVec 256) : BitVec 256 := sha256 (leBytes 32 m.toNat ++ leBytes 32 d.toNat)

/-- Whether the root key signed a firmware image under SLH-DSA-SHA2-256s (R444). -/
def rootSigned (sig image : List Byte) : Bool := Config.sigValid 2 Config.rootKey sig image

/-- Whether step 1 of R444 passes on a die whose fused minimum version is `v` (R445). -/
def dmcOk (v : Nat) (b : Boot) : Bool := rootSigned b.dmcSig b.dmcImage && decide (v ≤ b.dmcVersion)

/-- Whether steps 1, 3 and 4 of R444 pass. -/
def bootOk (v : Nat) (b : Boot) : Bool := dmcOk v b && rootSigned b.sSig b.sImage && decide (v ≤ b.sVersion) && b.selfTest

/-- The measurement registers that a boot leaves (R444 steps 1 to 3, R445). -/
def bootMeas (v : Nat) (b : Boot) : List (BitVec 256) :=
  let m0 := if dmcOk v b then extend 0 (sha256 b.dmcImage) else 0
  let m1 := if dmcOk v b && rootSigned b.sSig b.sImage && decide (v ≤ b.sVersion) then extend 0 (sha256 b.sImage) else 0
  [m0, m1, 0, 0]

/-- A tile that a boot leaves (R444 steps 3 and 4, R19): reset, unbound, with the S image, or disabled. -/
def bootTile (b : Boot) (t : Nat) (links : List (LinkTarget × Nat)) : Tile :=
  { Tile.reset with
    enabled := !b.badTiles.contains t
    sp := if b.badTiles.contains t then [] else Cells.setList [] 0x7C000 (b.sImage.take 16384)
    linkUp := links }

/-- Whether a domain holds HBM frames (R457). -/
def State.hbmHeld (s : State) : Bool := s.placed.any fun (_, f, n) => decide (f < 2 ^ 24 ∧ 0 < n)

/-- The HBM list at a boot of an edge die (R444 step 5, R457): formed anew from the stacks that pass and have not failed in service, or kept
when a domain holds frames of the present interleave. -/
def State.formStacks (s : State) (d : Nat) (b : Boot) : State :=
  let here (k : Nat) : Bool := 24 + k / 4 == d
  if !s.hbmHeld then
    let stands (k : Nat) : Bool := !s.failedStacks.contains k && if here k then !b.badStacks.contains k else s.stackList.contains k
    { s with stackList := (List.range 16).filter stands }
  else
    let bad := s.stackList.filter fun k => here k && b.badStacks.contains k
    { s with failedStacks := s.failedStacks.filter (!bad.contains ·) ++ bad }

/-- A die joins (R444 step 6): its links come up; an edge die's link-up count rises and every tile's copy of it (R244). -/
def State.joinDie (s : State) (d : Nat) : State :=
  if d < 24 then s else s.bringUp (.edgeDie d)

/-- A die that boots (R444, R445, R451): its fused minimum version stays, and a window that the boot cuts short is none of the die's. -/
def Die.booted (x : Die) (b : Boot) (beat : Nat) : Die :=
  { Die.reset with
    fenced := !bootOk x.minVersion b, meas := bootMeas x.minVersion b, minVersion := x.minVersion
    window := beat / 2 ^ 32, short := decide (beat % 2 ^ 32 ≠ 0) }

/-- Steps 1 to 6 of R444 on one die: the first that fails leaves it fenced, and what an edge die serves down.  Step 2 on die 24 derives the
identity key from register 0 as it stands then (R446). -/
def State.bootDie (s : State) (d : Nat) (b : Boot) : State :=
  let v := (s.die d).minVersion
  let s := s.onDie d fun x => x.booted b s.beat
  let s := if d = 24 then { s with identity := if dmcOk v b then (s.die d).meas.head? else none } else s
  if !bootOk v b then (if d < 24 then s else s.takeDown (.edgeDie d))
  else if d < 24 then
    (List.range 1024).foldl (fun s i => s.setTile (d * 1024 + i) (bootTile b (d * 1024 + i) s.linkCount)) s
  else (s.formStacks d b).joinDie d

/-! ### The configuration record (R449) -/

/-- The byte of a list of bits, the lowest first. -/
def bitsByte (l : List Bool) : Byte := BitVec.ofNat 8 (l.foldr (fun b n => bitN b + 2 * n) 0)

/-- Whether a tile is enabled. -/
def State.on (s : State) (t : Nat) : Bool := (s.tile t).enabled

/-- Number of tiles of the compute dies that are enabled. -/
def State.tileCount (s : State) : Nat := 24576 - (s.tiles.filter fun (t, x) => decide (t < 24576) && !x.enabled).length

/-- PORTS of the configuration record: every port is down until MOD is set (R448). -/
def State.portWord (s : State) : Nat :=
  (List.range 32).foldl (fun n p =>
    let q := vget s.ports p Port.reset
    n + (if !s.modSet || !q.up then 0 else if q.x4 then 1 else 2) * 4 ^ p) 0

/-- A number with one bit for each of `n` things that satisfy a condition. -/
def maskOf (n : Nat) (f : Nat → Bool) : Nat := (List.range n).foldl (fun m i => m + bitN (f i) * 2 ^ i) 0

/-- The configuration record (R449).  DEDUCED (log 31): STACKS, like DIES, has one bit for each of the 16 stacks in either field. -/
def State.configRecord (s : State) : List Byte :=
  leBytes 8 s.tileCount
    ++ leBytes 8 (maskOf 16 s.stackList.contains + 65536 * maskOf 16 s.failedStacks.contains)
    ++ leBytes 8 s.portWord
    ++ leBytes 8 (maskOf 28 s.fenced)
    ++ (List.range 3072).map (fun i => bitsByte ((List.range 8).map fun j => s.on (8 * i + j)))
    ++ List.replicate 992 0

/-- The dies that joined extend register 2 with the digest of the configuration record (R445; log 31). -/
def State.measureConfig (s : State) (l : List Nat) : State :=
  let dg := sha256 s.configRecord
  l.foldl (fun s d => if s.fenced d then s else s.onDie d fun x => { x with meas := x.meas.set 2 (extend (x.meas.getD 2 0) dg) }) s

/-- DIE_RESET_IN_PLACE (R386): the reset flushes the die's cache, unless the die was viral (R236, R385); a die that boots rejoins, its tiles
unbound; one that does not stays fenced. -/
def execDieResetInPlace (d : Nat) (b : Boot) (s : State) : Out :=
  .next (if !s.fenced d then s else ((if (s.die d).viral then s else s.flushDie d).bootDie d b).measureConfig [d])

/-- What a die's boot finds when nothing is said of it: nothing passes. -/
def noBoot : Boot := ⟨[], [], 0, [], [], 0, false, [], []⟩

/-- Lifetime records with the beats run at a clock step up to a beat counted toward its hours (R453, R455). -/
def Lifetime.ran (l : Lifetime) (step beat : Nat) : Lifetime :=
  { l with
    hoursPending := (List.range 4).map fun i => l.hoursPending.getD i 0 + if i = step then beat - l.stepSince else 0
    stepSince := beat }

/-- MODULE_RESET (R444): every die boots, its cache flushed (R236).  Host memory, other modules' memory, the host's window bases, the
fused minimum versions, the stacks marked failed, the lifetime records, the route table and the link-up counts outlast it (log 32); the HBM
list is formed by the edge dies that come to step 5. -/
def execModuleReset (boots : List Boot) (s : State) : Out :=
  .next (
    let s := (List.range 24).foldl (fun s d => if (s.die d).viral then s else s.flushDie d) s
    let fns : Vector HostFn 64 := vmap (fun h => { HostFn.reset with winBase := h.winBase }) s.fns
    let s0 : State := { State.reset with
      fv := s.fv
      mem := s.mem.filter fun c => decide (2 ^ 45 ≤ c.1)
      memPoison := s.memPoison.filter fun p => decide (2 ^ 45 ≤ p)
      hostMem := s.hostMem
      routes := s.routes
      ports := vmap (fun (x : Port) => { x with replays := 0, inbox := [], granted := [], marks := [] }) s.ports
      linkCount := s.linkCount
      fns := fns
      dies := vmap (fun x => { Die.reset with minVersion := x.minVersion }) s.dies
      stackList := []
      failedStacks := s.failedStacks
      identity := none
      life := { s.life.ran s.clockStep s.beat with stepSince := 0 } }
    let s1 := (List.range 28).foldl (fun s d => s.bootDie d (boots.getD d noBoot)) s0
    s1.measureConfig (List.range 28))

/-! ### The management interface (R448) -/

/-- A command that returns data done: the data, then its completion word (R448; log 33): 1 done, 2 refused. -/
def State.answerMbox (s : State) (bs : List Byte) : State := { s with mbox := bs, mboxDone := 1 }

/-- A command that returns nothing done or refused. -/
def State.completed (s : State) (ok : Bool) : State := { s with mbox := [], mboxDone := if ok then 1 else 2 }

/-- A command served (R448): it waits while die 24 runs no firmware, which its boot did not start (R444). -/
def State.serveCommand (s : State) (e : Event) (f : State → State) : Out :=
  .next (if s.identity.isNone then s.post e else f s)

/-- READ_CONFIG (R449). -/
def execReadConfig (s : State) : Out := s.serveCommand .readConfig fun s => s.answerMbox s.configRecord

/-- SET_MOD (R448): refused while any domain is bound, and outside 0 to 511. -/
def execSetMod (m : Nat) (s : State) : Out :=
  s.serveCommand (.setMod m) fun s =>
    if s.domains ≠ [] ∨ 511 < m then s.completed false else { s with modNo := m, modSet := true }.completed true

/-- BIND_FN (R438, R448): each function has at most one domain and each domain at most one function.  The window base that the driver gives it
is free (log 50). -/
def execBindFn (f : Nat) (dom : Option Nat) (s : State) : Out :=
  s.serveCommand (.bindFn f dom) fun s =>
    match dom with
    | none => (s.bindFn f none).completed true
    | some d =>
      if d = 0 ∨ 0xFFF ≤ d ∨ (s.fn f).dom.any (· != d) = true ∨ ((List.range 64).any fun g => g != f && (s.fn g).dom == some d) = true then s.completed false
      else ({ s with fv := s.fv + 1 }.bindFn f (some d) |>.onFn f fun h => { h with winBase := (Config.openWord s.fv 0).toNat }).completed true

/-- SET_KEYS (R450): up to 8 KEYIDs and the REQUIRE flag of a domain. -/
def execSetKeys (dom : Nat) (keys : List (BitVec 256)) (req : Bool) (s : State) : Out :=
  s.serveCommand (.setKeys dom keys req) fun s =>
    if 8 < keys.length then s.completed false
    else { s with keys := (dom, keys, req) :: s.keys.filter (·.1 != dom) }.completed true

/-- The bytes a quote signs (R447). -/
def State.quoteBody (s : State) (nonce : BitVec 256) : List Byte :=
  ([0x5A, 0x48, 0x4B, 0x32, 0x34, 0x31, 0x35, 0x41] : List Nat).map (BitVec.ofNat 8)
    ++ leBytes 8 (0xA1 + s.modNo * 2 ^ 48)
    ++ leBytes 32 nonce.toNat
    ++ (List.range 28).flatMap fun d => (List.range 4).flatMap fun i =>
      if s.fenced d then List.replicate 32 0xFF else leBytes 32 ((s.die d).meas.getD i 0).toNat

/-- QUOTE (R446, R447): signed with the identity key. -/
def execQuote (nonce : BitVec 256) (s : State) : Out :=
  s.serveCommand (.quote nonce) fun s =>
    let sig := Config.quoteSignature (s.identity.getD 0) (s.quoteBody nonce)
    s.answerMbox (s.quoteBody nonce ++ (List.range 7856).map fun i => sig.getD i 0)

/-- READ_CERT (R446). -/
def execReadCert (s : State) : Out := s.serveCommand .readCert fun s => s.answerMbox Config.certificate

/-- Hours of a count of beats at a clock step (R453, R455). -/
def hoursOf (step n : Nat) : Nat := n / (3600 * [3300000000, 3000000000, 2700000000, 2400000000].getD step 1)

/-- The lifetime records in the order of R455, 8 bytes a count (log 34). -/
def Lifetime.bytes (l : Lifetime) : List Byte :=
  let counts (v : List Nat) (n : Nat) : List Nat := (List.range n).map fun i => v.getD i 0
  let last := (List.range 16).flatMap fun i => match l.lastPredictive.getD i (0, 0, 0) with | (d, c, b) => [d, c, b]
  (counts l.tempHist 32 ++ counts l.voltHist 32 ++ counts l.corrected 8 ++ [l.predictive] ++ last
    ++ (List.range 4).map (fun i => hoursOf i (l.hours.getD i 0))
    ++ [l.powerCycles, l.retrains, l.withdrawals, l.remaps, l.fenced]).flatMap (leBytes 8)

/-- READ_LIFETIME (R455). -/
def execReadLifetime (s : State) : Out := s.serveCommand .readLifetime fun s => s.answerMbox s.life.bytes

/-- SET_CAP (R448, R453): 5 to 15 kW. -/
def execSetCap (kw : Nat) (s : State) : Out :=
  s.serveCommand (.setCap kw) fun s => if 5 ≤ kw ∧ kw ≤ 15 then { s with powerCap := kw }.completed true else s.completed false

/-! ### Power (R451 to R453) -/

/-- The predictive failures of a window at nominal voltage recorded: every array class above its threshold (R452, R455). -/
def Lifetime.declare (l : Lifetime) (d beat : Nat) (classes : List Nat) : Lifetime :=
  { l with
    predictive := min (l.predictive + classes.length) (2 ^ 64 - 1)
    lastPredictive := (l.lastPredictive ++ classes.map fun c => (d, c, beat)).drop (l.lastPredictive.length + classes.length - 16) }

/-- The array classes whose corrected errors of a window exceed the predictive-failure threshold, the second of a class's two (R452). -/
def Die.classesAbove (x : Die) (thresholds : List (Nat × Nat)) : List Nat :=
  (List.range 8).filter fun i => decide ((thresholds.getD i (0, 0)).2 < x.errors.getD i 0)

/-- Whether the corrected errors of a window all stay below the thresholds of R451, the first of each class's two. -/
def Die.quiet (x : Die) (thresholds : List (Nat × Nat)) : Bool :=
  (List.range 8).all fun i => decide (x.errors.getD i 0 < (thresholds.getD i (0, 0)).1)

/-- A die's rail at the end of a window (R451, R452). -/
def Die.railStep (x : Die) (thresholds : List (Nat × Nat)) : Die :=
  if x.classesAbove thresholds ≠ [] then { x with frozenRail := true, railMv := min 500 (x.railMv + 10) }
  else if x.quiet thresholds && !x.frozenRail then { x with railMv := max 450 (x.railMv - 5) }
  else x

/-- What a window of a die adds to the histograms (R455): its junction maximum in degrees, its core rail in millivolts. -/
def Lifetime.sample (l : Lifetime) (temp mv : Nat) : Lifetime :=
  { l with tempPending := l.tempPending ++ [min 31 (temp / 4)], voltPending := l.voltPending ++ [min 31 ((mv - 400) / 5)] }

/-- AVS_WINDOW_END (R451, R452, R455): a die's window of 2^32 beats ends, once; with the junction maximum of the window and the thresholds of
each class.  The counts of a window that a boot cut short end with it, unjudged. -/
def execAvsWindowEnd (d temp : Nat) (thresholds : List (Nat × Nat)) (s : State) : Out :=
  .next (
    let x := s.die d
    let n := s.beat / 2 ^ 32
    if s.beat % 2 ^ 32 ≠ 0 ∨ n ≤ x.window then s.post (.avsWindowEnd d temp thresholds)
    else if x.short then s.onDie d fun x => { x with window := n, errors := [], short := false }
    else
      let life := if x.railMv = 500 then s.life.declare d s.beat (x.classesAbove thresholds) else s.life
      { s with life := life.sample temp x.railMv }.onDie d fun x => { x.railStep thresholds with window := n, errors := [] })

/-- The clock step after a 2^20-beat boundary at a package power (R453). -/
def State.stepAfter (s : State) (watts : Nat) : Nat :=
  if 1000 * s.powerCap < watts then min 3 (s.clockStep + 1)
  else if watts * 100 < 95 * (1000 * s.powerCap) then s.clockStep - 1
  else s.clockStep

/-- POWER_CAP_STEP (R453): at a 2^20-beat boundary the clock of every die steps down above the cap and up below 95 % of it. -/
def execPowerCapStep (watts : Nat) (s : State) : Out :=
  .next (if s.beat % 2 ^ 20 ≠ 0 then s.post (.powerCapStep watts)
    else { s with life := s.life.ran s.clockStep s.beat, clockStep := s.stepAfter watts })

/-- Counts of a histogram raised by one in a bin for each sample, saturating (R454, R455). -/
def histAdd (h : List Nat) (bins : List Nat) : List Nat :=
  (List.range 32).map fun i => min (h.getD i 0 + (bins.filter (· == i)).length) (2 ^ 64 - 1)

/-- The records with what has been sampled since the last commit lost. -/
def Lifetime.forgotten (l : Lifetime) : Lifetime := { l with tempPending := [], voltPending := [], hoursPending := [] }

/-- The records with what has been sampled since the last commit committed (R454). -/
def Lifetime.committed (l : Lifetime) : Lifetime :=
  { l.forgotten with
    tempHist := histAdd l.tempHist l.tempPending
    voltHist := histAdd l.voltHist l.voltPending
    hours := (List.range 4).map fun i => min (l.hours.getD i 0 + l.hoursPending.getD i 0) (2 ^ 64 - 1) }

/-- One more power cycle (R455). -/
def Lifetime.cycled (l : Lifetime) : Lifetime := { l with powerCycles := min (l.powerCycles + 1) (2 ^ 64 - 1) }

/-- LIFETIME_COMMIT (R454): every 2^42 beats, or at an orderly power-down; a power failure loses what is not committed.  Power that goes is a
power cycle. -/
def execLifetimeCommit (down failed : Bool) (s : State) : Out :=
  .next (
    let l := s.life.ran s.clockStep s.beat
    if failed then { s with life := l.forgotten.cycled }
    else if down then { s with life := l.committed.cycled }
    else if s.beat % 2 ^ 42 ≠ 0 then s.post (.lifetimeCommit down failed)
    else { s with life := l.committed })

end Sys2Proof.Machine
end

