-- ==== Sys2Proof/Machine/SaveArea.lean ====
section
/-! DEFINITION. The bytes of a tile's save area (17: R387, R389, R390; log 12): the stop record, the context images and the rest of the
768 KB layout. -/

namespace Sys2Proof.Machine

/-- The stop record of a tile (R387): the pc of a FREE context is all ones. -/
def Tile.stopRecord (x : Tile) (beat : Nat) : StopRec :=
  ⟨beat, (List.range 5).map fun c => if (x.ctx c).status = .free then BitVec.allOnes 64 else (x.ctx c).pc, x.sent, x.resolved⟩

/-- The 64 bytes of a stop record (R387). -/
def StopRec.bytes (r : StopRec) : List Byte :=
  leBytes 8 r.beat ++ (r.pcs.flatMap fun w => leBytes 8 w.toNat) ++ leBytes 4 r.sent ++ leBytes 4 r.resolved ++ leBytes 8 0

/-- The words of a list, 8 bytes each. -/
def wordBytes (l : List Word) : List Byte := l.flatMap fun w => leBytes 8 w.toNat

/-- The 128 bytes of a vector register. -/
def vregBytes (v : VReg) : List Byte := leBytes 128 v.toNat

/-- The code of a context's state in its image (R24, R390; log 12). -/
def CtxStatus.code : CtxStatus → Nat
  | .free => 0 | .running => 1 | .stalled => 2 | .parked => 3 | .trapped => 4

/-- The general registers of a context that are pending, as a bit map (R390). -/
def Ctx.pendingMap (k : Ctx) : Nat :=
  (List.range 32).foldl (fun n i => n + bitN (k.pend.any fun p => p.dst == .g (BitVec.ofNat 5 i)) * 2 ^ i) 0

/-- The state word of a context image (R390). -/
def Ctx.stateWord (k : Ctx) : Word :=
  BitVec.ofNat 64 (k.status.code + ((k.act.map (·.queue)).getD 0) * 16 + k.pendingMap * 2 ^ 32)

/-- The 8 KB image of a context (R390), with its slot word; k0 is all ones. -/
def Ctx.image (k : Ctx) (slot : Word) : List Byte :=
  let head := wordBytes k.gs.toList ++ ((List.range 8).flatMap fun i => leBytes 4 (k.k (BitVec.ofNat 3 i)).toNat)
    ++ wordBytes ([k.pc, k.st, k.pfx.setWidth 64, k.tx, k.tg, k.mh0, k.mh1, k.mlen, k.icount.setWidth 64, k.mret] ++ k.mvec.toList
      ++ [k.rngseed, k.rnsst, k.rnsch, k.wdog.setWidth 64, k.stateWord, slot])
    ++ wordBytes [k.trapc, k.trappc, k.trapva, k.trapiw] ++ List.replicate 32 0
    ++ wordBytes k.ms.toList ++ wordBytes k.vxs.toList ++ List.replicate 128 0
    ++ k.vs.toList.flatMap vregBytes
  head ++ List.replicate (8192 - head.length) 0

/-- The bytes of a slot (R155); the NI word's fields have no places in the manual, so it is free (log 12). -/
def Slot.bytes (sl : Slot) (ni : Word) : List Byte :=
  wordBytes ([sl.msg.h0, sl.msg.h1, sl.msg.tag] ++ (windowOf sl).toList ++ [ni])

/-- The bytes of a vote entry (R384): its first copy in the form of a slot (log 12). -/
def Vote.bytes (v : Vote) (ni : Word) : List Byte :=
  match v.copies with
  | m :: _ => Slot.bytes ⟨m, 0, 0, none, false, []⟩ ni
  | [] => List.replicate 160 0

/-- The slots of a queue in its storage (R155, R156): those that activations hold, by context, and those that wait.  DESIGN CHOICE (log 12): they
stand at consecutive positions from a free one on. -/
def Tile.slotsOf (x : Tile) (q : Nat) : List Slot :=
  ((List.range 5).filterMap fun c => (x.ctx c).act.bind fun a => if a.queue = q then some a.slot else none) ++ (x.queue q).waiting

/-- The position of the `i`-th of them, the first at `w`. -/
def Queue.position (u : Queue) (w : Word) (i : Nat) : Nat := (w.toNat + i) % 2 ^ u.logDepth

/-- Position of the slot that context `c` holds in its queue (R390). -/
def Tile.slotWord (x : Tile) (c : Nat) (w : Nat → Word) : Word :=
  match (x.ctx c).act with
  | some a =>
    let before := (List.range c).filter fun b => ((x.ctx b).act.map (·.queue)) == some a.queue
    BitVec.ofNat 64 ((x.queue a.queue).position (w (16 + a.queue)) before.length)
  | none => w (144 + c)

/-- The slots of a queue as they stand in its panes (R155), by offset in the save area; the NI words are free. -/
def Tile.slotParts (x : Tile) (q : Nat) (w : Nat → Word) : List (Nat × List Byte) :=
  let u := x.queue q
  let place (i : Nat) : Nat := 4096 * u.pane + 160 * u.position (w (16 + q)) i
  ((x.slotsOf q).zipIdx.filter fun (_, i) => decide (place i + 160 ≤ 507904)).map fun (sl, i) =>
    (0x40000 + place i, sl.bytes (w (672 + 256 * q + i)))

/-- The code of an owner (R81). -/
def Owner.code : Owner → Nat
  | .core => 0 | .mm => 1 | .rma => 2 | .sac => 3 | .ni => 4 | .firmware => 5

/-- A counter in the layout of its image, VALUE current (R84, R389). -/
def Counter.bytes (k : Counter) : List Byte :=
  leBytes 8 (k.value + k.threshold * 2 ^ 32)
    ++ leBytes 8 (k.hid + bitN k.timer * 2 ^ 12 + bitN k.rearm * 2 ^ 13 + bitN k.armed * 2 ^ 14) ++ leBytes 8 k.tag.toNat ++ leBytes 8 0

/-- The header of a save area (R389). -/
def Tile.saveHeader (x : Tile) (dom addr t beat : Nat) : List Byte :=
  leBytes 8 (dom + addr * 2 ^ 24) ++ leBytes 8 t ++ leBytes 8 beat
    ++ leBytes 8 (x.seq.toNat + x.active * 2 ^ 16 + x.pending.getD 0 * 2 ^ 20 + bitN x.pending.isSome * 2 ^ 24)
    ++ x.queues.toList.flatMap fun q => leBytes 2 (q.credit % 65536).toNat

/-- A list of entries of `n` bytes padded with zeros to `m` entries. -/
def padTo (n m : Nat) (l : List (List Byte)) : List Byte := l.flatten ++ List.replicate (n * (m - l.length)) 0

/-- The parts of a tile's save area with their offsets (R389); `w` gives the words whose contents have no places in the manual: NI words, the
second doubleword of a FIFO entry, issue-queue requests and what follows the descriptors of the sequencer (log 12). -/
def Tile.saveParts (x : Tile) (dom addr t beat : Nat) (r : StopRec) (w : Nat → Word) : List (Nat × List Byte) :=
  let own := x.kills.filter fun (k : Nat × Nat) => k.1 == dom
  let free (i n : Nat) : List Byte := wordBytes ((List.range n).map fun j => w (i + j))
  let queue (q : Nat) : List Byte :=
    let u := x.queue q
    let at' (i : Nat) : List Byte := leBytes 4 (u.position (w (16 + q)) i)
    at' ((x.slotsOf q).length - u.waiting.length) ++ at' (x.slotsOf q).length ++ leBytes 4 (x.occupancy q) ++ leBytes 4 (bitN u.spilling)
  let entries := (x.store.map fun sl => sl.bytes) ++ (x.votes.filter (!·.overflowed)).map fun v => v.bytes
  let run (r : Option Run) : List Byte := match r with | some r => wordBytes r.dws | none => List.replicate 64 0
  [(0x00000, x.saveHeader dom addr t beat),
   (0x00040, r.bytes),
   (0x00080, x.evc.toList.flatMap fun n => leBytes 4 n.toNat),
   (0x000C0, wordBytes x.barval.toList),
   (0x00140, padTo 2 64 (own.map fun (k : Nat × Nat) => leBytes 2 (k.2 + 2 ^ 15))),
   (0x001C0, leBytes 8 x.rnsmap.toNat ++ List.replicate 56 0),
   (0x00200, (List.range 16).flatMap queue),
   (0x00300, ((List.range 124).flatMap fun p => leBytes 1 (x.pane p).owner.code) ++ List.replicate 132 0),
   (0x00400, x.counters.toList.flatMap (·.bytes)),
   (0x00C00, x.fifo.toList.zipIdx.flatMap fun (l, i) => padTo 16 8 (l.zipIdx.map fun (e, j) => leBytes 8 e.data.toNat ++ free (32 + 8 * i + j) 1)),
   (0x00E00, padTo 32 16 (x.asyncQ.zipIdx.map fun (_, i) => free (64 + 4 * i) 4)),
   (0x01000, run x.running ++ run x.queued ++ leBytes 8 (((x.running.map (·.prog)).getD x.prog)) ++ free 128 15),
   (0x02000, (List.range 5).flatMap fun c => (x.ctx c).image (x.slotWord c w)),
   (0x0C000, padTo 160 512 (entries.zipIdx.map fun (f, i) => f (w (160 + i)))),
   (0x20000, (List.range 16).flatMap fun p => (List.range 256).flatMap fun e => leBytes 2 (x.slotEntry p e).toNat),
   (0x40000, x.sp.getList 0 507904)] ++ (List.range 16).flatMap fun q => x.slotParts q w

/-- Bytes of a tile's save area (R389). -/
def saveSize : Nat := 0xC0000

/-- The place of a tile's save area (R389): by its logical index. -/
def Domain.saveAt (d : Domain) (t : Nat) : Nat := d.saveBase + saveSize * d.tiles.findIdx (· == t)

/-- The stop record of a tile written at offset 0x40 of its save area (R387). -/
def State.writeStop (s : State) (d : Domain) (t : Nat) : State :=
  let r := (s.tile t).stopRecord s.beat
  (s.onTile t fun x => { x with stopRec := some r }).memWrite (d.saveAt t + 0x40) r.bytes

/-- A tile's save area written (R388 step 4, R389), its panes with their poison (R374). -/
def State.writeSave (s : State) (d : Domain) (t at' : Nat) : State :=
  let x := s.tile t
  let base := d.saveAt t
  let parts := x.saveParts d.dom (s.addr t) at' s.beat (x.stopRecord s.beat) fun i => Config.openWord s.fv i
  let s := parts.foldl (fun s (o, bs) => s.memWrite (base + o) bs) { s with fv := s.fv + 1 }
  x.spPoison.foldl (fun s p => if p < 0x7C000 then s.poisonMem (base + 0x40000 + p) 8 else s) s

end Sys2Proof.Machine
end

