-- ==== Sys2Proof/Machine/Gang.lean ====
section
/-! DEFINITION. The Gong stop, the gang switch and the resume (17: R387 to R392; 18: R403; 21: R439 DEBUG), and the replay of a
single tile (R394). -/

namespace Sys2Proof.Machine

/-! ### Instruction boundaries (R209, R276, R352) -/

/-- Whether a stalled instruction retires before its context's boundary is taken. -/
def Ctx.mustFinish (k : Ctx) : Bool :=
  let f (r : GReq) : Bool := r.kind.kept || r.kind == .slotLoad
  match k.wait with
  | some (.sent r) => f r
  | some (.answered r _) => f r
  | some (.failed r _ _) => f r
  | none => false

/-- A context at the boundary a stop takes (R26): an instruction that does not finish has no effect and is executed again on resume (R209,
R276, R352); one that is PARKED stays so at a stop, where its fill still comes (R228). -/
def Ctx.atBoundary (k : Ctx) (switch : Bool) : Ctx :=
  if k.mustFinish ∨ k.status = .trapped ∨ k.status = .free then k
  else if k.status = .parked ∧ switch = false ∧ k.wait = none then k
  else { k with status := .running, wait := none, word := none, waitsOn := [], parkedVa := none, parkedNeed := needOf false false false, parkedWrite := false, refilled := false,
                refetched := false }

/-- The runs of a tile set to stop at their next boundary. -/
def State.stopRuns (s : State) (t : Nat) : State :=
  let s := match (s.tile t).running with | some r => s.stopRun t r false | none => s
  match (s.tile t).queued with | some r => s.stopRun t r false | none => s

/-- A tile stopped: dispatch and issue cease (R387, R388 step 1). -/
def State.freeze (s : State) (t : Nat) (switch : Bool) : State :=
  (s.onTile t fun x => { x.onJobs (·.atBoundary switch) with frozen := true }).stopRuns t

/-- Whether a tile has no instruction to finish, no run short of its boundary and no SAC operation (R387). -/
def Tile.stopped (x : Tile) : Bool :=
  (List.range 5).all (fun c => !(x.ctx c).mustFinish)
    && (match x.running with | some r => r.atStop | none => true) && x.sac.isNone


/-! ### The Gong stop (R387) -/

/-- GONG_STOP (R387): the stop, and when every tile has come to its boundary, the stop records.  DESIGN CHOICE (log 64): a stop that comes
while a switch of the domain is accepted and not complete, or while the domain is out or resuming, is dropped; the manual gives no interplay. -/
def execGongStop (dom : Nat) (s : State) : Out :=
  .next (match s.domain dom with
    | none => s
    | some d =>
      match d.gang with
      | .running =>
        let s := d.tiles.foldl (fun s t => s.freeze t false) s
        ((s.onDomain dom fun d => { d with gang := .stopping }).setDebug dom).post (.gongStop dom)
      | .stopping =>
        if d.tiles.all fun t => (s.tile t).stopped then
          let s := d.tiles.foldl (fun s t => s.writeStop d t) s
          (s.onDomain dom fun d => { d with gang := .stopped }).setDebug dom
        else (d.tiles.foldl (fun s t => s.stopRuns t) s).post (.gongStop dom)
      | _ => s)

/-- A stopped run that continues with block `prog` at a beat, accumulation forced on past block 0 (R313, R391). -/
def Run.resumed (r : Run) (start : Nat) : Run := { r with base := r.prog, start := start, stopAt := none }

/-- A tile's runs resumed (R391 step 5); a queued run that starts before the running run ends, ends with FAULT (R305). -/
def State.resumeRuns (s : State) (t start : Nat) : State :=
  let s := s.onTile t fun x => { x with
    running := x.running.map fun r => if r.atStop then r.resumed start else { r with stopAt := none }
    queued := x.queued.map fun r => { r with stopAt := none } }
  match (s.tile t).running, (s.tile t).queued with
  | some r, some q =>
    if q.start < r.tokenBeat then ((s.onTile t fun x => { x with queued := none }).mmDone t q.req 4).unhold q.holds else s
  | _, _ => s

/-- DEBUG_STOP (R439). -/
def execDebugStop (f : Nat) (s : State) : Out :=
  .next (match (s.fn f).dom with
    | none => s
    | some dom => match s.domain dom with
      | none => s
      | some d => if d.gang = .running then s.postOnce (.gongStop dom) else s)

/-- DEBUG_RESUME (R387, R439): the beat at which stopped runs go on is free, since no rule gives it (log 54). -/
def execDebugResume (f : Nat) (s : State) : Out :=
  .next (match (s.fn f).dom with
    | none => s
    | some dom => match s.domain dom with
      | none => s
      | some d =>
        if d.gang ≠ .stopped then s
        else
          let start := s.beat + 1 + Config.pick s.fv
          let s := { s with fv := s.fv + 1 }
          let s := d.tiles.foldl (fun s t => (s.onTile t fun x => { x with frozen := false }).resumeRuns t start) s
          (s.onDomain dom fun d => { d with gang := .running }).setDebug dom)

/-- DEBUG_KILL (R381, R439): with cause 0x00. -/
def execDebugKill (f : Nat) (s : State) : Out :=
  .next (match (s.fn f).dom with
    | none => s
    | some dom => s.killDomain dom 0)

/-! ### The gang switch (R388) -/

/-- A pending step that belongs to the work of a domain on a tile: it is taken up again at the resume. -/
def jobEvent (tiles : List Nat) : Event → Bool
  | .colourAllocatorAnswer t c => tiles.contains t && c != 5
  | .storeQueuePerform t c => tiles.contains t && c != 5
  | .spillRefill t _ => tiles.contains t
  | .matchOverflowService t => tiles.contains t
  | .translationRequest t c => tiles.contains t && c != 5
  | .tlbFill t _ => tiles.contains t
  | .tlbFaultAnswer t _ _ => tiles.contains t
  | .dupCollapse t c => tiles.contains t && c != 5
  | .copyOnWrite t c => tiles.contains t && c != 5
  | .btCopyOnWrite t c => tiles.contains t && c != 5
  | .rmaPortOperation t => tiles.contains t
  | .rmaCompletion t _ => tiles.contains t
  | .mmrunAccept t => tiles.contains t
  | .streamProgramStart t => tiles.contains t
  | .sacAccept t => tiles.contains t
  | .trapDelivery t _ => tiles.contains t
  | .globalAnswerReturn t c => tiles.contains t && c != 5
  | .btServiceAnswer t c => tiles.contains t && c != 5
  | .engineAnswer t c => tiles.contains t && c != 5
  | _ => false

/-- Whether a context has nothing left to do before its tile is saved: its stores are performed (R276), and the results of its instructions
are written (R26); only tokens may be pending (R390). -/
def Ctx.settled (k : Ctx) : Bool := k.storeQ == [] && !k.pend.any fun p => p.val.isSome

/-- Whether a tile has done steps 1 to 3 of R388. -/
def State.switchReady (s : State) (t : Nat) : Bool :=
  let x := s.tile t
  x.stopped && (List.range 5).all (fun c => (x.ctx c).settled) && x.left == [] && x.rmaOps == [] && x.rmaDone == [] && x.joins == []
    && x.completions == []
    && x.loopIn == [] && x.svc == [] && !s.net.any fun p => p.place == t && p.ejected

/-- Step 2 of R388: the domain's flits that no tile has taken and no Forzen link holds leave the routers for the fallout, in the order of
arrival, each with its router and the place it came from. -/
def State.takeFallout (s : State) (dom : Nat) : State :=
  let out (p : Packet) : Bool := domOf p.msg.tag == dom && !p.ejected && p.link == none
  { s with net := s.net.filter fun p => !out p }.onDomain dom fun d => { d with fallout := d.fallout ++ s.net.filter out }

/-- Step 4 of R388: the domain's programs, and its SEGOs that wait for a slot, leave the stream engines for the engine save area. -/
def State.savePrograms (s : State) (dom : Nat) : State :=
  s.engines.foldl (fun s (e, x) =>
    let mine := (x.slots ++ x.back).filter (·.req.dom == dom)
    let wait := x.waits.filter (·.req.dom == dom)
    if mine = [] ∧ wait = [] then s
    else
      let s := s.setEngine e { x with
        slots := x.slots.filter (·.req.dom != dom), back := x.back.filter (·.req.dom != dom), waits := x.waits.filter (·.req.dom != dom) }
      (s.onDomain dom fun d => { d with
        savedPrograms := d.savedPrograms ++ mine.map (e, ·), savedWaits := d.savedWaits ++ wait.map (e, ·) }).fillEngine e) s

/-- Steps 4 and 5 of R388 on a tile: its save area is written, with the kill-list entries of the domain (R392), and S may bind it.  The
fields of the domain hold what the bytes hold, and the rest (log 12). -/
def State.saveTile (s : State) (d : Domain) (t at' : Nat) : State :=
  let x := s.tile t
  let own (k : Nat × Nat) : Bool := k.1 == d.dom
  let image := { x with kills := x.kills.filter own, stopRec := some (x.stopRecord s.beat) }
  let s := s.writeSave d t at'
  (s.setTile t { x.unbound with kills := x.kills.filter fun k => !own k }).onDomain d.dom fun d =>
    { d with saved := d.saved ++ [(t, image)] }

/-- S of the tile that asked is woken (R403). -/
def State.wakeAsker (s : State) (d : Domain) : State :=
  match d.gangTile with
  | none => s
  | some t => s.onTile t fun x => { x with sEvents := x.sEvents ++ [.switchDone d.dom] }

/-- Whether a colour kill of a domain that the Gong root accepted has still to act on a tile (R403). -/
def State.killsLeft (s : State) (dom : Nat) : Bool :=
  s.later.any fun e => match e with | .colourKillArrival _ d _ _ _ => d == dom | _ => false

/-- Whether a tile of a domain has not come to its stop. -/
def State.unfrozen (s : State) (d : Domain) : Bool := d.tiles.any fun u => !(s.tile u).frozen && !(s.tile u).withdrawn

/-- GANG_SWITCH (R388): at beat T every tile stops, once the kills accepted before it have acted (R403); then, when every tile has
done steps 1 to 3, the domain is saved. -/
def execGangSwitch (dom : Nat) (s : State) : Out :=
  .next (match s.domain dom with
    | none => s
    | some d =>
      match d.gang with
      | .switching t =>
        if s.beat < t ∨ s.killsLeft dom = true then s.post (.gangSwitch dom)
        else
          let s := if s.unfrozen d then d.tiles.foldl (fun s u => s.freeze u true) s else d.tiles.foldl (fun s u => s.stopRuns u) s
          let s := s.takeFallout dom
          if d.tiles.all fun u => (s.tile u).withdrawn || s.switchReady u then
            let s := s.savePrograms dom
            let s := s.onDomain dom fun d => { d with saved := [] }
            let s := (d.tiles.filter fun u => !(s.tile u).withdrawn).foldl (fun s u => s.saveTile d u t) s
            let s := s.dropEvents (jobEvent d.tiles)
            (s.onDomain dom fun d => { d with gang := .out, gangTile := none }).wakeAsker d
          else s.post (.gangSwitch dom)
      | _ => s)

/-! ### The resume (R391, R392) -/

/-- A tile restored from its save area (R391 steps 1, 2 and 7); S, the link-up counts and other domains' kill-list entries stay, and the event
counters read as the save area holds them (R397). -/
def Tile.restored (x saved : Tile) : Tile :=
  { saved with
    enabled := x.enabled
    withdrawn := x.withdrawn
    ctxs := vset saved.ctxs 5 (x.ctx 5)
    lastL := x.lastL
    sp := saved.sp.filter (fun c => decide (c.1 < 0x7C000)) ++ x.sp.filter fun c => decide (0x7C000 ≤ c.1)
    spPoison := saved.spPoison.filter (fun p => decide (p < 0x7C000)) ++ x.spPoison.filter fun p => decide (0x7C000 ≤ p)
    evcAt := saved.evc
    evcNew := Vector.replicate 16 0
    errinj := x.errinj
    corr := x.corr
    lanes := x.lanes
    kills := x.kills ++ saved.kills
    tlb := []
    hcache := []
    linkUp := x.linkUp
    sEvents := x.sEvents
    serving := x.serving
    svc := []
    frozen := false }

/-- The image of a tile as it is read back: its panes with the poison that their bytes in the save area have by now (R374, R457). -/
def State.readBack (s : State) (d : Domain) (t : Nat) (x : Tile) : Tile :=
  { x with spPoison :=
      if s.memPoison = [] ∧ s.failedStacks = [] then []
      else ((List.range 63488).map (8 * ·)).filter fun p => s.memPoisoned (d.saveAt t + 0x40000 + p) 8 }

/-- The pending steps of a tile's work posted again. -/
def State.repost (s : State) (t : Nat) : State :=
  let x := s.tile t
  let s := x.asyncQ.foldl (fun s r => s.post (match r.op with
    | .mmrun => .mmrunAccept t
    | .sego => .streamProgramStart t
    | .sacp => .sacAccept t
    | .sacc => .sacAccept t
    | _ => .rmaPortOperation t)) s
  let s := (x.trapQ.filter fun c => (x.ctx c).status == .trapped).foldl (fun s c =>
    (s.onTile t fun x => { x with sEvents := x.sEvents ++ [.trap c] }).post (.trapDelivery t c)) s
  ((List.range 16).foldl (fun s q => s.refillIfDue t q) s).overflowIfDue t

/-- The domain's programs, and its waiting SEGOs, back at their engines (R391 step 4): a program takes one of the four slots, or waits for it
with its record while programs of other domains have them (R295; log 12), and it translates its pages anew. -/
def State.restorePrograms (s : State) (d : Domain) : State :=
  let s := d.savedPrograms.foldl (fun s (e, p) => s.setEngine e { s.engine e with back := (s.engine e).back ++ [{ p with pages := [] }] }) s
  let s := d.savedWaits.foldl (fun s (e, w) => s.setEngine e { s.engine e with waits := (s.engine e).waits ++ [w] }) s
  s.engines.foldl (fun s (e, _) => s.fillEngine e) s

/-- A kill that the Gong root held acts on the restored tiles (R392); one that finds a full kill list kills the domain (R379). -/
def State.heldKill (s : State) (d : Domain) (col cause start : Nat) : State :=
  if d.saved.any fun (t, _) => (s.tile t).killsFull d.dom col then s.killDomain d.dom 0x26
  else d.saved.foldl (fun s (t, _) => s.colourKillAt t d.dom col cause start) s

/-- Whether the tiles of a domain to be resumed are bound to no domain. -/
def State.tilesFree (s : State) (d : Domain) : Bool := d.saved.all fun (t, _) => (s.tile t).dom == 0

/-- GANG_RESUME (R391): at beat T2, once every saved tile is bound to no domain. -/
def execGangResume (dom : Nat) (s : State) : Out :=
  .next (match s.domain dom with
    | none => s
    | some d =>
      match d.gang with
      | .resuming t2 =>
        if s.beat < t2 ∨ s.tilesFree d = false then s.post (.gangResume dom)
        else
          let s := d.saved.foldl (fun s (t, x) => s.onTile t (·.restored (s.readBack d t x))) s
          let s := s.onDomain dom fun d => { d with
            gang := .running, heldKills := [], savedPrograms := [], savedWaits := [], fallout := [], gangTile := none
            resumedAt := some s.beat }
          -- held kills act on the restored state, before any flit of the fallout can arrive (R392)
          let s := { s with net := d.fallout ++ s.net }
          let s := s.restorePrograms d
          let s := d.heldKills.foldl (fun s (col, cause, start) => s.heldKill d col cause start) s
          let s := d.saved.foldl (fun s (t, _) => (s.resumeRuns t (s.beat + 4096)).repost t) s
          let s : State := s.wakeAsker d
          if (d.tiles.any fun t => decide (48 ≤ (s.tile t).kills.length)) = true then s.startSweep dom else s
      | _ => s)

/-- The switch or resume whose beat has come, which acts before any tile's turn (R388 step 1, R391 step 7). -/
def State.gangDue (s : State) : Option Event :=
  s.domains.findSome? fun d => match d.gang with
    | .switching t => if t ≤ s.beat ∧ s.unfrozen d = true ∧ s.killsLeft d.dom = false then some (.gangSwitch d.dom) else none
    | .resuming t2 => if t2 ≤ s.beat ∧ s.tilesFree d = true then some (.gangResume d.dom) else none
    | _ => none

/-! ### The Gong root (R403) -/

/-- Whether the root refuses a request of GANGSW: a stop that has been started is in progress. -/
def State.gangRefused (s : State) (dom : Nat) (resume : Bool) : Bool :=
  match s.domain dom with
  | none => true
  | some d => s.domainDying dom || match d.gang with
    | .running => resume || s.later.contains (.gongStop dom)
    | .out => !resume
    | _ => true

/-- GONG_ROOT_ANSWER (R403): the answer to a GANGSW, which the root then carries out. -/
def execGongRootAnswer (t c : Nat) (s : State) : Out :=
  .next (match (s.ctxAt t c).wait with
    | some (.sent r) =>
      if r.kind ≠ .gangSw then s
      else
        let dom := bits r.x 11 0
        let resume := r.x.getLsbD 12
        let refused := s.gangRefused dom resume
        let s := s.onCtx t c fun k => { k with status := .running, wait := some (.answered r (if refused then 1 else 0)) }
        if refused then s
        else
          let g : GangState := if resume then .resuming r.y.toNat else .switching r.y.toNat
          (s.onDomain dom fun d => { d with gang := g, gangTile := some t }).post (if resume then .gangResume dom else .gangSwitch dom)
    | _ => s)

/-! ### Replay (R394) -/

/-- The message S feeds for a logged arrival in domain `dom`: its SRC, SEQ, HID and tag from the record; the record holds no more of it, so
the rest, PORT too, is free (log 22). -/
def State.replayMsg (s : State) (t dom : Nat) (r : LogRec) (i : Nat) : Msg :=
  let n := (Config.openWord s.fv (18 * i)).toNat % 17
  let port := (Config.openWord s.fv (18 * i + 17)).getLsbD 0
  { h0 := { sHead r.hid true n with dst := s.addr t, port := port }.word
    h1 := ({ src := r.src, sctx := 0, orighid := 0, returned := false, seq := r.seq } : H1).word
    tag := setDom r.tag dom
    pay := (List.range n).map fun j => Config.openWord s.fv (18 * i + j + 1) }

/-- A checkpoint of domain `old` in domain `dom`: every structure that names the one names the other. -/
def Tile.rehomed (x : Tile) (old dom : Nat) : Tile :=
  let tag (w : Word) : Word := if domOf w = old then setDom w dom else w
  let num (n : Nat) : Nat := if n = old then dom else n
  let msg (m : Msg) : Msg := { m with tag := tag m.tag }
  let slot (sl : Slot) : Slot := { sl with msg := msg sl.msg, owed := sl.owed.map msg }
  let req (r : AsyncReq) : AsyncReq := { r with dom := num r.dom }
  let run (r : Run) : Run := { r with req := req r.req }
  { x with
    dom := num x.dom
    ctxs := vmap (fun k => { k with tg := tag k.tg, act := k.act.map fun a => { a with slot := slot a.slot } }) x.ctxs
    panes := vmap (fun p => { p with dom := num p.dom }) x.panes
    queues := vmap (fun q => { q with waiting := q.waiting.map slot, ring := q.ring.map slot }) x.queues
    store := x.store.map slot
    area := x.area.map slot
    votes := x.votes.map fun v => { v with tag := tag v.tag, copies := v.copies.map msg }
    counters := vmap (fun k => { k with tag := tag k.tag }) x.counters
    fifo := vmap (fun l => l.map fun e => { e with dom := num e.dom }) x.fifo
    kills := x.kills.map fun (k : Nat × Nat) => (num k.1, k.2)
    asyncQ := x.asyncQ.map req
    running := x.running.map run
    queued := x.queued.map run }

/-- SINGLE_TILE_REPLAY (R394): the checkpoint of a tile of domain `dom`, any of them (log 22), restored on tile `t`, in the replay domain that
S has bound it to; the arrivals that the log of the checkpoint's tile holds since then fed by LOOPB in order, and the inputs logged at FULL laid
up for the instructions that take them.  Where `t` is bound to no other domain nothing is replayed. -/
def execSingleTileReplay (t dom : Nat) (s : State) : Out :=
  .next (
    let x := s.tile t
    if x.dom = 0 ∨ x.dom = dom then s
    else match (s.domain dom).bind fun d => d.saved[Config.pick s.fv % d.saved.length]? with
      | none => s
      | some (u, saved) =>
        let recs := (s.tile u).log.drop saved.log.length
        let msgs := (recs.filter fun r => r.kind ≤ 3).zipIdx.map fun (r, i) => LoopIn.msg (s.replayMsg t x.dom r i) false
        let s := (s.onTile t fun y =>
          { y.restored (saved.rehomed dom x.dom) with
            replay := true
            feed := (recs.filter fun r => r.kind == 4).map (·.data)
            loopIn := msgs
            log := []
            logBase := x.logBase
            logUsed := 0
            logFull := false }).resumeRuns t (s.beat + 4096)
        { s with fv := s.fv + 1 }.repost t)

end Sys2Proof.Machine
end

