-- ==== Sys2Proof/Machine/Loader.lean ====
section
/-! DEFINITION. The loader (03: R79 to R87; 06: R152, R158; 08: R210, R211; 09: R229, R237; 10: R258, R272; 17: R370; 20: R318,
R416; 22: R450): the checks of a container, its placement, its memory, the binding of its tiles and its initial messages. -/

namespace Sys2Proof.Machine

/-! ### Reading a container -/

/-- The sections of a type, in order. -/
def ofType (z : Container) (n : Nat) : List Section := z.sections.filter (·.typ == n)

/-- The little-endian number at a byte offset of a list. -/
def leAt (bs : List Byte) (a n : Nat) : Nat := leNat ((bs.drop a).take n)

/-- A doubleword at a byte offset of a list. -/
def dwAt (bs : List Byte) (a : Nat) : Word := BitVec.ofNat 64 (leAt bs a 8)

/-- Number of logical tiles. -/
def jobTiles (z : Container) : Nat := z.width * z.height

/-- Whether a section applies to logical tile `i`. -/
def covers (x : Section) (i : Nat) : Bool := decide (x.first ≤ i) && decide (i ≤ x.last)

/-- The contents of the one section of a type; empty without one. -/
def oneOf (z : Container) (n : Nat) : List Byte := (((ofType z n).head?).map (·.data)).getD []

/-- The contents of the section of a type that covers a tile. -/
def tileOne (z : Container) (n i : Nat) : List Byte := ((((ofType z n).find? fun x => covers x i)).map (·.data)).getD []

/-- A section's pieces of `n` bytes each. -/
def pieces (n : Nat) (bs : List Byte) : List (List Byte) := (List.range (bs.length / n)).map fun i => (bs.drop (n * i)).take n

/-! ### Checks 1 to 5 of R87 -/

/-- Check 1. -/
def check1 (z : Container) : Bool := z.magic == 0x1A434F5A && z.version == 0x0100

/-- Whether each section begins at or after the end of the one before it. -/
def inOrder : Nat → List Section → Bool
  | _, [] => true
  | a, x :: t => decide (a ≤ x.offset) && inOrder (x.offset + x.size) t

/-- End of the last section other than the signature (R79). -/
def coveredEnd (z : Container) : Nat := (z.sections.filter (·.typ != 0xFF)).foldl (fun n x => max n (x.offset + x.size)) (64 + 32 * z.nsect)

/-- Whether section `i` is what the file's bytes from 0x40 on say: its table entry (R80) and, but for the signature, its contents. -/
def sectionRead (z : Container) (x : Section) (i : Nat) : Bool :=
  let f (a n : Nat) : Nat := leAt z.body (32 * i + a) n
  f 0 2 == x.typ && f 2 2 == x.align && f 4 2 == x.first && f 6 2 == x.last && f 8 8 == x.offset && f 16 8 == x.size && f 24 8 == x.addr
    && (x.typ == 0xFF || (z.body.drop (x.offset - 64)).take x.size == x.data)

/-- Check 2: the header's reserved fields and NSECT, and the bounds, alignment and order of the sections (R79, R80), which are those of the
bytes that DIGEST covers.  DESIGN CHOICE (log 64): a section for tiles FIRST > LAST, or for one the job does not have, and a COVERED that is not the
end of the last section other than the signature, fail this check, too, since R87 names none for them. -/
def check2 (z : Container) : Bool :=
  decide (z.flags ≤ 1) && z.reserved == 0 && decide (1 ≤ z.nsect) && decide (z.nsect ≤ 1024) && z.sections.length == z.nsect
    && z.sections.all (fun x => decide (x.align ≤ 16) && x.offset % 2 ^ x.align == 0 && x.data.length == x.size
        && decide (x.first ≤ x.last) && decide (x.last < jobTiles z))
    && inOrder (64 + 32 * z.nsect) z.sections
    && z.covered == coveredEnd z && z.body.length == z.covered - 64
    && z.sections.zipIdx.all fun (x, i) => sectionRead z x i

/-- Check 3 (R79). -/
def check3 (z : Container) : Bool := z.digest == sha256 z.body

/-- The 64 bytes of the header (R79). -/
def headerBytes (z : Container) : List Byte :=
  leBytes 4 z.magic ++ leBytes 2 z.version ++ leBytes 2 z.flags ++ leBytes 4 z.nsect ++ leBytes 4 0 ++ leBytes 8 z.covered
    ++ leBytes 8 0 ++ leBytes 32 z.digest.toNat

/-- The signing keys of a domain and its REQUIRE flag (R450). -/
def State.keysOf (s : State) (dom : Nat) : List (BitVec 256) × Bool :=
  match s.keys.find? (·.1 == dom) with
  | some (_, ks, r) => (ks, r)
  | none => ([], false)

/-- Whether a signature section is good under the keys of a domain (R86, R450). -/
def signed (ks : List (BitVec 256)) (z : Container) : Bool :=
  match ofType z 0xFF with
  | [x] =>
    let alg := leAt x.data 0 8
    let key : BitVec 256 := BitVec.ofNat 256 (leAt x.data 8 32)
    let sig := x.data.drop 40
    (alg == 1 && sig.length == 7856 || alg == 2 && sig.length == 29792)
      && ks.contains key && Config.sigValid alg key sig (headerBytes z)
  | _ => false

/-- Check 4 (R86, R450): a domain with no keys accepts only unsigned containers. -/
def State.check4 (s : State) (dom : Nat) (z : Container) : Bool :=
  let (ks, req) := s.keysOf dom
  if z.flags % 2 = 1 then signed ks z else !req

/-- The size a section of a type has (R81).  DESIGN CHOICE (log 35): a wrong size is refused with code 5, as is a PANEIMG section whose pane
number lies outside 1 to 123, and a BIND section holds one binding. -/
def sizeOk (x : Section) : Bool :=
  match x.typ with
  | 1 => x.size % 4 == 0
  | 2 => true
  | 3 => x.size == 4096 && decide (1 ≤ x.addr) && decide (x.addr ≤ 123)
  | 4 => x.size % 16 == 0
  | 5 => x.size == 256
  | 6 => x.size == 2048
  | 7 => x.size == 128
  | 8 => x.size == 8
  | 9 => x.size == 516
  | 10 => x.size == 72
  | 11 => x.size == 48
  | 12 => x.size % 32 == 0
  | 13 => x.size % 160 == 0
  | 14 => x.size == 64
  | 15 => true
  | 0xFF => true
  | _ => false

/-- Whether every logical tile is covered by one section of a type. -/
def perTile (z : Container) (n : Nat) : Bool := (List.range (jobTiles z)).all fun i => ((ofType z n).filter fun x => covers x i).length == 1

/-- Check 5 (R81). -/
def check5 (z : Container) : Bool :=
  z.sections.all sizeOk
    && decide (1 ≤ (ofType z 1).length) && (ofType z 4).length == 1 && (ofType z 8).length == 1 && (ofType z 14).length == 1
    && decide ((ofType z 11).length ≤ 4)
    && perTile z 5 && perTile z 6 && perTile z 7
    && ((ofType z 0xFF).isEmpty || ((ofType z 0xFF).length == 1 && (z.sections.getLast?.map (·.typ)) == some 0xFF))

/-! ### Check 6: field values -/

/-- A handler entry's reserved fields (R82). -/
def handlerOk (bs : List Byte) : Bool :=
  let lo := dwAt bs 0
  let hi := dwAt bs 8
  bits hi 63 24 == 0 && bits hi 7 6 == 0 && bits hi 2 0 == 0 && bits lo 63 52 == 0 && bits lo 1 0 == 0
    && (hi.getLsbD 4 || bits hi 23 12 == 0)

/-- The handler of a HID in the container's table. -/
def handlerIn (z : Container) (hid : Nat) : Option Handler :=
  let t := oneOf z 4
  if 16 * hid + 16 ≤ t.length then handlerOf (dwAt t (16 * hid)) (dwAt t (16 * hid + 8)) else none

/-- The handler table (R82, R370): HID 0 and the service handler's 0xFFF have no entry. -/
def tableOk (z : Container) : Bool :=
  let t := oneOf z 4
  (pieces 16 t).all handlerOk && leAt t 0 16 == 0 && decide (t.length ≤ 65536) && leAt t 0xFFF0 16 == 0

/-- A queue image (R84). -/
def queueImageOk (w : BitVec 128) : Bool :=
  let lo : Word := w.setWidth 64
  if lo.getLsbD 2 then
    w.toNat / 2 ^ 64 == 0 && bits lo 31 24 == 0 && bits lo 7 5 == 0 && decide (2 ≤ bits lo 15 12) && decide (bits lo 15 12 ≤ 8)
      && decide (1 ≤ bits lo 11 8) && !(lo.getLsbD 1 && !lo.getLsbD 4)
  else w == 0

/-- A counter image (R84).  DEDUCED (log 35): an image of zeros, of a counter that no source arms, is good. -/
def counterImageOk (i : Nat) (w : BitVec 256) : Bool :=
  let c : Word := (w >>> 64).setWidth 64
  let v : Word := w.setWidth 64
  w == 0 || (i != 0 && w.toNat / 2 ^ 192 == 0 && bits c 63 15 == 0 && decide (bits v 31 0 < bits v 63 32))

/-- The queue images of a QUEUES section. -/
def queueImages (bs : List Byte) : List (BitVec 128) := (pieces 16 bs).map fun b => BitVec.ofNat 128 (leNat b)
/-- The counter images of a COUNTERS section. -/
def counterImages (bs : List Byte) : List (BitVec 256) := (pieces 32 bs).map fun b => BitVec.ofNat 256 (leNat b)

/-- Whether a HID names a handler on a reply-class queue (R154, R369). -/
def replyHandler (z : Container) (hid : Nat) (arity1 : Bool) : Bool :=
  match handlerIn z hid with
  | none => false
  | some h =>
    let qs := ((ofType z 5).map fun x => queueOf ((queueImages x.data).getD h.queue 0)).filter (·.en)
    qs != [] && qs.all (·.cls.isReply) && !(arity1 && h.arity2)

/-- The DOMAIN record (R85, R154, R369). -/
def domainOk (z : Container) : Bool :=
  let bs := oneOf z 14
  let w := dwAt bs 0
  bits w 15 12 == 0 && bits w 31 28 == 0 && decide (bits w 33 32 ≤ 2) && bits w 47 34 == 0 && bits w 63 60 == 0
    && ((bs.drop 8).take 32).all (fun b => decide (b.toNat ≤ 3)) && (bs.drop 40).all (· == 0)
    && replyHandler z (bits w 11 0) false && replyHandler z (bits w 27 16) true

/-- The numbers of a block-table record: BTID, SEQS, BLOCKS, BLKSIZE, FRAMES and LFRAMES (R81). -/
def btFields (bs : List Byte) : List Nat := (List.range 6).map fun i => leAt bs (8 * i) 8

/-- A block-table record (R237): BLKSIZE in bytes (log 35). -/
def btOk (bs : List Byte) : Bool :=
  match btFields bs with
  | [id, seqs, blocks, size, _, _] =>
    decide (id ≤ 3) && decide (1 ≤ seqs) && decide (seqs ≤ 2 ^ 22) && decide (1 ≤ blocks) && decide (blocks ≤ 2 ^ 24)
      && (size == 16384 || size == 32768 || size == 65536)
  | _ => false

/-- A SLOTS section (R337). -/
def slotsOk (bs : List Byte) : Bool := decide (leAt bs 0 4 ≤ 15) && (List.range 256).all fun e => slotEntryOk (leAt bs (4 + 2 * e) 2)

/-- RNSCHDEF of a job (R416): the attribute, or its default. -/
def rnschdefOf (z : Container) : Word := z.rnsch.getD 0x00140300

/-- Check 6 (R82, R84, R85, R130, R237, R337, R370, R416); an initial message names a logical tile (log 35). -/
def check6 (z : Container) : Bool :=
  tableOk z
    && (ofType z 5).all (fun x => (queueImages x.data).all queueImageOk)
    && (ofType z 6).all (fun x => (counterImages x.data).zipIdx.all fun (w, i) => counterImageOk i w)
    && domainOk z
    && (ofType z 9).all (fun x => slotsOk x.data)
    && (ofType z 10).all (fun x => decide (leAt x.data 0 8 ≤ 255))
    && (ofType z 11).all (fun x => btOk x.data)
    && decide (((ofType z 11).map fun x => leAt x.data 0 8).eraseDups.length = (ofType z 11).length)
    && (ofType z 13).all (fun x => (pieces 160 x.data).all fun b => decide (leAt b 152 2 < jobTiles z))
    && rnschOk (rnschdefOf z)

/-! ### Placement (R210, R211, R318) -/

/-- The tile at a column and row of the module's grid (R211). -/
def gridTile (x y : Nat) : Nat := tileAt (6 * (y / 32) + x / 32) (y % 32) (x % 32)

/-- The tiles of a rectangle of the grid, in logical order. -/
def gridTiles (w h x0 y0 : Nat) : List Nat := (List.range (w * h)).map fun i => gridTile (x0 + i % w) (y0 + i / w)

/-- Whether a tile may be given to a job (R211): no domain holds it, or keeps it as a spare. -/
def State.tileFree (s : State) (t : Nat) : Bool := !s.gone t && (s.tile t).dom == 0 && !s.domains.any fun d => d.spares.contains t

/-- Whether a job of a shape may stand at origin `n` of the grid (R210, R211). -/
def State.originOk (s : State) (w h n : Nat) : Bool :=
  let x0 := n % 192
  let y0 := n / 192
  decide (x0 + w ≤ 192) && decide (y0 + h ≤ 128)
    && (decide (32 < w) || decide (32 < h) || (decide (x0 % 32 + w ≤ 32) && decide (y0 % 32 + h ≤ 32)))
    && (gridTiles w h x0 y0).all s.tileFree

/-- A free choice among numbers below `n` that satisfy a condition: the one picked if it does, else the first (log 5). -/
def State.choose (s : State) (n : Nat) (f : Nat → Bool) : Option Nat :=
  let k := Config.pick s.fv % (n + 1)
  if k < n ∧ f k = true then some k else (List.range n).find? f

/-- The tiles of a placement, in logical order. -/
def State.placement (s : State) (w h : Nat) : Option (List Nat) :=
  if w = 0 ∨ h = 0 ∨ 192 < w ∨ 128 < h then none
  else (s.choose (192 * 128) (s.originOk w h)).map fun n => gridTiles w h (n % 192) (n / 192)

/-- The tiles of column `x` of a die in given rows. -/
def columnTiles (die x : Nat) (rows : List Nat) : List Nat := rows.map fun y => tileAt die y x

/-- Up to two qualifying spare columns of a die (R318). -/
def State.spareColumns (s : State) (die : Nat) (rows job : List Nat) : List Nat :=
  let ok (x : Nat) : Bool := (columnTiles die x rows).all fun t => s.tileFree t && !job.contains t
  match s.choose 32 ok with
  | none => []
  | some a => a :: ({ s with fv := s.fv + 1 }.choose 32 fun x => ok x && x != a).toList

/-- The rows of a die that channel rectangles of a job occupy (R318), among those of its tiles there.  Where rectangles lie is the job's, and no
section tells the loader, so which rows is free; but a job with C = 2 has rectangles, and one of a single row has them there (log 35). -/
def State.channelRows (s : State) (die : Nat) (job : List Nat) : List Nat :=
  let rows := ((job.filter fun t => dieAt t == die).map yOf).eraseDups
  let l := rows.filter (Config.channelRow s.fv die)
  if l = [] then rows else l

/-- The spares of a job (R318): for C = 2, on each die that a channel rectangle occupies, in the rows it occupies there. -/
def State.spareTiles (s : State) (rnsch : Word) (job : List Nat) : List Nat :=
  if bits rnsch 5 4 ≠ 2 then []
  else (job.map dieAt).eraseDups.flatMap fun die =>
    let rows := s.channelRows die job
    (s.spareColumns die rows job).flatMap fun x => columnTiles die x rows

/-! ### Memory -/

/-- Whether 64 KB frames `f` to `f + n − 1` exist and are given to no domain. -/
def State.framesFree (s : State) (hbm : Bool) (f n : Nat) : Bool :=
  (if hbm then decide (f + n ≤ s.stackList.length * 2 ^ 20) else decide (2 ^ 24 ≤ f) && decide (f + n ≤ 2 ^ 26))
    && s.placed.all fun (_, g, m) => decide (f + n ≤ g) || decide (g + m ≤ f)

/-- Frames given anew: a fetch sees what memory holds there now (R22), not what an earlier job fetched. -/
def State.freshCode (s : State) (f n : Nat) : State :=
  let lo := f * 65536
  let hi := (f + n) * 65536
  { s with code := s.code.filter (decide <| ·.1 < lo) ++ s.mem.filter (fun c => decide (lo ≤ c.1 ∧ c.1 < hi)) ++ s.code.filter (decide <| hi ≤ ·.1) }

/-- `n` frames in a row at a multiple of `al`, given to a domain: where the loader takes them is free (log 5). -/
def State.alloc (s : State) (dom : Nat) (hbm : Bool) (n al : Nat) : Option (Nat × State) :=
  let up (f : Nat) : Nat := (f + al - 1) / al * al
  let starts := (up (Config.pick s.fv) :: (if hbm then 0 else 2 ^ 24) :: s.placed.map fun (_, g, m) => up (g + m))
  match if n = 0 then some 0 else starts.find? fun f => s.framesFree hbm f n with
  | none => none
  | some f => some (f, { s.freshCode f n with fv := s.fv + 1, placed := if n = 0 then s.placed else (dom, f, n) :: s.placed })

/-- Frames for `n` bytes. -/
def framesFor (n : Nat) : Nat := (n + 65535) / 65536

/-- Frames with every byte zero. -/
def State.zeroFrames (s : State) (f n : Nat) : State :=
  let out (a : Nat) : Bool := decide (a < f * 65536) || decide ((f + n) * 65536 ≤ a)
  { s with mem := s.mem.filter fun c => out c.1, code := s.code.filter fun c => out c.1, memPoison := s.memPoison.filter out }

/-- The next table of a walk from an entry, made if there is none (R222). -/
def State.nextTable (s : State) (dom entry : Nat) : Option (Nat × State) :=
  let pte : Word := BitVec.ofNat 64 (s.mem.le entry 8)
  if pteBit pte 0 then some (ptePfn pte * 65536, s)
  else (s.alloc dom true 1 1).map fun (f, s) =>
    (f * 65536, { s.zeroFrames f 1 with mem := (s.zeroFrames f 1).mem.setLe entry 8 (f * 65536 + 1) })

/-- A leaf installed for an address: 256 MB or 64 KB (R222). -/
def State.mapPage (s : State) (dom root va : Nat) (big : Bool) (pte : Word) : Option State :=
  (s.nextTable dom (root + 8 * walkIndex va 1)).bind fun (t2, s) =>
    if big then some { s with mem := s.mem.setLe (t2 + 8 * walkIndex va 2) 8 pte.toNat }
    else (s.nextTable dom (t2 + 8 * walkIndex va 2)).map fun (t3, s) =>
      { s with mem := s.mem.setLe (t3 + 8 * walkIndex va 3) 8 pte.toNat }

/-- A region of a SYNC record (R81): base, size, sync object address and PTE attribute bits; and of its directive (R77) whether it is of tier
LPDDR and of 256 MB pages. -/
structure Region where
  base : Nat
  size : Nat
  obj : Nat
  attr : Word
  lpddr : Bool
  big : Bool
  deriving DecidableEq, Repr

/-- The regions of a container; one of which nothing more is known is of HBM and 64 KB pages (log 35). -/
def regionsOf (z : Container) : List Region :=
  ((ofType z 12).flatMap fun x => pieces 32 x.data).zipIdx.map fun (b, i) =>
    let (lpddr, big) := z.regions.getD i (false, false)
    ⟨leAt b 0 8, leAt b 8 8, leAt b 16 8, dwAt b 24, lpddr, big⟩

/-- The sync objects of a container in the order of their first record (R258); address 0 is none (log 35). -/
def syncObjects (z : Container) : List Nat := ((regionsOf z).map (·.obj)).filter (· != 0) |>.eraseDups

/-- Bytes of a page of a region. -/
def Region.page (r : Region) : Nat := if r.big then 2 ^ 28 else 65536

/-- Whether a region lies in HBM: a read-duplicated one does, on the stacks of the edge dies (R229). -/
def Region.hbm (r : Region) : Bool := !r.lpddr || pteBit r.attr 4

/-- Frames a page of a region occupies: a page that lies in one stack takes the stacks' span (R220). -/
def State.pageFrames (s : State) (r : Region) : Nat :=
  r.page / 65536 * (if r.hbm && (pteBit r.attr 12 || pteBit r.attr 4) then s.stackList.length else 1)

/-- A stack of an edge die, 0 to 3 for dies 24 to 27, that a copy goes to: any that is enabled (log 5). -/
def State.stackOn (s : State) (i : Nat) : Option Nat :=
  let l := s.stackList.filter fun k => k / 4 == i
  l[Config.pick s.fv % l.length]?

/-- The stacks of the four copies of a read-duplicated page (R229): that of the hint, or with none any, and one on each other edge die; none
where a die has no stack. -/
def State.dupStacks (s : State) (r : Region) : Option (Nat × List Nat) :=
  let first := if pteBit r.attr 12 then bits r.attr 11 8 else s.stackList.getD (Config.pick s.fv % s.stackList.length) 0
  ((List.range 4).mapM fun i => if i = first / 4 then some first else s.stackOn i).map fun l => (first, l)

/-- The leaf PTE of a page of a region (R223, R258). -/
def Region.pte (r : Region) (objs : List Nat) (frame : Nat) : Word :=
  let sync := if r.obj = 0 then 0 else objs.findIdx (· == r.obj) + 1
  setBits (setBits (r.attr &&& 0x1F7E) 63 52 sync) 51 16 frame ||| 0x81

/-- One page of a region mapped, its bytes zero until its sections are written (log 35), with its copies if it is read-duplicated, all
with the same contents (R229). -/
def State.regionPage (s : State) (dom root : Nat) (objs : List Nat) (r : Region) (va : Nat) : Option (State × List DupPage) :=
  let n := s.pageFrames r
  let al := if r.big then 4096 else 1
  (s.alloc dom r.hbm n al).bind fun (f, s) =>
    let s := s.zeroFrames f n
    if !pteBit r.attr 4 then (s.mapPage dom root va r.big (r.pte objs f)).map fun s => (s, [])
    else
      (s.dupStacks r).bind fun (first, homes) =>
        let copy (acc : Option (State × List (Nat × Nat))) (k : Nat) : Option (State × List (Nat × Nat)) :=
          acc.bind fun (s, l) =>
            if k = first then some (s, l ++ [(f, k)]) else (s.alloc dom true n al).map fun (g, s) => (s.zeroFrames g n, l ++ [(g, k)])
        (s.mapPage dom root va r.big (copyPte (r.pte objs f) (f, first))).bind fun s =>
          (homes.foldl copy (some (s, []))).map fun (s, l) => (s, [⟨va / 65536, pteBit r.attr 2, l⟩])

/-- The pages of every region mapped. -/
def State.mapRegions (s : State) (dom root : Nat) (z : Container) : Option (State × List DupPage) :=
  let step (r : Region) (acc : Option (State × List DupPage)) (i : Nat) : Option (State × List DupPage) :=
    acc.bind fun (s, l) =>
      (s.regionPage dom root (syncObjects z) r (r.base / r.page * r.page + i * r.page)).map fun (s, m) => (s, l ++ m)
  (regionsOf z).foldl (fun acc r => (List.range ((r.base % r.page + r.size + r.page - 1) / r.page)).foldl (step r) acc) (some (s, []))

/-- Attributes of the page of a CODE or DATA section (log 35): code may be read and executed, data read and written. -/
def sectionAttr (x : Section) : Word := if x.typ = 1 then 0x8B else 0x87

/-- A page of a section mapped, if nothing is mapped there; else its permissions widened. -/
def State.sectionPage (s : State) (dom root : Nat) (x : Section) (va : Nat) : Option State :=
  match s.walk root va with
  | some (_, a, pte) => some { s with mem := s.mem.setLe a 8 (pte ||| sectionAttr x).toNat }
  | none => (s.alloc dom true 1 1).bind fun (f, s) =>
      (s.zeroFrames f 1).mapPage dom root va false (setBits (sectionAttr x) 51 16 f)

/-- Bytes written at a virtual address of a domain, in every copy of the page (R229); fetches see them from now on (R22). -/
def State.putVa (s : State) (root : Nat) (dups : List DupPage) (va : Nat) (bs : List Byte) : State :=
  (List.range bs.length).foldl (fun s i =>
    match s.walk root (va + i), bs[i]? with
    | some (level, _, pte), some b =>
      let off := (va + i) % leafSize level
      let ptes := match dups.find? (·.vpn == leafVpn level (va + i)) with | some d => d.copies.map (copyPte pte) | none => [pte]
      ptes.foldl (fun s p =>
        let pa := s.pageAddr p off
        { s with mem := s.mem.set pa b, code := s.code.set pa b }) s
    | _, _ => s) s

/-- The CODE and DATA sections of a container mapped and written. -/
def State.putSections (s : State) (dom root : Nat) (dups : List DupPage) (z : Container) : Option State :=
  let xs := z.sections.filter fun x => x.typ == 1 || x.typ == 2
  let page (x : Section) (acc : Option State) (i : Nat) : Option State :=
    acc.bind fun s => s.sectionPage dom root x ((x.addr / 65536 + i) * 65536)
  (xs.foldl (fun acc x => (List.range ((x.addr % 65536 + x.size + 65535) / 65536)).foldl (page x) acc) (some s)).map fun s =>
    xs.foldl (fun s x => s.putVa root dups x.addr x.data) s

/-- A block table given its memory (R237): its entries zero, its frames in order. -/
def State.placeTable (s : State) (dom : Nat) (bs : List Byte) : Option (State × BlockTable) :=
  match btFields bs with
  | [id, seqs, blocks, size, frames, lframes] =>
    let span (n : Nat) : Nat := framesFor (n * size)
    (s.alloc dom true (framesFor (8 * seqs * blocks)) 1).bind fun (t, s) =>
      (s.alloc dom true (span frames) 1).bind fun (h, s) =>
        (s.alloc dom false (span lframes) 1).map fun (l, s) =>
          let list (f n : Nat) : List Nat := (List.range n).map fun i => f * 16 + i * (size / 4096)
          (s.zeroFrames t (framesFor (8 * seqs * blocks)),
            { btid := id, base := t * 65536, seqs := seqs, blocks := blocks, blkSize := size, freeHbm := list h frames,
              freeLpddr := list l lframes, quarantine := [], reserved := [], kept := [] })
  | _ => none

/-- The block tables of a container. -/
def State.placeTables (s : State) (dom : Nat) (z : Container) : Option (State × List BlockTable) :=
  (ofType z 11).foldl (fun acc x => acc.bind fun (s, l) => (s.placeTable dom x.data).map fun (s, b) => (s, l ++ [b])) (some (s, []))

/-- The domain's pool of page frames (R231): how many is free (log 35). -/
def State.poolFrames (s : State) (dom : Nat) (hbm : Bool) : List Nat × State :=
  let n := (Config.openWord s.fv 0).toNat % 4096
  match { s with fv := s.fv + 1 }.alloc dom hbm n 1 with
  | some (f, s) => ((List.range n).map (f + ·), s)
  | none => ([], { s with fv := s.fv + 1 })

/-! ### Relocations (R77, R87) -/

/-- The addresses a relocation may take: of the sections, of the regions, and of the tiles of the placement (log 35). -/
def relocBases (z : Container) (tiles : List Nat) : List Nat := z.sections.map (·.addr) ++ (regionsOf z).map (·.base) ++ tiles

/-- The value of a relocation. -/
def relocValue (z : Container) (tiles : List Nat) (r : Reloc) : Int := (relocBases z tiles).getD r.base 0 + r.add

/-- Bytes a relocation's field touches. -/
def relocSpan (r : Reloc) : Nat := (r.lsb + r.width + 7) / 8

/-- Check 8: every relocation names a field of a section and an address, and its value fits the field. -/
def relocsOk (z : Container) (tiles : List Nat) : Bool :=
  z.relocs.all fun r =>
    let v := relocValue z tiles r
    decide (r.base < (relocBases z tiles).length) && decide (0 ≤ v ∧ v < 2 ^ r.width)
      && match z.sections[r.sect]? with | some x => decide (r.off + relocSpan r ≤ x.size) | none => false

/-- A section's contents with a field set. -/
def patched (bs : List Byte) (r : Reloc) (v : Nat) : List Byte :=
  let old := leAt bs r.off (relocSpan r)
  let lo := old % 2 ^ r.lsb
  let hi := old / 2 ^ (r.lsb + r.width)
  bs.take r.off ++ leBytes (relocSpan r) (lo + v % 2 ^ r.width * 2 ^ r.lsb + hi * 2 ^ (r.lsb + r.width)) ++ bs.drop (r.off + relocSpan r)

/-- A container with its relocations resolved for a placement. -/
def resolvedFor (z : Container) (tiles : List Nat) : Container :=
  let fix (xs : List Section) (r : Reloc) : List Section :=
    xs.zipIdx.map fun (x, i) => if i = r.sect then { x with data := patched x.data r (relocValue z tiles r).toNat } else x
  { z with sections := z.relocs.foldl fix z.sections }

/-! ### Placing and binding -/

/-- The images of logical tile `i` (R83, R337). -/
def imageOf (z : Container) (i : Nat) : TileImage :=
  { panes := ((ofType z 3).filter fun x => covers x i).map fun x => (x.addr, x.data)
    queues := queueImages (tileOne z 5 i)
    counters := counterImages (tileOne z 6 i)
    owners := tileOne z 7 i
    slots := (((ofType z 9).filter fun x => covers x i).foldl (fun t x =>
      t.loadPhase (leAt x.data 0 4) ((List.range 256).map fun e => BitVec.ofNat 16 (leAt x.data (4 + 2 * e) 2))) Tile.reset).phases }

/-- The domain of a container as it is placed (R82, R85, R140, R158, R258, R384, R389, R393, R416). -/
def domainOf (dom : Nat) (z : Container) (tiles spares : List Nat) (root htab syncBase saveBase logBase voteBase : Nat)
    (bts : List BlockTable) (dups : List DupPage) (hbm lpddr : List Nat) (keys : List (BitVec 256) × Bool) (feds : List Nat) : Domain :=
  let w := dwAt (oneOf z 14) 0
  { dom := dom, refusal := bits w 11 0, trapHid := bits w 27 16, launch := bits w 59 48, logLevel := bits w 33 32, logGap := false
    disp := ((oneOf z 14).drop 8 |>.take 32).map (·.toNat)
    root := root, htab := htab, nhid := (oneOf z 4).length / 16, width := z.width, height := z.height, tiles := tiles
    images := (List.range (jobTiles z)).map (imageOf z)
    spares := spares, rnschdef := rnschdefOf z, txdef := dwAt (oneOf z 8) 0, syncBase := syncBase, syncCount := (syncObjects z).length
    bts := bts, spillPool := 262144 * jobTiles z, freeHbm := hbm, freeLpddr := lpddr, dups := dups, colours := [], episodes := []
    completed := [], gang := .running, gangTile := none, sweep := none, saved := [], savedPrograms := [], savedWaits := [], fallout := []
    heldKills := [], saveBase := saveBase, logBases := (List.range (jobTiles z)).map (logBase + 65536 * ·)
    voteLog := [], voteBase := voteBase, voteUsed := 0, resumedAt := none, keys := keys.1, requireKey := keys.2, federation := feds }

/-- The entries S makes in the access tables for a domain (R450): every class of its masters may do anything at the targets its placement
uses (log 44). -/
def tablesOf (dom : Nat) : List TableRow :=
  [TableAt.home, .hbm, .lpddr, .engines, .host].flatMap fun a =>
    [MasterClass.context, .engine, .hostEndpoint, .firmware].map fun c => ⟨a, dom, c, ⟨true, true, true, true⟩⟩

/-- Check 7 (R87): the placement and the memory of a container, none where either is refused. -/
def State.placeJob (s : State) (dom : Nat) (z : Container) : Option (State × Domain) := do
  if dom = 0 ∨ 0xFFF ≤ dom ∨ (s.domain dom).isSome ∨ s.unswept.contains dom ∨ 4095 < (syncObjects z).length then none
  let tiles ← s.placement z.width z.height
  let s := { s with fv := s.fv + 1 }
  let spares := s.spareTiles (rnschdefOf z) tiles
  let s := { s with fv := s.fv + 2 }
  let z := resolvedFor z (tiles.map s.addr)
  let (root, s) ← s.alloc dom true 1 1
  let s := s.zeroFrames root 1
  let (s, dups) ← s.mapRegions dom (root * 65536) z
  let s ← s.putSections dom (root * 65536) dups z
  let (htab, s) ← s.alloc dom true (framesFor (oneOf z 4).length) 1
  let s := { s with mem := s.mem.setList (htab * 65536) (oneOf z 4) }
  let (sync, s) ← s.alloc dom true (framesFor (8 * (syncObjects z).length + 8)) 1
  let s := s.zeroFrames sync (framesFor (8 * (syncObjects z).length + 8))
  let (s, bts) ← s.placeTables dom z
  let (_, s) ← s.alloc dom true (4 * jobTiles z) 1
  let (save, s) ← s.alloc dom true (12 * jobTiles z) 1
  let (log, s) ← s.alloc dom true (jobTiles z) 1
  let (vote, s) ← s.alloc dom true 1 1
  let (hbm, s) := s.poolFrames dom true
  let (lpddr, s) := s.poolFrames dom false
  let feds := ((s.federations.find? (·.1 == dom)).map (·.2)).getD []
  let s := { s with tables := tablesOf dom ++ s.tables.filter (·.dom != dom) }
  some (s, domainOf dom z tiles spares (root * 65536) (htab * 65536) (sync * 65536) (save * 65536) (log * 65536)
    (vote * 65536) bts dups hbm lpddr (s.keysOf dom) feds)

/-- Every tile of a domain bound (R83, R139). -/
def State.bindAll (s : State) (d : Domain) : State := d.tiles.zipIdx.foldl (fun s (t, i) => s.bindTile d t i) s

/-- A BIND record's program put into its engine (R77, R81; log 35): it has no activation to take its token, and no SESTAT shows it, since no
SEGO started it (R348).  DESIGN CHOICE (log 35): the tile the program runs for is the first of the binding's tiles. -/
def State.bindProgram (s : State) (d : Domain) (x : Section) : State :=
  let e := leAt x.data 0 8
  let t := d.tileOf x.first
  let dws := (List.range 8).map fun i => dwAt x.data (8 + 8 * i)
  let r : AsyncReq := ⟨.sego, 7, 0, d.dom, 0, 0, BitVec.ofNat 64 e, 0, none⟩
  if s.engineGone t e then s
  else (s.setEngine e { s.engine e with back := (s.engine e).back ++ [newProgram ⟨t, 0, r⟩ dws] }).fillEngine e

/-- The initial message records of a container, in order. -/
def initRecords (z : Container) : List (List Byte) := (ofType z 13).flatMap fun x => pieces 160 x.data

/-- The message of initial record `i` (R84): of H1 the loader fills SRC, SCTX and SEQ; DROP is carried as 0 inside the module (R148). -/
def State.initMsg (s : State) (d : Domain) (bs : List Byte) (i : Nat) : Msg :=
  let h := h0Of (dwAt bs 0)
  { h0 := { h with dst := s.addr (d.tileOf (leAt bs 152 2)), drop := false }.word
    h1 := { h1Of (dwAt bs 8) with src := s.addr endpoint, sctx := 0, seq := i % 65536 }.word
    tag := setBits (setBits (dwAt bs 16) 63 52 d.dom) 51 40 0
    pay := (List.range (min h.len 16)).map fun k => dwAt bs (24 + 8 * k) }

/-- The initial messages enter the networks in record order (R84). -/
def State.sendInits (s : State) (d : Domain) (z : Container) : State :=
  (initRecords z).zipIdx.foldl (fun s (bs, i) => s.inject endpoint (s.initMsg d bs i) (h0Of (dwAt bs 0)).vn) s

/-- The code of the first check of R87 that a container fails. -/
def State.loadCode (s : State) (dom : Nat) (z : Container) : Option Nat :=
  if !check1 z then some 1
  else if !check2 z then some 2
  else if !check3 z then some 3
  else if !s.check4 dom z then some 4
  else if !check5 z then some 5
  else if !check6 z then some 6
  else match s.placeJob dom z with
    | none => some 7
    | some (_, d) => if relocsOk z (d.tiles.map s.addr) then none else some 8

/-- CONTAINER_LOAD (R87): a container that passes is placed, its tiles bound, its programs and initial messages started; of one that
is refused nothing is placed, and the host return area gets the code. -/
def execContainerLoad (f dom : Nat) (z : Container) (s : State) : Out :=
  .next (match s.loadCode dom z, s.placeJob dom z with
    | none, some (s', d) =>
      let s := { s' with domains := s'.domains ++ [d] }.bindAll d
      let z := resolvedFor z (d.tiles.map s.addr)
      ((ofType z 10).foldl (fun s x => s.bindProgram d x) s).sendInits d z
    | some code, _ => s.fnRecord f 2 code []
    | none, none => s)

end Sys2Proof.Machine
end

