-- ==== Sys2Proof/Machine/Priv.lean ====
section
/-! DEFINITION. The privileged instructions (18: R398 to R406). -/

namespace Sys2Proof.Machine

/-! ### Contexts and translation (R399 to R401) -/

/-- TRET (R399). -/
def execTret (d a b : Reg) (s : State) : Out :=
  privileged (fun s =>
    let w := s.me.g a
    let c := bits w 2 0
    let at' := s.me.g b
    if bits w 63 4 ≠ 0 ∨ 4 < c then .trap .illegalInstruction 0
    else if (s.ctxAt s.cur c).status ≠ .trapped then .done (s.putG d 0)
    else if w.getLsbD 3 = true ∧ bits at' 1 0 ≠ 0 then .done (s.putG d 2)
    else .done ((s.resume s.cur c (if w.getLsbD 3 then some at' else none)).putG d 1)) s

/-- TLBWR (R400). -/
def execTlbwr (d a b : Reg) (s : State) : Out :=
  privileged (fun s =>
    let hi := s.me.g a
    let e := tlbOf hi (s.me.g b)
    if bits hi 6 0 ≠ 0 then .trap .illegalInstruction 0
    else if e.dom ≠ s.my.dom then .done (s.putG d 0)
    else .done ((s.onMy (·.takeFill e)).putG d 1)) s

/-- The entries a TLBINV removes (R401). -/
def Tile.tlbRemoved (x : Tile) (va mode : Nat) (e : TlbEntry) : Bool :=
  match mode with
  | 0 => e.dom == x.dom && e.maps va
  | 1 => e.dom == x.dom
  | _ => true

/-- The lines of a die's cache that hold the frame of a page written back and dropped (R401). -/
def State.flushPage (s : State) (die : Nat) (pte : Word) (size : Nat) : State :=
  (s.caches.filter fun l => l.die == die && s.inPage pte size (l.line * 128)).foldl (fun s l => s.flushLine l.die l.line) s

/-- Whether a tile still has an access in flight that may have used a removed entry (R401). -/
def Tile.usesRemoved (x : Tile) (va mode : Nat) (big : Bool) : Bool :=
  let page (a : Nat) : Bool := if mode ≠ 0 then true else if big then a / 2 ^ 28 == va / 2 ^ 28 else a / 65536 == va / 65536
  x.sac.isSome || x.ctxs.toList.any (·.inFlight page)

/-- TLBINV (R401): the entries go when it first issues; it retires when the accesses that used them are done. -/
def execTlbinv (d a b : Reg) (s : State) : Out :=
  privileged (fun s =>
    let va := (s.me.g a).toNat
    let w := s.me.g b
    let mode := bits w 1 0
    let flush := w.getLsbD 2
    let finish (s : State) (n : Nat) (pte : Word) (big : Bool) : Res :=
      if s.my.usesRemoved va mode big then
        .wait (s.onMe fun k => { k with
          status := .stalled
          wait := some (.answered ⟨.tlbInv, va, n, 0, big, 0, pte, 0⟩ 0) })
      else
        let s := if flush ∧ n ≠ 0 then s.flushPage (dieOf s.cur) pte (if big then 2 ^ 28 else 65536) else s
        .done (s.putG d (BitVec.ofNat 64 n))
    match s.me.wait with
    | some (.answered r _) => finish s r.pa r.x r.cached
    | _ =>
      if bits w 63 3 ≠ 0 ∨ mode = 3 ∨ (flush = true ∧ mode ≠ 0) then .trap .illegalInstruction 0
      else
        let out := s.my.tlb.filter (s.my.tlbRemoved va mode)
        let s' := s.onMy fun x => { x with tlb := x.tlb.filter fun e => !x.tlbRemoved va mode e }
        finish s' out.length ((out.head?.map (·.pte)).getD 0) ((out.head?.map (·.big)).getD false)) s

/-! ### Kills and switches (R402, R403) -/

/-- Whether a domain number names no domain a program may kill or switch. -/
def badDom (dom : Nat) : Bool := dom == 0 || dom == 0xFFF

/-- DOMKILL (R402). -/
def execDomkill (a : Reg) (s : State) : Out :=
  privileged (fun s =>
    let w := s.me.g a
    if bits w 63 12 ≠ 0 ∨ badDom (bits w 11 0) then .trap .illegalInstruction 0
    else .done (s.killDomain (bits w 11 0) 0)) s

/-- COLKILL (R402). -/
def execColkill (a : Reg) (s : State) : Out :=
  privileged (fun s =>
    let tag := s.me.g a
    if badDom (domOf tag) then .trap .illegalInstruction 0
    else .done (s.killColour (s.addr s.cur) (domOf tag) (colOf tag) 0)) s

/-- GANGSW (R403). -/
def execGangsw (d a b : Reg) (s : State) : Out :=
  privileged (fun s => s.exchange
    (let w := s.me.g a
     if bits w 63 13 ≠ 0 ∨ badDom (bits w 11 0) then .trap .illegalInstruction 0
     else s.ask ⟨.gangSw, 0, 0, 0, false, 0, w, s.me.g b⟩ (.gongRootAnswer s.cur s.who))
    (fun _ v => .done (s.putG d (v.setWidth 64)))) s

/-! ### Logs, sleep and LOOPB (R404 to R406) -/

/-- LOGCTL (R404): a domain the module does not have reads 0. -/
def execLogctl (d a b : Reg) (s : State) : Out :=
  privileged (fun s =>
    let dom := bits (s.me.g a) 11 0
    let w := s.me.g b
    if bits w 63 3 ≠ 0 ∨ bits w 1 0 = 3 then .trap .illegalInstruction 0
    else match s.domain dom with
      | none => .done (s.putG d 0)
      | some r =>
        let level := if w.getLsbD 2 then r.logLevel else bits w 1 0
        .done ((s.onDomain dom fun r => { r with logLevel := level, logGap := false }).putG d
          (BitVec.ofNat 64 (r.logLevel + 4 * bitN r.logGap)))) s

/-- HALT (R405): S takes its next service event, and waits while it has none; with WITHDRAW it withdraws the tile. -/
def execHalt (a : Reg) (s : State) : Out :=
  privileged (fun s =>
    let w := s.me.g a
    if bits w 63 1 ≠ 0 then .trap .illegalInstruction 0
    else if w.getLsbD 0 then .ended (s.withdraw s.cur)
    else match s.my.sEvents with
      | [] => s.stall
      | e :: rest =>
        .done (s.onMy fun x => { x with sEvents := rest, serving := match e with | .trap c => some c | _ => none })) s

/-- The message a LOOPB places, from the record at an address (R406); the NI writes zero to the reserved bits of both headers (R150), and
DROP is carried as 0 on the tile itself, whatever DST, which is ignored, says (R148; log 63). -/
def State.loopMsg (s : State) (keep : Bool) (at' : Nat) : Msg :=
  let dw (i : Nat) : Word := BitVec.ofNat 64 (s.my.sp.le (at' + 8 * i) 8)
  let h0 := dw 0
  { h0 := { h0Of h0 with drop := false }.word
    h1 := (if keep then h1Of (dw 1) else { h1Of (dw 1) with src := s.addr s.cur, sctx := 5, seq := s.my.seq.toNat }).word
    tag := dw 2
    pay := (List.range (h0Of h0).len).map fun i => dw (3 + i) }

/-- LOOPB (R406). -/
def execLoopb (k r : Bool) (a : Reg) (s : State) : Out :=
  privileged (fun s =>
    let ea := effAddr (s.me.g a) 0
    let check (s : State) : Option (Cause × Word) := (s.spCheckRange ea 152 8).or
      (if 16 < (h0Of (s.loopMsg k ea.toNat).h0).len then some (.illegalInstruction, 0) else none)
    s.atFirst (check s) (s.afterStores fun s =>
      if s.my.loopIn ≠ [] then s.stall
      else match check s with
        | some (c, va) => .trap c va
        | none =>
          if s.my.spPoisoned ea.toNat 152 then .trap .uncorrectableData (eaWord ea)
          else
            let m := s.loopMsg k ea.toNat
            let s := if k then s else s.takeSeq s.cur
            .done (s.onMy fun x => { x with loopIn := x.loopIn ++ [.msg m r] }))) s

end Sys2Proof.Machine
end

