-- ==== Sys2Proof/Machine/Sys.lean ====
section
/-! DEFINITION. The special registers (01: R14 to R17; 18: R395 to R397, R407; 17: R367) and GETS, SETS and BRK. -/

namespace Sys2Proof.Machine

/-- A special register (R14), with the index of one of a range. -/
inductive Sreg
  | st | pfx | tx | tg | mh0 | mh1 | mlen | tile | dom | beat | icount | mret | mvec (i : Nat) | evc (i : Nat) | rnsst | rnsch
  | trapc | trappc | trapva | trapiw | errinj | wdog | rngseed | rnsmap | m (i : Nat) | vx (i : Nat)
  deriving DecidableEq, Repr

/-- The register a number names, if it is assigned (R14). -/
def sregOf (n : Nat) : Option Sreg :=
  match n with
  | 0x000 => some .st
  | 0x001 => some .pfx
  | 0x002 => some .tx
  | 0x003 => some .tg
  | 0x004 => some .mh0
  | 0x005 => some .mh1
  | 0x006 => some .mlen
  | 0x008 => some .tile
  | 0x009 => some .dom
  | 0x010 => some .beat
  | 0x011 => some .icount
  | 0x012 => some .mret
  | 0x030 => some .rnsst
  | 0x031 => some .rnsch
  | 0x040 => some .trapc
  | 0x041 => some .trappc
  | 0x042 => some .trapva
  | 0x043 => some .trapiw
  | 0x044 => some .errinj
  | 0x050 => some .wdog
  | 0x060 => some .rngseed
  | 0x061 => some .rnsmap
  | _ =>
    if 0x013 ≤ n ∧ n ≤ 0x016 then some (.mvec (n - 0x013))
    else if 0x020 ≤ n ∧ n ≤ 0x02F then some (.evc (n - 0x020))
    else if 0x070 ≤ n ∧ n ≤ 0x07F then some (.m (n - 0x070))
    else if 0x080 ≤ n ∧ n ≤ 0x09F then some (.vx (n - 0x080))
    else none

/-- Whether a register is S only (R14). -/
def Sreg.sOnly : Sreg → Bool
  | .trapc => true
  | .trappc => true
  | .trapva => true
  | .trapiw => true
  | .errinj => true
  | _ => false

/-- Whether a register is marked "write S" (R14). -/
def Sreg.writeS : Sreg → Bool
  | .pfx => true
  | _ => false

/-- Whether a register is marked read only (R14). -/
def Sreg.readOnly : Sreg → Bool
  | .mh0 => true
  | .mh1 => true
  | .mlen => true
  | .tile => true
  | .dom => true
  | .beat => true
  | .icount => true
  | .wdog => true
  | .m _ => true
  | _ => false

/-- A field of the trap record of the context that S serves: zero in another context and when S serves none (R367). -/
def State.record (s : State) (f : Ctx → Word) : Word :=
  match s.my.serving with
  | some c => if s.isS then f (s.my.ctx c) else 0
  | none => 0

/-- The value of a special register (R14 to R17, R395); an event counter as it stood before the beat's own increments (R397). -/
def State.readSreg (s : State) (r : Sreg) : Word :=
  let k := s.me
  match r with
  | .st => k.st
  | .pfx => k.pfx.setWidth 64
  | .tx => k.tx
  | .tg => k.tg
  | .mh0 => k.mh0
  | .mh1 => k.mh1
  | .mlen => k.mlen
  | .tile => BitVec.ofNat 64 (s.addr s.cur)
  | .dom => if s.isS then 0 else BitVec.ofNat 64 s.my.dom
  | .beat => BitVec.ofNat 64 s.beat
  | .icount => k.icount.setWidth 64
  | .mret => k.mret
  | .mvec i => vget k.mvec i 0
  | .evc i => (vget s.my.evcAt i 0).setWidth 64
  | .rnsst => k.rnsst
  | .rnsch => k.rnsch
  | .trapc => s.record (·.trapc)
  | .trappc => s.record (·.trappc)
  | .trapva => s.record (·.trapva)
  | .trapiw => s.record (·.trapiw)
  | .errinj => s.my.errinj
  | .wdog => k.wdog.setWidth 64
  | .rngseed => k.rngseed
  | .rnsmap => s.my.rnsmap
  | .m i => k.m i
  | .vx i => k.vx (BitVec.ofNat 5 i)

/-- The bits of ST that a context may write (R16). -/
def stMask (isS : Bool) : Word := if isS then 0x3FFF0 else 0x3FF00

/-- A word with the bits of a mask taken from another. -/
def mergeMask (old new mask : Word) : Word := (old &&& ~~~mask) ||| (new &&& mask)

/-- Whether a value passes the checks of a register (R396 step 4: R16, R143, R407). -/
def State.sregOk (s : State) (r : Sreg) (w : Word) : Bool :=
  match r with
  | .st => decide (bits w 15 13 < 6)
  | .tx => txOk (w &&& 0x000FFFFFFFFFFFFF) s.me.tdepth
  | .errinj =>
    !w.getLsbD 62 && bits w 31 19 == 0 && bits w 61 60 != 3 && decide (bits w 59 56 ≤ 5) && decide (bits w 39 32 ≤ 63)
      && !(bits w 59 56 == 1 && decide (31 < bits w 39 32))
  | _ => true

/-- Writes the trap record S serves (R367).  DESIGN CHOICE (log 63): when it serves none, nothing is written; the manual gives only that the
record reads zero then. -/
def State.setRecord (s : State) (f : Ctx → Ctx) : State :=
  match s.my.serving with
  | some c => s.onCtx s.cur c f
  | none => s

/-- A tile with its runs as no injection armed from now on hits them (R407). -/
def Tile.disarmed (x : Tile) : Tile :=
  { x with
    running := x.running.map fun r => { r with inject := false }
    queued := x.queued.map fun r => { r with inject := false } }

/-- The same of the runs saved for tile `t` in domains that are switched out. -/
def State.disarmSaved (s : State) (t : Nat) : State :=
  { s with domains := s.domains.map fun d => { d with saved := d.saved.map fun (u, x) => if u = t then (u, x.disarmed) else (u, x) } }

/-- A special register written under its field map (R14 to R16, R41, R130, R132, R316, R367). -/
def State.writeSreg (s : State) (r : Sreg) (w : Word) : State :=
  match r with
  | .st => s.onMe fun k => { k with st := mergeMask k.st w (stMask s.isS) }
  | .pfx => s.onMe fun k => { k with pfx := w.setWidth 26 }
  | .tx => s.onMe fun k => { k with tx := w &&& 0x000FFFFFFFFFFFFF }
  | .tg => s.onMe fun k => { k with tg := w }
  | .mret => s.onMe fun k => { k with mret := w }
  | .mvec i => s.onMe fun k => { k with mvec := vset k.mvec i w }
  | .evc i => s.onMy fun x => { x with evc := vset x.evc i (satAdd32 (w.setWidth 32) (vget x.evcNew i 0)) }
  | .rnsst => s.onMe fun k => { k with rnsst := w &&& 0x0000000F1F1F1F1F }
  | .rnsch => s.onMe fun k => { k with rnsch := w &&& 0x00000000001FFF7F }
  | .trappc => s.setRecord fun k => { k with trappc := w }
  | .trapva => s.setRecord fun k => { k with trapva := w }
  | .trapiw => s.setRecord fun k => { k with trapiw := w }
  | .errinj => (s.onMy fun x => { x.disarmed with errinj := w }).disarmSaved s.cur
  | .rngseed => s.onMe fun k => { k with rngseed := if w = 0 then 1 else w }
  | .rnsmap => s.onMy fun x => { x with rnsmap := w &&& 0x000000000007FFF8 }
  | .vx i => s.onMe fun k => k.setVx (BitVec.ofNat 5 i) w
  | .trapc => s
  | .mh0 => s
  | .mh1 => s
  | .mlen => s
  | .tile => s
  | .dom => s
  | .beat => s
  | .icount => s
  | .wdog => s
  | .m _ => s

/-- GETS (R395, R396). -/
def execGets (d : Reg) (n : BitVec 12) (s : State) : Out :=
  plain (fun s =>
    match sregOf n.toNat with
    | none => .trap .illegalInstruction 0
    | some r =>
      if r.sOnly && !s.isS then .trap .privileged 0
      else
        let w := s.readSreg r
        .done (if r = .beat then s.putLogged d w else s.putG d w)) s

/-- SETS (R395 to R397). -/
def execSets (a : Reg) (n : BitVec 12) (s : State) : Out :=
  plain (fun s =>
    match sregOf n.toNat with
    | none => .trap .illegalInstruction 0
    | some r =>
      if (r.sOnly || r.writeS) && !s.isS then .trap .privileged 0
      else if r.readOnly then .trap .illegalInstruction 0
      else if !s.sregOk r (s.me.g a) then .trap .illegalInstruction 0
      else .done (s.writeSreg r (s.me.g a))) s

/-- BRK (R395). -/
def execBrk (c : BitVec 12) (s : State) : Out := plain (fun _ => .trap .breakpoint (c.setWidth 64)) s

end Sys2Proof.Machine
end

