-- ==== Sys2Proof/Machine/VectorMem.lean ====
section
/-! DEFINITION. Vector access to the scratchpad (05: R135 to R138). -/

namespace Sys2Proof.Machine

/-- Base address of a vector access (R135). -/
def State.vbase (s : State) (a : Reg) (o : BitVec 5) : Int := effAddr (s.me.g a) (o.toInt * 128)

/-- Lanes of a predicate with their addresses, ascending. -/
def laneAddrs (p : Pred) (addr : Nat → Int) : List (Nat × Int) := (activeLanes p).map fun i => (i, addr i)

/-- The first failing check of the lanes of a vector access (R136), then poison where lanes are read (R374). -/
def State.laneCheck (s : State) (reads : Bool) (l : List (Nat × Int)) : Option (Cause × Word) :=
  match l.findSome? fun (_, ea) => s.spCheck ea 4 with
  | some t => some t
  | none =>
    if reads then (l.find? fun (_, ea) => s.my.spPoisoned ea.toNat 4).map fun (_, ea) => (.uncorrectableData, eaWord ea)
    else none

/-- The check of VLD and VST (R136): alignment to 128, the whole vector under R18 as one access, then poison of the
active lanes that are read. -/
def State.wholeCheck (s : State) (reads : Bool) (ea : Int) (l : List (Nat × Int)) : Option (Cause × Word) :=
  if l = [] then none
  else match s.spCheckRange ea 128 128 with
    | some t => some t
    | none =>
      if reads then (l.find? fun (_, ea) => s.my.spPoisoned ea.toNat 4).map fun (_, ea) => (.uncorrectableData, eaWord ea)
      else none

/-- A vector load: every lane reads memory as it stood before (R137). -/
def vload (check : State → List (Nat × Int) → Option (Cause × Word)) (addr : State → Nat → Int) (lat : Nat) (d : Reg)
    (k : KReg) (s : State) : Out :=
  plain (fun s => let m := s.me
    let l := laneAddrs (m.k k) (addr s)
    match check s l with
    | some (c, va) => .trap c va
    | none => .done (s.putV d (mapLanes (m.k k) m.zm (m.v d) 32 fun i => s.my.sp.le (addr s i).toNat 4) lat)) s

/-- The scratchpad with 32-bit words written in order, each an event of UNIT 0 (R407); poison clears where the words cover a whole
doubleword (R374). -/
def Tile.spWords (x : Tile) (l : List (Nat × Nat)) : Tile :=
  let y := { x with
    sp := l.foldl (fun m (a, v) => m.setLe a 4 v) x.sp
    spPoison := x.spPoison.filter fun p => !(l.any (fun (a, _) => a == p) && l.any (fun (a, _) => a == p + 4)) }
  l.foldl (fun y (a, _) => y.paneEvent a 4) y

/-- A vector store: lanes in ascending order (R137). -/
def vstore (check : State → List (Nat × Int) → Option (Cause × Word)) (addr : State → Nat → Int) (r : Reg) (k : KReg)
    (s : State) : Out :=
  plain (fun s => let m := s.me
    let l := laneAddrs (m.k k) (addr s)
    match check s l with
    | some (c, va) => .trap c va
    | none => .done (s.spWriteMy (·.spWords (l.map fun (i, ea) => (ea.toNat, laneOf (m.v r) 32 i))))) s

/-- Address of lane `i` of VLD and VST (R135). -/
def addrUnit (a : Reg) (o : BitVec 5) (s : State) (i : Nat) : Int := s.vbase a o + 4 * i
/-- Address of lane `i` of VLDS and VSTS (R135). -/
def addrStride (a b : Reg) (o : BitVec 5) (s : State) (i : Nat) : Int := s.vbase a o + i * (s.me.g b).toInt
/-- Address of lane `i` of VLDX and VSTX (R135). -/
def addrIndex (a b : Reg) (o : BitVec 5) (s : State) (i : Nat) : Int := s.vbase a o + sInt (laneOf (s.me.v b) 32 i) 32

/-- VLD (R135). -/
def execVld (v a : Reg) (k : KReg) (o : BitVec 5) (s : State) : Out :=
  vload (fun s l => s.wholeCheck true (s.vbase a o) l) (addrUnit a o) 3 v k s
/-- VST (R135). -/
def execVst (v a : Reg) (k : KReg) (o : BitVec 5) (s : State) : Out :=
  vstore (fun s l => s.wholeCheck false (s.vbase a o) l) (addrUnit a o) v k s
/-- VLDS (R135). -/
def execVlds (v a b : Reg) (k : KReg) (o : BitVec 5) (s : State) : Out :=
  vload (fun s l => s.laneCheck true l) (addrStride a b o) 6 v k s
/-- VSTS (R135). -/
def execVsts (v a b : Reg) (k : KReg) (o : BitVec 5) (s : State) : Out :=
  vstore (fun s l => s.laneCheck false l) (addrStride a b o) v k s
/-- VLDX (R135). -/
def execVldx (v a b : Reg) (k : KReg) (o : BitVec 5) (s : State) : Out :=
  vload (fun s l => s.laneCheck true l) (addrIndex a b o) 6 v k s
/-- VSTX (R135). -/
def execVstx (v a b : Reg) (k : KReg) (o : BitVec 5) (s : State) : Out :=
  vstore (fun s l => s.laneCheck false l) (addrIndex a b o) v k s

/-- One addition of VSCATADD (R138): wrapping, or FP32 to nearest even; its flags and whether it made a NaN. -/
def scatAdd (t : RTy) (x y : Nat) : FRes :=
  match t with
  | .i32 => ⟨(x + y) % 2 ^ 32, {}, false⟩
  | .f32 => fAdd fp32 modeRne (fp32.dec x) (fp32.dec y)

/-- The merged values of distinct addresses, the lowest lane's first (R138): address, value, flags, NaNs made. -/
def scatMerge (t : RTy) : List (Nat × Nat) → List (Nat × FRes × Nat) → List (Nat × FRes × Nat)
  | [], acc => acc
  | (a, x) :: rest, acc =>
    scatMerge t rest
      (if acc.any (fun e => e.1 == a) then
        acc.map fun (b, r, n) => if b = a then let q := scatAdd t r.bits x; (b, ⟨q.bits, r.fl.or q.fl, false⟩, n + (if q.bad then 1 else 0)) else (b, r, n)
      else acc ++ [(a, ⟨x, {}, false⟩, 0)])

/-- VSCATADD (R135, R138). -/
def execVscatadd (v a b : Reg) (k : KReg) (t : RTy) (s : State) : Out :=
  plain (fun s => let m := s.me
    let addr := fun i => effAddr (m.g a) (sInt (laneOf (m.v b) 32 i) 32)
    let l := laneAddrs (m.k k) addr
    match s.laneCheck true l with
    | some (c, va) => .trap c va
    | none =>
      let merged := scatMerge t (l.map fun (i, ea) => (ea.toNat, laneOf (m.v v) 32 i)) []
      let final := merged.map fun (ad, r, n) => let q := scatAdd t (s.my.sp.le ad 4) r.bits; (ad, q, r.fl.or q.fl, n + (if q.bad then 1 else 0))
      let s := s.raise (final.foldl (fun f (_, _, g, _) => f.or g) {})
      .done (s.spWriteMy fun x => (x.spWords (final.map fun (ad, q, _, _) => (ad, q.bits))).bumpEvc 2 (final.foldl (fun n (_, _, _, c) => n + c) 0))) s

end Sys2Proof.Machine
end

