-- ==== Sys2Proof/Machine/Dispatch.lean ====
section
/-! DEFINITION. One arm for each row of spec/opcode_table.json: the meaning of the instruction or step. -/

namespace Sys2Proof.Machine

open Host (Outcome)

/-- What an instruction does. -/
def exec (i : Instr) (s : State) : Host.Outcome State Fault Refusal :=
  match i with
  | .add d a b => Sys2Proof.Machine.execAdd d a b s
  | .sub d a b => Sys2Proof.Machine.execSub d a b s
  | .and d a b => Sys2Proof.Machine.execAnd d a b s
  | .or d a b => Sys2Proof.Machine.execOr d a b s
  | .xor d a b => Sys2Proof.Machine.execXor d a b s
  | .sll d a b => Sys2Proof.Machine.execSll d a b s
  | .srl d a b => Sys2Proof.Machine.execSrl d a b s
  | .sra d a b => Sys2Proof.Machine.execSra d a b s
  | .slt d a b => Sys2Proof.Machine.execSlt d a b s
  | .sltu d a b => Sys2Proof.Machine.execSltu d a b s
  | .min d a b => Sys2Proof.Machine.execMin d a b s
  | .max d a b => Sys2Proof.Machine.execMax d a b s
  | .addw d a b => Sys2Proof.Machine.execAddw d a b s
  | .subw d a b => Sys2Proof.Machine.execSubw d a b s
  | .mul d a b => Sys2Proof.Machine.execMul d a b s
  | .mulh d a b => Sys2Proof.Machine.execMulh d a b s
  | .mulhu d a b => Sys2Proof.Machine.execMulhu d a b s
  | .div d a b => Sys2Proof.Machine.execDiv d a b s
  | .divu d a b => Sys2Proof.Machine.execDivu d a b s
  | .rem d a b => Sys2Proof.Machine.execRem d a b s
  | .remu d a b => Sys2Proof.Machine.execRemu d a b s
  | .clz d a => Sys2Proof.Machine.execClz d a s
  | .ctz d a => Sys2Proof.Machine.execCtz d a s
  | .popc d a => Sys2Proof.Machine.execPopc d a s
  | .brev d a => Sys2Proof.Machine.execBrev d a s
  | .bswap d a => Sys2Proof.Machine.execBswap d a s
  | .addi d a im => Sys2Proof.Machine.execAddi d a im s
  | .andi d a im => Sys2Proof.Machine.execAndi d a im s
  | .ori d a im => Sys2Proof.Machine.execOri d a im s
  | .xori d a im => Sys2Proof.Machine.execXori d a im s
  | .slti d a im => Sys2Proof.Machine.execSlti d a im s
  | .slli d a sx => Sys2Proof.Machine.execSlli d a sx s
  | .srli d a sx => Sys2Proof.Machine.execSrli d a sx s
  | .srai d a sx => Sys2Proof.Machine.execSrai d a sx s
  | .exts d a p l => Sys2Proof.Machine.execExts d a p l s
  | .extz d a p l => Sys2Proof.Machine.execExtz d a p l s
  | .ins d a p l => Sys2Proof.Machine.execIns d a p l s
  | .li d im => Sys2Proof.Machine.execLi d im s
  | .lim d im => Sys2Proof.Machine.execLim d im s
  | .addpc d im => Sys2Proof.Machine.execAddpc d im s
  | .beq a b o => Sys2Proof.Machine.execBeq a b o s
  | .bne a b o => Sys2Proof.Machine.execBne a b o s
  | .blt a b o => Sys2Proof.Machine.execBlt a b o s
  | .bge a b o => Sys2Proof.Machine.execBge a b o s
  | .bltu a b o => Sys2Proof.Machine.execBltu a b o s
  | .bgeu a b o => Sys2Proof.Machine.execBgeu a b o s
  | .j o => Sys2Proof.Machine.execJ o s
  | .call o => Sys2Proof.Machine.execCall o s
  | .jr a => Sys2Proof.Machine.execJr a s
  | .callr a => Sys2Proof.Machine.execCallr a s
  | .sel d a b c => Sys2Proof.Machine.execSel d a b c s
  | .ldb d a o => Sys2Proof.Machine.execLdb d a o s
  | .ldbu d a o => Sys2Proof.Machine.execLdbu d a o s
  | .ldh d a o => Sys2Proof.Machine.execLdh d a o s
  | .ldhu d a o => Sys2Proof.Machine.execLdhu d a o s
  | .ldw d a o => Sys2Proof.Machine.execLdw d a o s
  | .ldwu d a o => Sys2Proof.Machine.execLdwu d a o s
  | .ldd d a o => Sys2Proof.Machine.execLdd d a o s
  | .stb sx a o => Sys2Proof.Machine.execStb sx a o s
  | .sth sx a o => Sys2Proof.Machine.execSth sx a o s
  | .stw sx a o => Sys2Proof.Machine.execStw sx a o s
  | .std sx a o => Sys2Proof.Machine.execStd sx a o s
  | .fadd d a b p => Sys2Proof.Machine.execFadd d a b p s
  | .fsub d a b p => Sys2Proof.Machine.execFsub d a b p s
  | .fmul d a b p => Sys2Proof.Machine.execFmul d a b p s
  | .fdiv d a b p => Sys2Proof.Machine.execFdiv d a b p s
  | .fsqrt d a p => Sys2Proof.Machine.execFsqrt d a p s
  | .fmin d a b p => Sys2Proof.Machine.execFmin d a b p s
  | .fmax d a b p => Sys2Proof.Machine.execFmax d a b p s
  | .feq d a b p => Sys2Proof.Machine.execFeq d a b p s
  | .flt d a b p => Sys2Proof.Machine.execFlt d a b p s
  | .fle d a b p => Sys2Proof.Machine.execFle d a b p s
  | .fclass d a p => Sys2Proof.Machine.execFclass d a p s
  | .fcvtSD d a => Sys2Proof.Machine.execFcvtSD d a s
  | .fcvtDS d a => Sys2Proof.Machine.execFcvtDS d a s
  | .fcvtWS d a => Sys2Proof.Machine.execFcvtWS d a s
  | .fcvtSW d a => Sys2Proof.Machine.execFcvtSW d a s
  | .fcvtLD d a => Sys2Proof.Machine.execFcvtLD d a s
  | .fcvtDL d a => Sys2Proof.Machine.execFcvtDL d a s
  | .fmadd d a b c p => Sys2Proof.Machine.execFmadd d a b c p s
  | .fmsub d a b c p => Sys2Proof.Machine.execFmsub d a b c p s
  | .fnmadd d a b c p => Sys2Proof.Machine.execFnmadd d a b c p s
  | .vadd d a b k w x => Sys2Proof.Machine.execVadd d a b k w x s
  | .vsub d a b k w x => Sys2Proof.Machine.execVsub d a b k w x s
  | .vmul d a b k w x => Sys2Proof.Machine.execVmul d a b k w x s
  | .vmulh d a b k w x => Sys2Proof.Machine.execVmulh d a b k w x s
  | .vand d a b k w x => Sys2Proof.Machine.execVand d a b k w x s
  | .vor d a b k w x => Sys2Proof.Machine.execVor d a b k w x s
  | .vxor d a b k w x => Sys2Proof.Machine.execVxor d a b k w x s
  | .vshl d a b k w x => Sys2Proof.Machine.execVshl d a b k w x s
  | .vshr d a b k w x => Sys2Proof.Machine.execVshr d a b k w x s
  | .vsar d a b k w x => Sys2Proof.Machine.execVsar d a b k w x s
  | .vmin d a b k w x => Sys2Proof.Machine.execVmin d a b k w x s
  | .vmax d a b k w x => Sys2Proof.Machine.execVmax d a b k w x s
  | .vfadd d a b k t x => Sys2Proof.Machine.execVfadd d a b k t x s
  | .vfsub d a b k t x => Sys2Proof.Machine.execVfsub d a b k t x s
  | .vfmul d a b k t x => Sys2Proof.Machine.execVfmul d a b k t x s
  | .vfmin d a b k t x => Sys2Proof.Machine.execVfmin d a b k t x s
  | .vfmax d a b k t x => Sys2Proof.Machine.execVfmax d a b k t x s
  | .vfexp2 d a k t => Sys2Proof.Machine.execVfexp2 d a k t s
  | .vflog2 d a k t => Sys2Proof.Machine.execVflog2 d a k t s
  | .vfrcp d a k t => Sys2Proof.Machine.execVfrcp d a k t s
  | .vfrsq d a k t => Sys2Proof.Machine.execVfrsq d a k t s
  | .vfma d a b c k => Sys2Proof.Machine.execVfma d a b c k s
  | .vfms d a b c k => Sys2Proof.Machine.execVfms d a b c k s
  | .vfnma d a b c k => Sys2Proof.Machine.execVfnma d a b c k s
  | .vcvt d a z p k => Sys2Proof.Machine.execVcvt d a z p k s
  | .vqblk d a p k => Sys2Proof.Machine.execVqblk d a p k s
  | .vdqblk d a z p k => Sys2Proof.Machine.execVdqblk d a z p k s
  | .vrsum d a k t => Sys2Proof.Machine.execVrsum d a k t s
  | .vrmax d a k t => Sys2Proof.Machine.execVrmax d a k t s
  | .vrmin d a k t => Sys2Proof.Machine.execVrmin d a k t s
  | .vscan d a k t => Sys2Proof.Machine.execVscan d a k t s
  | .vbcast d a z w k => Sys2Proof.Machine.execVbcast d a z w k s
  | .vextr d a b w => Sys2Proof.Machine.execVextr d a b w s
  | .vins d a b w => Sys2Proof.Machine.execVins d a b w s
  | .vperm d a b k => Sys2Proof.Machine.execVperm d a b k s
  | .vslide d a sx k => Sys2Proof.Machine.execVslide d a sx k s
  | .vsel d a b k => Sys2Proof.Machine.execVsel d a b k s
  | .vcmpEq d a b k => Sys2Proof.Machine.execVcmpEq d a b k s
  | .vcmpNe d a b k => Sys2Proof.Machine.execVcmpNe d a b k s
  | .vcmpLt d a b k => Sys2Proof.Machine.execVcmpLt d a b k s
  | .vcmpLe d a b k => Sys2Proof.Machine.execVcmpLe d a b k s
  | .vcmpLtu d a b k => Sys2Proof.Machine.execVcmpLtu d a b k s
  | .vcmpLeu d a b k => Sys2Proof.Machine.execVcmpLeu d a b k s
  | .vfcmpEq d a b k => Sys2Proof.Machine.execVfcmpEq d a b k s
  | .vfcmpLt d a b k => Sys2Proof.Machine.execVfcmpLt d a b k s
  | .vfcmpLe d a b k => Sys2Proof.Machine.execVfcmpLe d a b k s
  | .vfcmpUn d a b k => Sys2Proof.Machine.execVfcmpUn d a b k s
  | .kand d a b => Sys2Proof.Machine.execKand d a b s
  | .kor d a b => Sys2Proof.Machine.execKor d a b s
  | .kxor d a b => Sys2Proof.Machine.execKxor d a b s
  | .kandn d a b => Sys2Proof.Machine.execKandn d a b s
  | .kmovToG d a => Sys2Proof.Machine.execKmovToG d a s
  | .kmovFromG d a => Sys2Proof.Machine.execKmovFromG d a s
  | .kpopc d a => Sys2Proof.Machine.execKpopc d a s
  | .vaddc d a b c => Sys2Proof.Machine.execVaddc d a b c s
  | .vsubb d a b c => Sys2Proof.Machine.execVsubb d a b c s
  | .vrnsf d a b k => Sys2Proof.Machine.execVrnsf d a b k s
  | .vrnsr d a b k => Sys2Proof.Machine.execVrnsr d a b k s
  | .vld v a k o => Sys2Proof.Machine.execVld v a k o s
  | .vst v a k o => Sys2Proof.Machine.execVst v a k o s
  | .vlds v a b k o => Sys2Proof.Machine.execVlds v a b k o s
  | .vsts v a b k o => Sys2Proof.Machine.execVsts v a b k o s
  | .vldx v a b k o => Sys2Proof.Machine.execVldx v a b k o s
  | .vstx v a b k o => Sys2Proof.Machine.execVstx v a b k o s
  | .vscatadd v a b k t => Sys2Proof.Machine.execVscatadd v a b k t s
  | .fmtx a b c sx r t d => Sys2Proof.Machine.execFmtx a b c sx r t d s
  | .gets d n => Sys2Proof.Machine.execGets d n s
  | .sets sx n => Sys2Proof.Machine.execSets sx n s
  | .brk c => Sys2Proof.Machine.execBrk c s
  | .send v a b n => Sys2Proof.Machine.execSend v a b n s
  | .reply v a b n => Sys2Proof.Machine.execReply v a b n s
  | .fwd a n => Sys2Proof.Machine.execFwd a n s
  | .endAct => Sys2Proof.Machine.execEndAct s
  | .defer => Sys2Proof.Machine.execDefer s
  | .tgget d f => Sys2Proof.Machine.execTgget d f s
  | .tgset a f => Sys2Proof.Machine.execTgset a f s
  | .tginc a im f => Sys2Proof.Machine.execTginc a im f s
  | .tgpush a => Sys2Proof.Machine.execTgpush a s
  | .tgpop d => Sys2Proof.Machine.execTgpop d s
  | .tgnew d => Sys2Proof.Machine.execTgnew d s
  | .qget d m n => Sys2Proof.Machine.execQget d m n s
  | .qput a m n => Sys2Proof.Machine.execQput a m n s
  | .qpoll d n => Sys2Proof.Machine.execQpoll d n s
  | .mrtn => Sys2Proof.Machine.execMrtn s
  | .cntadd a b im => Sys2Proof.Machine.execCntadd a b im s
  | .cntset a b c => Sys2Proof.Machine.execCntset a b c s
  | .cntget d a => Sys2Proof.Machine.execCntget d a s
  | .barjoin a b c => Sys2Proof.Machine.execBarjoin a b c s
  | .barval d g => Sys2Proof.Machine.execBarval d g s
  | .gldb d a o => Sys2Proof.Machine.execGldb d a o s
  | .gldbu d a o => Sys2Proof.Machine.execGldbu d a o s
  | .gldh d a o => Sys2Proof.Machine.execGldh d a o s
  | .gldhu d a o => Sys2Proof.Machine.execGldhu d a o s
  | .gldw d a o => Sys2Proof.Machine.execGldw d a o s
  | .gldwu d a o => Sys2Proof.Machine.execGldwu d a o s
  | .gldd d a o => Sys2Proof.Machine.execGldd d a o s
  | .gldv v a o => Sys2Proof.Machine.execGldv v a o s
  | .gstb sx a o => Sys2Proof.Machine.execGstb sx a o s
  | .gsth sx a o => Sys2Proof.Machine.execGsth sx a o s
  | .gstw sx a o => Sys2Proof.Machine.execGstw sx a o s
  | .gstd sx a o => Sys2Proof.Machine.execGstd sx a o s
  | .gatomAdd d a b => Sys2Proof.Machine.execGatomAdd d a b s
  | .gatomCas d a b => Sys2Proof.Machine.execGatomCas d a b s
  | .gatomSwap d a b => Sys2Proof.Machine.execGatomSwap d a b s
  | .gatomMax d a b => Sys2Proof.Machine.execGatomMax d a b s
  | .gatomMin d a b => Sys2Proof.Machine.execGatomMin d a b s
  | .gatomFxadd a b => Sys2Proof.Machine.execGatomFxadd a b s
  | .gatomFxrd d a p => Sys2Proof.Machine.execGatomFxrd d a p s
  | .acq d a b c => Sys2Proof.Machine.execAcq d a b c s
  | .rel a b => Sys2Proof.Machine.execRel a b s
  | .fenceLocal => Sys2Proof.Machine.execFenceLocal s
  | .fencePut => Sys2Proof.Machine.execFencePut s
  | .fenceDie => Sys2Proof.Machine.execFenceDie s
  | .fenceModule => Sys2Proof.Machine.execFenceModule s
  | .btld d a b => Sys2Proof.Machine.execBtld d a b s
  | .btswap d a b => Sys2Proof.Machine.execBtswap d a b s
  | .btref d a b => Sys2Proof.Machine.execBtref d a b s
  | .get t a b c => Sys2Proof.Machine.execGet t a b c s
  | .put t a b c => Sys2Proof.Machine.execPut t a b c s
  | .getx t a b c => Sys2Proof.Machine.execGetx t a b c s
  | .putx t a b c => Sys2Proof.Machine.execPutx t a b c s
  | .ratomAdd t a b => Sys2Proof.Machine.execRatomAdd t a b s
  | .ratomCas t a b => Sys2Proof.Machine.execRatomCas t a b s
  | .ratomSwap t a b => Sys2Proof.Machine.execRatomSwap t a b s
  | .ratomMax t a b => Sys2Proof.Machine.execRatomMax t a b s
  | .ratomMin t a b => Sys2Proof.Machine.execRatomMin t a b s
  | .ratomFxadd t a b => Sys2Proof.Machine.execRatomFxadd t a b s
  | .ratomFxrd t a b => Sys2Proof.Machine.execRatomFxrd t a b s
  | .ratomSubst t a b => Sys2Proof.Machine.execRatomSubst t a b s
  | .give a o => Sys2Proof.Machine.execGive a o s
  | .take a => Sys2Proof.Machine.execTake a s
  | .ttest d a => Sys2Proof.Machine.execTtest d a s
  | .mmrun t a b => Sys2Proof.Machine.execMmrun t a b s
  | .mmstat d => Sys2Proof.Machine.execMmstat d s
  | .slotld a b => Sys2Proof.Machine.execSlotld a b s
  | .sego t a b => Sys2Proof.Machine.execSego t a b s
  | .sestat d a => Sys2Proof.Machine.execSestat d a s
  | .sacp t a b c => Sys2Proof.Machine.execSacp t a b c s
  | .sacc t a b c => Sys2Proof.Machine.execSacc t a b c s
  | .tret d a b => Sys2Proof.Machine.execTret d a b s
  | .tlbwr d a b => Sys2Proof.Machine.execTlbwr d a b s
  | .tlbinv d a b => Sys2Proof.Machine.execTlbinv d a b s
  | .domkill a => Sys2Proof.Machine.execDomkill a s
  | .colkill a => Sys2Proof.Machine.execColkill a s
  | .gangsw d a b => Sys2Proof.Machine.execGangsw d a b s
  | .logctl d a b => Sys2Proof.Machine.execLogctl d a b s
  | .halt a => Sys2Proof.Machine.execHalt a s
  | .loopb k r a => Sys2Proof.Machine.execLoopb k r a s
  | .colourAllocatorAnswer t c => Sys2Proof.Machine.execColourAllocatorAnswer t c s
  | .storeQueuePerform t c => Sys2Proof.Machine.execStoreQueuePerform t c s
  | .messageArrival t cls => Sys2Proof.Machine.execMessageArrival t cls s
  | .voteTimeout t im => Sys2Proof.Machine.execVoteTimeout t im s
  | .spillRefill t q => Sys2Proof.Machine.execSpillRefill t q s
  | .matchOverflowService t => Sys2Proof.Machine.execMatchOverflowService t s
  | .timerTick t => Sys2Proof.Machine.execTimerTick t s
  | .dispatch t => Sys2Proof.Machine.execDispatch t s
  | .barrierJoinArrival t => Sys2Proof.Machine.execBarrierJoinArrival t s
  | .barrierCompletion t => Sys2Proof.Machine.execBarrierCompletion t s
  | .translationRequest t c => Sys2Proof.Machine.execTranslationRequest t c s
  | .tlbFill t entry => Sys2Proof.Machine.execTlbFill t entry s
  | .tlbFaultAnswer t va prot => Sys2Proof.Machine.execTlbFaultAnswer t va prot s
  | .dupCollapse t c => Sys2Proof.Machine.execDupCollapse t c s
  | .copyOnWrite t c => Sys2Proof.Machine.execCopyOnWrite t c s
  | .btCopyOnWrite t c => Sys2Proof.Machine.execBtCopyOnWrite t c s
  | .rmaPortOperation t => Sys2Proof.Machine.execRmaPortOperation t s
  | .rmaCompletion t n => Sys2Proof.Machine.execRmaCompletion t n s
  | .mmrunAccept t => Sys2Proof.Machine.execMmrunAccept t s
  | .marimbaBlockAccumulate t => Sys2Proof.Machine.execMarimbaBlockAccumulate t s
  | .marimbaRunComplete t => Sys2Proof.Machine.execMarimbaRunComplete t s
  | .streamProgramStart t => Sys2Proof.Machine.execStreamProgramStart t s
  | .streamProgramEnd e => Sys2Proof.Machine.execStreamProgramEnd e s
  | .sacAccept t => Sys2Proof.Machine.execSacAccept t s
  | .sacComplete t => Sys2Proof.Machine.execSacComplete t s
  | .slotPhaseSwitch t => Sys2Proof.Machine.execSlotPhaseSwitch t s
  | .trapDelivery t c => Sys2Proof.Machine.execTrapDelivery t c s
  | .serviceVerdict t => Sys2Proof.Machine.execServiceVerdict t s
  | .doubleFault t => Sys2Proof.Machine.execDoubleFault t s
  | .uncorrectableError u => Sys2Proof.Machine.execUncorrectableError u s
  | .correctedError e => Sys2Proof.Machine.execCorrectedError e s
  | .colourKillArrival t dom col cause start => Sys2Proof.Machine.execColourKillArrival t dom col cause start s
  | .colourReclaimSweep dom => Sys2Proof.Machine.execColourReclaimSweep dom s
  | .domainKill dom cause => Sys2Proof.Machine.execDomainKill dom cause s
  | .channelRemap t u => Sys2Proof.Machine.execChannelRemap t u s
  | .dieViral d => Sys2Proof.Machine.execDieViral d s
  | .dieFence d => Sys2Proof.Machine.execDieFence d s
  | .dieResetInPlace d b => Sys2Proof.Machine.execDieResetInPlace d b s
  | .gongStop dom => Sys2Proof.Machine.execGongStop dom s
  | .gangSwitch dom => Sys2Proof.Machine.execGangSwitch dom s
  | .gangResume dom => Sys2Proof.Machine.execGangResume dom s
  | .linkUp x => Sys2Proof.Machine.execLinkUp x s
  | .forzenFrame port good => Sys2Proof.Machine.execForzenFrame port good s
  | .linkRetrain port x4 => Sys2Proof.Machine.execLinkRetrain port x4 s
  | .pathDown m => Sys2Proof.Machine.execPathDown m s
  | .dropNotice n => Sys2Proof.Machine.execDropNotice n s
  | .reservationGrant m start rate => Sys2Proof.Machine.execReservationGrant m start rate s
  | .multicastStore g off data => Sys2Proof.Machine.execMulticastStore g off data s
  | .federatedColourKill dom col cause start => Sys2Proof.Machine.execFederatedColourKill dom col cause start s
  | .federationModuleLoss dom m => Sys2Proof.Machine.execFederationModuleLoss dom m s
  | .launchRecord f r => Sys2Proof.Machine.execLaunchRecord f r s
  | .hostReturnRecord => Sys2Proof.Machine.execHostReturnRecord s
  | .rsizeWrite f v => Sys2Proof.Machine.execRsizeWrite f v s
  | .rlostWrite f => Sys2Proof.Machine.execRlostWrite f s
  | .debugStop f => Sys2Proof.Machine.execDebugStop f s
  | .debugResume f => Sys2Proof.Machine.execDebugResume f s
  | .debugKill f => Sys2Proof.Machine.execDebugKill f s
  | .hostRegisterWrite f off v => Sys2Proof.Machine.execHostRegisterWrite f off v s
  | .readConfig => Sys2Proof.Machine.execReadConfig s
  | .setMod m => Sys2Proof.Machine.execSetMod m s
  | .bindFn f dom => Sys2Proof.Machine.execBindFn f dom s
  | .setKeys dom keys req => Sys2Proof.Machine.execSetKeys dom keys req s
  | .quote nonce => Sys2Proof.Machine.execQuote nonce s
  | .readCert => Sys2Proof.Machine.execReadCert s
  | .readLifetime => Sys2Proof.Machine.execReadLifetime s
  | .setCap kw => Sys2Proof.Machine.execSetCap kw s
  | .containerLoad f dom z => Sys2Proof.Machine.execContainerLoad f dom z s
  | .moduleReset boots => Sys2Proof.Machine.execModuleReset boots s
  | .avsWindowEnd d temp thresholds => Sys2Proof.Machine.execAvsWindowEnd d temp thresholds s
  | .powerCapStep watts => Sys2Proof.Machine.execPowerCapStep watts s
  | .lifetimeCommit down failed => Sys2Proof.Machine.execLifetimeCommit down failed s
  | .notAnInstruction w => Sys2Proof.Machine.execNotAnInstruction w s
  | .instructionFetch => Sys2Proof.Machine.execInstructionFetch s
  | .pendingWrite t => Sys2Proof.Machine.execPendingWrite t s
  | .globalAnswerReturn t c => Sys2Proof.Machine.execGlobalAnswerReturn t c s
  | .btServiceAnswer t c => Sys2Proof.Machine.execBtServiceAnswer t c s
  | .engineAnswer t c => Sys2Proof.Machine.execEngineAnswer t c s
  | .gongRootAnswer t c => Sys2Proof.Machine.execGongRootAnswer t c s
  | .packetHop n => Sys2Proof.Machine.execPacketHop n s
  | .reservationIdle m => Sys2Proof.Machine.execReservationIdle m s
  | .linkFailure x => Sys2Proof.Machine.execLinkFailure x s
  | .stackFailure sx => Sys2Proof.Machine.execStackFailure sx s
  | .multicastGroupRegistration g root dom base size members => Sys2Proof.Machine.execMulticastGroupRegistration g root dom base size members s
  | .federationRegistration dom mods => Sys2Proof.Machine.execFederationRegistration dom mods s
  | .jobLeaves dom => Sys2Proof.Machine.execJobLeaves dom s
  | .singleTileReplay t dom => Sys2Proof.Machine.execSingleTileReplay t dom s

end Sys2Proof.Machine
end

