-- ==== Sys2Proof/Machine/Operands.lean ====
section
/-! DEFINITION. The operands of each instruction: the registers it reads and those it writes, as the scoreboard sees them
(01: R26; 04: R89; 05: R115; 13: R287, R336). -/

namespace Sys2Proof.Machine

/-- The predicate register a 5-bit field names, if any (R114). -/
def kregDst (r : Reg) : List Dst := if r.toNat < 8 then [.k (r.setWidth 3)] else []

/-- The side field a special-register number names, if any (R14: VX0 to VX31 are 0x080 to 0x09F). -/
def spDst (n : BitVec 12) : List Dst := if 0x080 ≤ n.toNat ∧ n.toNat ≤ 0x09F then [.vx (BitVec.ofNat 5 (n.toNat - 0x080))] else []

/-- The registers an instruction reads (R89). TTEST reads its token register without waiting for it (R336). -/
def srcs (i : Instr) : List Dst :=
  match i with
  | .add _ a b | .sub _ a b | .and _ a b | .or _ a b | .xor _ a b | .sll _ a b | .srl _ a b | .sra _ a b | .slt _ a b | .sltu _ a b
  | .min _ a b | .max _ a b | .addw _ a b | .subw _ a b | .mul _ a b | .mulh _ a b | .mulhu _ a b | .div _ a b | .divu _ a b | .rem _ a b
  | .remu _ a b | .beq a b _ | .bne a b _ | .blt a b _ | .bge a b _ | .bltu a b _ | .bgeu a b _ | .fadd _ a b _ | .fsub _ a b _
  | .fmul _ a b _ | .fdiv _ a b _ | .fmin _ a b _ | .fmax _ a b _ | .feq _ a b _ | .flt _ a b _ | .fle _ a b _ | .cntadd a b _
  | .gatomAdd _ a b | .gatomSwap _ a b | .gatomMax _ a b | .gatomMin _ a b | .gatomFxadd a b | .rel a b | .btld _ a b | .btswap _ a b
  | .ratomAdd _ a b | .ratomCas _ a b | .ratomSwap _ a b | .ratomMax _ a b | .ratomMin _ a b | .ratomFxadd _ a b | .ratomFxrd _ a b
  | .ratomSubst _ a b | .mmrun _ a b | .slotld a b | .sego _ a b | .tret _ a b | .tlbwr _ a b | .tlbinv _ a b | .gangsw _ a b
  | .logctl _ a b => [.g a, .g b]
  | .clz _ a | .ctz _ a | .popc _ a | .brev _ a | .bswap _ a | .addi _ a _ | .andi _ a _ | .ori _ a _ | .xori _ a _ | .slti _ a _
  | .slli _ a _ | .srli _ a _ | .srai _ a _ | .exts _ a _ _ | .extz _ a _ _ | .jr a | .callr a | .ldb _ a _ | .ldbu _ a _ | .ldh _ a _
  | .ldhu _ a _ | .ldw _ a _ | .ldwu _ a _ | .ldd _ a _ | .fsqrt _ a _ | .fclass _ a _ | .fcvtSD _ a | .fcvtDS _ a | .fcvtWS _ a
  | .fcvtSW _ a | .fcvtLD _ a | .fcvtDL _ a | .kmovFromG _ a | .fwd a _ | .tgset a _ | .tginc a _ _ | .tgpush a | .qput a _ _ | .cntget _ a
  | .gldb _ a _ | .gldbu _ a _ | .gldh _ a _ | .gldhu _ a _ | .gldw _ a _ | .gldwu _ a _ | .gldd _ a _ | .gldv _ a _ | .gatomFxrd _ a _
  | .give a _ | .take a | .sestat _ a | .domkill a | .colkill a | .halt a | .loopb _ _ a => [.g a]
  | .ins d a _ _ => [.g a, .g d]
  | .lim d _ => [.g d]
  | .sel _ a b c | .fmadd _ a b c _ | .fmsub _ a b c _ | .fnmadd _ a b c _ | .cntset a b c | .barjoin a b c | .acq _ a b c | .get _ a b c
  | .put _ a b c | .getx _ a b c | .putx _ a b c | .sacp _ a b c | .sacc _ a b c => [.g a, .g b, .g c]
  | .stb s a _ | .sth s a _ | .stw s a _ | .std s a _ | .gstb s a _ | .gsth s a _ | .gstw s a _ | .gstd s a _ => [.g s, .g a]
  | .vadd d a b k _ x | .vsub d a b k _ x | .vmul d a b k _ x | .vmulh d a b k _ x | .vand d a b k _ x | .vor d a b k _ x
  | .vxor d a b k _ x | .vshl d a b k _ x | .vshr d a b k _ x | .vsar d a b k _ x | .vmin d a b k _ x | .vmax d a b k _ x
  | .vfadd d a b k _ x | .vfsub d a b k _ x | .vfmul d a b k _ x | .vfmin d a b k _ x | .vfmax d a b k _ x => [.v a] ++ (if x then [.g b] else [.v b]) ++ [.k k, .v d]
  | .vfexp2 d a k _ | .vflog2 d a k _ | .vfrcp d a k _ | .vfrsq d a k _ | .vcvt d a _ _ k | .vscan d a k _ | .vslide d a _ k => [.v a, .k k, .v d]
  | .vfma d a b c k | .vfms d a b c k | .vfnma d a b c k => [.v a, .v b, .v c, .k k, .v d]
  | .vqblk d a _ k => [.v a, .k k, .v d, .vx d]
  | .vdqblk d a _ _ k => [.v a, .vx a, .k k, .v d]
  | .vrsum _ a k _ | .vrmax _ a k _ | .vrmin _ a k _ => [.v a, .k k]
  | .vbcast d a _ _ k => [.g a, .k k, .v d]
  | .vextr _ a b _ => [.v a, .g b]
  | .vins d a b _ => [.g a, .g b, .v d]
  | .vperm d a b k => [.v a, .v b, .k k, .v d]
  | .vsel _ a b k | .vcmpEq _ a b k | .vcmpNe _ a b k | .vcmpLt _ a b k | .vcmpLe _ a b k | .vcmpLtu _ a b k | .vcmpLeu _ a b k
  | .vfcmpEq _ a b k | .vfcmpLt _ a b k | .vfcmpLe _ a b k | .vfcmpUn _ a b k => [.v a, .v b, .k k]
  | .kand _ a b | .kor _ a b | .kxor _ a b | .kandn _ a b => kregDst a ++ kregDst b
  | .kmovToG _ a | .kpopc _ a => kregDst a
  | .vaddc _ a b c | .vsubb _ a b c => [.v a, .v b, .k c]
  | .vrnsf d a b k => [.v a, .g b, .k k, .v d]
  | .vrnsr d a b k => [.v a, .v b, .k k, .v d, .v (d + 1)]
  | .vld v a k _ => [.g a, .k k, .v v]
  | .vst v a k _ => [.v v, .g a, .k k]
  | .vlds v a b k _ => [.g a, .g b, .k k, .v v]
  | .vsts v a b k _ => [.v v, .g a, .g b, .k k]
  | .vldx v a b k _ => [.g a, .v b, .k k, .v v]
  | .vstx v a b k _ | .vscatadd v a b k _ => [.v v, .g a, .v b, .k k]
  | .gets _ n => spDst n
  | .sets s _ => [.g s]
  | .send v a b _ | .reply v a b _ => [.g a] ++ (if v then [.v b] else [.g b])
  | .gatomCas d a b | .btref d a b => [.g a, .g b, .g d]
  | .li _ _ | .addpc _ _ | .j _ | .call _ | .fmtx _ _ _ _ _ _ _ | .brk _ | .endAct | .defer | .tgget _ _ | .tgpop _ | .tgnew _
  | .qget _ _ _ | .qpoll _ _ | .mrtn | .barval _ _ | .fenceLocal | .fencePut | .fenceDie | .fenceModule | .ttest _ _ | .mmstat _
  | .colourAllocatorAnswer _ _ | .storeQueuePerform _ _ | .messageArrival _ _ | .voteTimeout _ _ | .spillRefill _ _
  | .matchOverflowService _ | .timerTick _ | .dispatch _ | .barrierJoinArrival _ | .barrierCompletion _ | .translationRequest _ _
  | .tlbFill _ _ | .tlbFaultAnswer _ _ _ | .dupCollapse _ _ | .copyOnWrite _ _ | .btCopyOnWrite _ _ | .rmaPortOperation _
  | .rmaCompletion _ _ | .mmrunAccept _ | .marimbaBlockAccumulate _ | .marimbaRunComplete _ | .streamProgramStart _ | .streamProgramEnd _
  | .sacAccept _ | .sacComplete _ | .slotPhaseSwitch _ | .trapDelivery _ _ | .serviceVerdict _ | .doubleFault _ | .uncorrectableError _
  | .correctedError _ | .colourKillArrival _ _ _ _ _ | .colourReclaimSweep _ | .domainKill _ _ | .channelRemap _ _ | .dieViral _
  | .dieFence _ | .dieResetInPlace _ _ | .gongStop _ | .gangSwitch _ | .gangResume _ | .linkUp _ | .forzenFrame _ _ | .linkRetrain _ _
  | .pathDown _ | .dropNotice _ | .reservationGrant _ _ _ | .multicastStore _ _ _ | .federatedColourKill _ _ _ _
  | .federationModuleLoss _ _ | .launchRecord _ _ | .hostReturnRecord | .rsizeWrite _ _ | .rlostWrite _ | .debugStop _ | .debugResume _
  | .debugKill _ | .hostRegisterWrite _ _ _ | .readConfig | .setMod _ | .bindFn _ _ | .setKeys _ _ _ | .quote _ | .readCert | .readLifetime
  | .setCap _ | .containerLoad _ _ _ | .moduleReset _ | .avsWindowEnd _ _ _ | .powerCapStep _ | .lifetimeCommit _ _ | .notAnInstruction _
  | .instructionFetch | .pendingWrite _ | .globalAnswerReturn _ _ | .btServiceAnswer _ _ | .engineAnswer _ _ | .gongRootAnswer _ _
  | .packetHop _ | .reservationIdle _ | .linkFailure _ | .stackFailure _ | .multicastGroupRegistration _ _ _ _ _ _
  | .federationRegistration _ _ | .jobLeaves _ | .singleTileReplay _ _ => []

/-- The registers an instruction writes (R89, R287). -/
def dsts (i : Instr) : List Dst :=
  match i with
  | .add d _ _ | .sub d _ _ | .and d _ _ | .or d _ _ | .xor d _ _ | .sll d _ _ | .srl d _ _ | .sra d _ _ | .slt d _ _ | .sltu d _ _
  | .min d _ _ | .max d _ _ | .addw d _ _ | .subw d _ _ | .mul d _ _ | .mulh d _ _ | .mulhu d _ _ | .div d _ _ | .divu d _ _ | .rem d _ _
  | .remu d _ _ | .clz d _ | .ctz d _ | .popc d _ | .brev d _ | .bswap d _ | .addi d _ _ | .andi d _ _ | .ori d _ _ | .xori d _ _
  | .slti d _ _ | .slli d _ _ | .srli d _ _ | .srai d _ _ | .exts d _ _ _ | .extz d _ _ _ | .ins d _ _ _ | .li d _ | .lim d _ | .addpc d _
  | .sel d _ _ _ | .ldb d _ _ | .ldbu d _ _ | .ldh d _ _ | .ldhu d _ _ | .ldw d _ _ | .ldwu d _ _ | .ldd d _ _ | .fadd d _ _ _
  | .fsub d _ _ _ | .fmul d _ _ _ | .fdiv d _ _ _ | .fsqrt d _ _ | .fmin d _ _ _ | .fmax d _ _ _ | .feq d _ _ _ | .flt d _ _ _
  | .fle d _ _ _ | .fclass d _ _ | .fcvtSD d _ | .fcvtDS d _ | .fcvtWS d _ | .fcvtSW d _ | .fcvtLD d _ | .fcvtDL d _ | .fmadd d _ _ _ _
  | .fmsub d _ _ _ _ | .fnmadd d _ _ _ _ | .vrsum d _ _ _ | .vrmax d _ _ _ | .vrmin d _ _ _ | .vextr d _ _ _ | .kmovToG d _ | .kpopc d _
  | .gets d _ | .tgget d _ | .tgpop d | .tgnew d | .qpoll d _ | .cntget d _ | .barval d _ | .gldb d _ _ | .gldbu d _ _ | .gldh d _ _
  | .gldhu d _ _ | .gldw d _ _ | .gldwu d _ _ | .gldd d _ _ | .gatomAdd d _ _ | .gatomCas d _ _ | .gatomSwap d _ _ | .gatomMax d _ _
  | .gatomMin d _ _ | .gatomFxrd d _ _ | .acq d _ _ _ | .btld d _ _ | .btswap d _ _ | .btref d _ _ | .ttest d _ | .mmstat d | .sestat d _
  | .tret d _ _ | .tlbwr d _ _ | .tlbinv d _ _ | .gangsw d _ _ | .logctl d _ _ => [.g d]
  | .call _ | .callr _ => [.g 31]
  | .vadd d _ _ _ _ _ | .vsub d _ _ _ _ _ | .vmul d _ _ _ _ _ | .vmulh d _ _ _ _ _ | .vand d _ _ _ _ _ | .vor d _ _ _ _ _
  | .vxor d _ _ _ _ _ | .vshl d _ _ _ _ _ | .vshr d _ _ _ _ _ | .vsar d _ _ _ _ _ | .vmin d _ _ _ _ _ | .vmax d _ _ _ _ _
  | .vfadd d _ _ _ _ _ | .vfsub d _ _ _ _ _ | .vfmul d _ _ _ _ _ | .vfmin d _ _ _ _ _ | .vfmax d _ _ _ _ _ | .vfexp2 d _ _ _
  | .vflog2 d _ _ _ | .vfrcp d _ _ _ | .vfrsq d _ _ _ | .vfma d _ _ _ _ | .vfms d _ _ _ _ | .vfnma d _ _ _ _ | .vcvt d _ _ _ _
  | .vdqblk d _ _ _ _ | .vscan d _ _ _ | .vbcast d _ _ _ _ | .vins d _ _ _ | .vperm d _ _ _ | .vslide d _ _ _ | .vsel d _ _ _
  | .vrnsf d _ _ _ => [.v d]
  | .vqblk d _ _ _ => [.v d, .vx d]
  | .vcmpEq d _ _ _ | .vcmpNe d _ _ _ | .vcmpLt d _ _ _ | .vcmpLe d _ _ _ | .vcmpLtu d _ _ _ | .vcmpLeu d _ _ _ | .vfcmpEq d _ _ _
  | .vfcmpLt d _ _ _ | .vfcmpLe d _ _ _ | .vfcmpUn d _ _ _ | .kand d _ _ | .kor d _ _ | .kxor d _ _ | .kandn d _ _ | .kmovFromG d _ => kregDst d
  | .vaddc d _ _ c | .vsubb d _ _ c => [.v d, .k c]
  | .vrnsr d _ _ _ => [.v d, .v (d + 1)]
  | .vld v _ _ _ | .vlds v _ _ _ _ | .vldx v _ _ _ _ | .gldv v _ _ => [.v v]
  | .sets _ n => spDst n
  | .qget d m _ => [.g d, .g m]
  | .get t _ _ _ | .put t _ _ _ | .getx t _ _ _ | .putx t _ _ _ | .ratomAdd t _ _ | .ratomCas t _ _ | .ratomSwap t _ _ | .ratomMax t _ _
  | .ratomMin t _ _ | .ratomFxadd t _ _ | .ratomFxrd t _ _ | .ratomSubst t _ _ | .mmrun t _ _ | .sego t _ _ | .sacp t _ _ _ | .sacc t _ _ _ => [.g t]
  | .beq _ _ _ | .bne _ _ _ | .blt _ _ _ | .bge _ _ _ | .bltu _ _ _ | .bgeu _ _ _ | .j _ | .jr _ | .stb _ _ _ | .sth _ _ _ | .stw _ _ _
  | .std _ _ _ | .vst _ _ _ _ | .vsts _ _ _ _ _ | .vstx _ _ _ _ _ | .vscatadd _ _ _ _ _ | .fmtx _ _ _ _ _ _ _ | .brk _ | .send _ _ _ _
  | .reply _ _ _ _ | .fwd _ _ | .endAct | .defer | .tgset _ _ | .tginc _ _ _ | .tgpush _ | .qput _ _ _ | .mrtn | .cntadd _ _ _
  | .cntset _ _ _ | .barjoin _ _ _ | .gstb _ _ _ | .gsth _ _ _ | .gstw _ _ _ | .gstd _ _ _ | .gatomFxadd _ _ | .rel _ _ | .fenceLocal
  | .fencePut | .fenceDie | .fenceModule | .give _ _ | .take _ | .slotld _ _ | .domkill _ | .colkill _ | .halt _ | .loopb _ _ _
  | .colourAllocatorAnswer _ _ | .storeQueuePerform _ _ | .messageArrival _ _ | .voteTimeout _ _ | .spillRefill _ _
  | .matchOverflowService _ | .timerTick _ | .dispatch _ | .barrierJoinArrival _ | .barrierCompletion _ | .translationRequest _ _
  | .tlbFill _ _ | .tlbFaultAnswer _ _ _ | .dupCollapse _ _ | .copyOnWrite _ _ | .btCopyOnWrite _ _ | .rmaPortOperation _
  | .rmaCompletion _ _ | .mmrunAccept _ | .marimbaBlockAccumulate _ | .marimbaRunComplete _ | .streamProgramStart _ | .streamProgramEnd _
  | .sacAccept _ | .sacComplete _ | .slotPhaseSwitch _ | .trapDelivery _ _ | .serviceVerdict _ | .doubleFault _ | .uncorrectableError _
  | .correctedError _ | .colourKillArrival _ _ _ _ _ | .colourReclaimSweep _ | .domainKill _ _ | .channelRemap _ _ | .dieViral _
  | .dieFence _ | .dieResetInPlace _ _ | .gongStop _ | .gangSwitch _ | .gangResume _ | .linkUp _ | .forzenFrame _ _ | .linkRetrain _ _
  | .pathDown _ | .dropNotice _ | .reservationGrant _ _ _ | .multicastStore _ _ _ | .federatedColourKill _ _ _ _
  | .federationModuleLoss _ _ | .launchRecord _ _ | .hostReturnRecord | .rsizeWrite _ _ | .rlostWrite _ | .debugStop _ | .debugResume _
  | .debugKill _ | .hostRegisterWrite _ _ _ | .readConfig | .setMod _ | .bindFn _ _ | .setKeys _ _ _ | .quote _ | .readCert | .readLifetime
  | .setCap _ | .containerLoad _ _ _ | .moduleReset _ | .avsWindowEnd _ _ _ | .powerCapStep _ | .lifetimeCommit _ _ | .notAnInstruction _
  | .instructionFetch | .pendingWrite _ | .globalAnswerReturn _ _ | .btServiceAnswer _ _ | .engineAnswer _ _ | .gongRootAnswer _ _
  | .packetHop _ | .reservationIdle _ | .linkFailure _ | .stackFailure _ | .multicastGroupRegistration _ _ _ _ _ _
  | .federationRegistration _ _ | .jobLeaves _ | .singleTileReplay _ _ => []

/-- Whether the scoreboard holds an instruction of a context: it reads or writes a register with a pending write (R89, R115). -/
def Ctx.held (k : Ctx) (i : Instr) : Bool := (srcs i ++ dsts i).any fun d => !d.isNull && k.pending d

/-- The registers for which it holds it. -/
def Ctx.holds (k : Ctx) (i : Instr) : List Dst := (srcs i ++ dsts i).filter fun d => !d.isNull && k.pending d

end Sys2Proof.Machine
end

