-- ==== Sys2Proof/Machine/Issue.lean ====
section
/-! DEFINITION. A beat and the turns of the tiles in it (01: R23 to R26; 06: R166, R172; log 4, 5, 10, 36): which pending steps may happen
now, what opens the beat, which contexts may issue and in which order, and the end of the beat. -/

namespace Sys2Proof.Machine

/-! ### Pending steps -/

/-- When in its beat a pending step happens.  What an engine or a frame of another module does to a counter comes after the arrivals of the
beat and before its issue (R172), and so does the acceptance of a run, whose PHASE selects after the switches of that beat (R342); a barrier
completion comes after the TIMER ticks (R205).  DESIGN CHOICE (log 36): every other one comes before the openings of the beat. -/
def whenOf : Event → BeatPhase
  | .rmaPortOperation _ => .engines
  | .streamProgramEnd _ => .engines
  | .forzenFrame _ _ => .engines
  | .mmrunAccept _ => .engines
  | .barrierCompletion _ => .close
  | _ => .start

/-- What comes in an order that is kept: what the host writes, the launch records of a function (R441) and, as 64, the commands of the mailbox
(R448); and, from 65 on, the stores of a multicast group that another module's root has sequenced (R264). -/
def State.channel (s : State) : Event → Option Nat
  | .launchRecord f _ => some f
  | .multicastStore g _ _ => if s.groups.any fun r => r.g == g && r.root != s.modNo then some (65 + g) else none
  | .readConfig => some 64
  | .setMod _ => some 64
  | .bindFn _ _ => some 64
  | .setKeys _ _ _ => some 64
  | .quote _ => some 64
  | .readCert => some 64
  | .readLifetime => some 64
  | .setCap _ => some 64
  | _ => none

/-- Whether a pending step is the first of its channel, and its agent can take it: a launch queue with room, a management controller that
runs. -/
def State.inOrder (s : State) (e : Event) (i : Nat) : Bool :=
  match s.channel e with
  | none => true
  | some c => !(s.later.take i).any (s.channel · == some c)
      && if 64 < c then true else if c = 64 then s.identity.isSome else decide ((s.fn c).queue.length < 64)

/-- The pending steps that may happen now: places of `later`, and before the openings of the beat, hops of the packets in the networks. -/
def State.ready (s : State) : List (Nat ⊕ Nat) :=
  ((s.later.zipIdx.filter fun (e, i) => whenOf e == s.phase && s.inOrder e i).map fun (_, i) => Sum.inl i)
    ++ (if s.phase = .start then (List.range s.net.length).map Sum.inr else [])

/-- Whether a tile address names a tile of a compute die. -/
def isTile (t : Nat) : Bool := decide (t < 24576)

/-- Whether a unit names places the package has. -/
def unitInRange : ErrUnit → Bool
  | .queueSlot t _ _ => isTile t
  | .matchEntry t _ => isTile t
  | .counter t _ => isTile t
  | .context t c => isTile t && decide (c < 6)
  | .fifoEntry t _ _ => isTile t
  | .flit _ => true
  | .streamState e _ => decide (e < 256)
  | .sequencer t _ => isTile t
  | .sacOperation t => isTile t
  | .killEntry t _ => isTile t
  | .barval t => isTile t
  | .paneRecord t p => isTile t && decide (p < 128)
  | .paneData t a => isTile t && decide (a < 0x80000)
  | .cacheDirty d _ => decide (d < 24)
  | .cacheClean d _ => decide (d < 24)
  | .tlbEntry t _ => isTile t
  | .handlerEntry t _ => isTile t
  | .memoryData pa => decide (pa < 2 ^ 52)
  | .sState t => isTile t
  | .serviceBuffer t => isTile t
  | .dieState d => decide (d < 28)
  | .spillEntry t q _ => isTile t && decide (q < 16)
  | .areaEntry t _ => isTile t
  | .fabricFrame p _ => decide (p < 32)
  | .saved d u => decide (d < 4096) && unitInRange u
  | .damagedCol d => decide (d < 4096)

/-- Whether a target names a die, a function or a module the package can have. -/
def targetInRange : LinkTarget → Bool
  | .edgeDie d => decide (24 ≤ d) && decide (d < 28)
  | .hostFn f => decide (f < 64)
  | .remote m => decide (m < 512)

/-- Whether a pending step names tiles, contexts, dies, engines, functions, ports and modules the package has. -/
def eventInRange : Event → Bool
  | .colourAllocatorAnswer t c => isTile t && decide (c < 6)
  | .storeQueuePerform t c => isTile t && decide (c < 6)
  | .messageArrival t _ => isTile t
  | .voteTimeout t _ => isTile t
  | .spillRefill t q => isTile t && decide (q < 16)
  | .matchOverflowService t => isTile t
  | .timerTick t => isTile t
  | .dispatch t => isTile t
  | .barrierJoinArrival t => isTile t
  | .barrierCompletion t => isTile t
  | .translationRequest t c => isTile t && decide (c < 6)
  | .tlbFill t _ => isTile t
  | .tlbFaultAnswer t _ _ => isTile t
  | .dupCollapse t c => isTile t && decide (c < 6)
  | .copyOnWrite t c => isTile t && decide (c < 6)
  | .btCopyOnWrite t c => isTile t && decide (c < 6)
  | .rmaPortOperation t => isTile t
  | .rmaCompletion t _ => isTile t
  | .mmrunAccept t => isTile t
  | .marimbaBlockAccumulate t => isTile t
  | .marimbaRunComplete t => isTile t
  | .streamProgramStart t => isTile t
  | .streamProgramEnd e => decide (e < 256)
  | .sacAccept t => isTile t
  | .sacComplete t => isTile t
  | .slotPhaseSwitch t => isTile t
  | .trapDelivery t c => isTile t && decide (c < 5)
  | .serviceVerdict t => isTile t
  | .doubleFault t => isTile t
  | .uncorrectableError u => unitInRange u
  | .correctedError e => decide (e.die < 28) && decide (e.cls < 8)
  | .colourKillArrival t _ _ _ _ => isTile t
  | .colourReclaimSweep d => decide (d < 4096)
  | .domainKill d _ => decide (d < 4096)
  | .channelRemap t _ => isTile t
  | .dieViral d => decide (d < 28)
  | .dieFence d => decide (d < 28)
  | .dieResetInPlace d _ => decide (d < 28)
  | .gongStop d => decide (d < 4096)
  | .gangSwitch d => decide (d < 4096)
  | .gangResume d => decide (d < 4096)
  | .linkUp x => targetInRange x
  | .forzenFrame p _ => decide (p < 32)
  | .linkRetrain p _ => decide (p < 32)
  | .pathDown m => decide (m < 512)
  | .dropNotice _ => true
  | .reservationGrant m _ _ => decide (m < 512)
  | .multicastStore g _ _ => decide (g < 256)
  | .federatedColourKill d _ _ _ => decide (d < 4096)
  | .federationModuleLoss d m => decide (d < 4096) && decide (m < 512)
  | .launchRecord f _ => decide (f < 64)
  | .hostReturnRecord => true
  | .rsizeWrite f _ => decide (f < 64)
  | .rlostWrite f => decide (f < 64)
  | .debugStop f => decide (f < 64)
  | .debugResume f => decide (f < 64)
  | .debugKill f => decide (f < 64)
  | .hostRegisterWrite f _ _ => decide (f < 64)
  | .readConfig => true
  | .setMod _ => true
  | .bindFn f _ => decide (f < 64)
  | .setKeys d _ _ => decide (d < 4096)
  | .quote _ => true
  | .readCert => true
  | .readLifetime => true
  | .setCap _ => true
  | .containerLoad f d _ => decide (f < 64) && decide (d < 4096)
  | .moduleReset _ => true
  | .avsWindowEnd d _ _ => decide (d < 28)
  | .powerCapStep _ => true
  | .lifetimeCommit _ _ => true
  | .pendingWrite t => isTile t
  | .globalAnswerReturn t c => isTile t && decide (c < 6)
  | .btServiceAnswer t c => isTile t && decide (c < 6)
  | .engineAnswer t c => isTile t && decide (c < 6)
  | .gongRootAnswer t c => isTile t && decide (c < 6)
  | .packetHop _ => true
  | .reservationIdle m => decide (m < 512)
  | .linkFailure x => targetInRange x
  | .stackFailure k => decide (k < 16)
  | .multicastGroupRegistration g _ _ _ _ _ => decide (g < 256)
  | .federationRegistration d _ => decide (d < 4096)
  | .jobLeaves d => decide (d < 4096)
  | .singleTileReplay t d => isTile t && decide (d < 4096)

/-! ### The opening of a beat -/

/-- A line that a die cache may evict before the accesses of the beat (R235, R236; log 6): whether and which is free. -/
def State.evictSome (s : State) : State :=
  if s.caches = [] then s
  else if !Config.evict s.fv then { s with fv := s.fv + 1 }
  else
    let s' := { s with fv := s.fv + 1 }
    match s.caches[Config.pick s.fv % s.caches.length]? with
    | some l => s'.flushLine l.die l.line
    | none => s'

/-- Whether a context of a tile has a pending write that is due. -/
def Tile.writeDue (x : Tile) (beat : Nat) : Bool :=
  x.ctxs.toList.any fun k => k.pend.any fun p => p.val.isSome && decide (p.due ≤ beat)

/-- What the sequencer of a tile does in a beat (R309, R311, R313). -/
def Tile.marimbaDue (x : Tile) (t beat : Nat) : List Event :=
  match x.running with
  | none => []
  | some r =>
    (if r.endsKilled beat || (decide (r.prog < r.blocks) && r.blockBeat r.prog == beat) then [.marimbaBlockAccumulate t] else [])
      ++ (if r.tokenBeat == beat then [.marimbaRunComplete t] else [])

/-- What opens a beat on tile `t`: due writes, the dispatch, one arrival of each input class in the order of R172, a
phase switch, the sequencer and the votes that time out. -/
def State.openings (s : State) (t : Nat) : List Event :=
  let x := s.tile t
  let arrived (reply : Bool) : Bool := s.net.any fun p => p.place == t % 32768 && p.ejected && p.reply == reply
  (if x.writeDue s.beat then [.pendingWrite t] else [])
    ++ (if x.dispatches then [.dispatch t] else [])
    ++ (if x.loopIn != [] then [.messageArrival t .loopb] else [])
    ++ (if arrived true then [.messageArrival t .reply] else [])
    ++ (if arrived false then [.messageArrival t .req] else [])
    ++ (if s.beat % 256 = 0 ∧ x.pending.isSome then [.slotPhaseSwitch t] else [])
    ++ x.marimbaDue t s.beat
    ++ ((x.votes.zipIdx.filter fun (v, _) => decide (v.first + 65536 ≤ s.beat)).reverse.map fun (_, i) => Event.voteTimeout t i)

/-- The event counters as they stand when a beat begins (R15, R397). -/
def Tile.marked (x : Tile) : Tile := { x with evcAt := x.evc, evcNew := Vector.replicate 16 0, freshCnt := none }

/-- The listed tiles that are the package's own. -/
def State.listed (s : State) : List Nat := (s.tiles.map (·.1)).filter isTile

/-- A beat opened: what opens it on each tile comes next. -/
def State.openBeat (s : State) : State :=
  let s := s.evictSome
  { s with phase := .engines, now := s.listed.flatMap s.openings }

/-- The first tile whose turn it is to issue. -/
def State.beginIssue (s : State) : State := { s with phase := .issue, cur := s.listed.headD 0 }

/-- The next beat, at whose start the event counters are marked. -/
def State.nextBeat (s : State) : State := { s with phase := .start, beat := s.beat + 1 }.mapTiles fun _ x => x.marked

/-! ### Issue (R23, R24) -/

/-- S, then H, then the L contexts in turn after the one that issued last (R23). -/
def State.issueOrder (s : State) : List (Fin 6) :=
  match s.my.lastL with
  | 0 => [5, 4, 1, 2, 3, 0]
  | 1 => [5, 4, 2, 3, 0, 1]
  | 2 => [5, 4, 3, 0, 1, 2]
  | _ => [5, 4, 0, 1, 2, 3]

/-- Whether a context of the tile `cur` may act at all: it is RUNNING, or STALLED on what it tries again; its beat has come; and while its
domain is stopped only an instruction that must finish goes on (R23, R24, R387). -/
def State.mayAct (s : State) (c : Fin 6) : Bool :=
  let k := s.ctxAt s.cur c
  (k.status == .running || (k.status == .stalled && !(match k.wait with | some (.sent _) => true | _ => false)))
    && decide (k.issueFrom ≤ s.beat) && (!s.my.frozen || c == 5 || k.mustFinish)

/-- Whether a context may issue its next instruction (R23). -/
def State.mayIssue (s : State) (c : Fin 6) : Bool := s.mayAct c && (s.ctxAt s.cur c).word.isNone

/-- Whether an instruction of a context that has issued, and waits, is tried again: it may retire in any beat, whichever context issues
(R24, R25, R209). -/
def State.mayRetry (s : State) (c : Fin 6) : Bool := s.mayAct c && (s.ctxAt s.cur c).word.isSome

/-- A context held by the scoreboard (R24, R89). -/
def State.holdMe (s : State) (c : Fin 6) (i : Instr) : State :=
  s.onCtx s.cur c fun k => { k with status := .stalled, waitsOn := k.holds i }

/-- Whether context `c`'s attempt came to no issue: the scoreboard holds it, or its fetch is PARKED. -/
def State.waits (s : State) (c : Fin 6) : Bool :=
  ((s.ctxAt s.cur c).status == .stalled || (s.ctxAt s.cur c).status == .parked) && (s.ctxAt s.cur c).word.isNone

/-- The beat taken by context `c`: an L context is the last that issued (R23).  DESIGN CHOICE (log 57): an attempt that ends in a trap, at
the fetch too, takes the beat. -/
def State.tookBeat (s : State) (c : Fin 6) : State := if c.val < 4 then s.onMy fun x => { x with lastL := c.val } else s

/-- The turn passes to the next listed tile; after the last, TIMER counters tick when BEAT[9:0] is 0, after all else of the beat but
barrier completions (R164, R172, R205). -/
def State.passTurn (s : State) : State :=
  match s.listed.find? fun t => decide (s.cur < t) with
  | some t => { s with cur := t }
  | none => { s with phase := .close, now := s.now ++ if s.beat % 1024 = 0 then s.listed.map Event.timerTick else [] }

end Sys2Proof.Machine
end

