-- ==== Sys2Proof/Machine/Step.lean ====
section
/-! DEFINITION. One step of the module (log 4, 10, 36): what must happen next, a pending step of another agent, the opening or the end of a
beat, or the issue of a tile's one instruction (R23); and the placing of a word for the fetch. -/

namespace Sys2Proof.Machine

open Host (Outcome)

/-- A pending step made: the meaning of the instruction of its name. -/
def runEvent (e : Event) (s : State) : Outcome State Fault Refusal :=
  match e with
  | .colourAllocatorAnswer t c => execColourAllocatorAnswer t c s
  | .storeQueuePerform t c => execStoreQueuePerform t c s
  | .messageArrival t cls => execMessageArrival t cls s
  | .voteTimeout t i => execVoteTimeout t i s
  | .spillRefill t q => execSpillRefill t q s
  | .matchOverflowService t => execMatchOverflowService t s
  | .timerTick t => execTimerTick t s
  | .dispatch t => execDispatch t s
  | .barrierJoinArrival t => execBarrierJoinArrival t s
  | .barrierCompletion t => execBarrierCompletion t s
  | .translationRequest t c => execTranslationRequest t c s
  | .tlbFill t entry => execTlbFill t entry s
  | .tlbFaultAnswer t va prot => execTlbFaultAnswer t va prot s
  | .dupCollapse t c => execDupCollapse t c s
  | .copyOnWrite t c => execCopyOnWrite t c s
  | .btCopyOnWrite t c => execBtCopyOnWrite t c s
  | .rmaPortOperation t => execRmaPortOperation t s
  | .rmaCompletion t n => execRmaCompletion t n s
  | .mmrunAccept t => execMmrunAccept t s
  | .marimbaBlockAccumulate t => execMarimbaBlockAccumulate t s
  | .marimbaRunComplete t => execMarimbaRunComplete t s
  | .streamProgramStart t => execStreamProgramStart t s
  | .streamProgramEnd e => execStreamProgramEnd e s
  | .sacAccept t => execSacAccept t s
  | .sacComplete t => execSacComplete t s
  | .slotPhaseSwitch t => execSlotPhaseSwitch t s
  | .trapDelivery t c => execTrapDelivery t c s
  | .serviceVerdict t => execServiceVerdict t s
  | .doubleFault t => execDoubleFault t s
  | .uncorrectableError u => execUncorrectableError u s
  | .correctedError e => execCorrectedError e s
  | .colourKillArrival t dom col cause start => execColourKillArrival t dom col cause start s
  | .colourReclaimSweep dom => execColourReclaimSweep dom s
  | .domainKill dom cause => execDomainKill dom cause s
  | .channelRemap t u => execChannelRemap t u s
  | .dieViral d => execDieViral d s
  | .dieFence d => execDieFence d s
  | .dieResetInPlace d b => execDieResetInPlace d b s
  | .gongStop dom => execGongStop dom s
  | .gangSwitch dom => execGangSwitch dom s
  | .gangResume dom => execGangResume dom s
  | .linkUp x => execLinkUp x s
  | .forzenFrame port good => execForzenFrame port good s
  | .linkRetrain port x4 => execLinkRetrain port x4 s
  | .pathDown m => execPathDown m s
  | .dropNotice n => execDropNotice n s
  | .reservationGrant m start rate => execReservationGrant m start rate s
  | .multicastStore g off data => execMulticastStore g off data s
  | .federatedColourKill dom col cause start => execFederatedColourKill dom col cause start s
  | .federationModuleLoss dom m => execFederationModuleLoss dom m s
  | .launchRecord f r => execLaunchRecord f r s
  | .hostReturnRecord => execHostReturnRecord s
  | .rsizeWrite f v => execRsizeWrite f v s
  | .rlostWrite f => execRlostWrite f s
  | .debugStop f => execDebugStop f s
  | .debugResume f => execDebugResume f s
  | .debugKill f => execDebugKill f s
  | .hostRegisterWrite f off v => execHostRegisterWrite f off v s
  | .readConfig => execReadConfig s
  | .setMod m => execSetMod m s
  | .bindFn f dom => execBindFn f dom s
  | .setKeys dom keys req => execSetKeys dom keys req s
  | .quote nonce => execQuote nonce s
  | .readCert => execReadCert s
  | .readLifetime => execReadLifetime s
  | .setCap kw => execSetCap kw s
  | .containerLoad f dom z => execContainerLoad f dom z s
  | .moduleReset boots => execModuleReset boots s
  | .avsWindowEnd d temp thresholds => execAvsWindowEnd d temp thresholds s
  | .powerCapStep watts => execPowerCapStep watts s
  | .lifetimeCommit down failed => execLifetimeCommit down failed s
  | .pendingWrite t => execPendingWrite t s
  | .globalAnswerReturn t c => execGlobalAnswerReturn t c s
  | .btServiceAnswer t c => execBtServiceAnswer t c s
  | .engineAnswer t c => execEngineAnswer t c s
  | .gongRootAnswer t c => execGongRootAnswer t c s
  | .packetHop n => execPacketHop n s
  | .reservationIdle m => execReservationIdle m s
  | .linkFailure x => execLinkFailure x s
  | .stackFailure sx => execStackFailure sx s
  | .multicastGroupRegistration g root dom base size members => execMulticastGroupRegistration g root dom base size members s
  | .federationRegistration dom mods => execFederationRegistration dom mods s
  | .jobLeaves dom => execJobLeaves dom s
  | .singleTileReplay t dom => execSingleTileReplay t dom s

/-- A pending step of an agent the package has (R6, R295, R438); one of another is a fault. -/
def guarded (e : Event) (s : State) : Outcome State Fault Refusal :=
  if eventInRange e then runEvent e s else .fault .noSuchAgent

/-- The instruction of context `c` of the tile whose turn it is, with its word: held by the scoreboard, or executed (R23, R68, R89). -/
def issueWord (s : State) (c : Fin 6) (w : BitVec 32) : Outcome State Fault Refusal :=
  let s := { s with iw := w }
  match decode w with
  | .error _ => execNotAnInstruction w s
  | .ok i =>
    if (s.ctxAt s.cur c).held i then .next (s.holdMe c i)
    else match exec i s with
      | .next s' => .next (s'.keepWord c w)
      | o => o

/-- The attempt of context `c` to issue: its fetch, then its instruction. -/
def issueOne (s : State) (c : Fin 6) : Outcome State Fault Refusal :=
  let s := { s with who := c, iw := 0 }
  if bits s.pc 1 0 ≠ 0 then execInstructionFetch s
  else match s.fetchAt s.cur c with
    | .word w => issueWord (s.fetched c) c w
    | _ => execInstructionFetch s


/-- The contexts of a tile in the order of R23: the first that does not merely wait takes the beat. -/
def issueAmong (s : State) : List (Fin 6) → Outcome State Fault Refusal
  | [] => .next s.passTurn
  | c :: rest =>
    if !s.mayIssue c then issueAmong s rest
    else match issueOne s c with
      | .next s' => if s'.waits c then issueAmong s' rest else .next (s'.tookBeat c).passTurn
      | o => o

/-- An instruction that has issued and waits, tried again: it needs no fetch and takes no beat (R24, R25, R209). -/
def retryOne (s : State) (c : Fin 6) (w : BitVec 32) : Outcome State Fault Refusal :=
  match decode w with
  | .error _ => .next s
  | .ok i => match exec i { s with who := c, iw := w } with
    | .next s' => .next (s'.keepWord c w)
    | o => o

/-- The instructions of a tile that wait, tried again in turn. -/
def retryAll (s : State) : List (Fin 6) → Outcome State Fault Refusal
  | [] => .next s
  | c :: rest =>
    match (s.ctxAt s.cur c).word with
    | none => retryAll s rest
    | some w =>
      if !s.mayRetry c then retryAll s rest
      else match retryOne s c w with
        | .next s' => retryAll s' rest
        | o => o

/-- The turn of the tile `cur`: the instructions that wait are tried again, and one of the other contexts issues. -/
def issueTurn (s : State) : Outcome State Fault Refusal :=
  if s.my.withdrawn || !s.my.enabled then .next s.passTurn
  else
    let order := s.issueOrder
    match retryAll s order with
    | .next s' => issueAmong s' (order.filter fun c => !s.mayRetry c)
    | o => o

/-- The beat goes on: a switch or resume of a gang whose beat has come acts (R388, R391), else the beat opens; the tiles issue, each in its
turn; the next beat comes. -/
def turn (s : State) : Outcome State Fault Refusal :=
  match s.phase with
  | .start => match s.gangDue with
    | some e => guarded e (s.dropEvents (· == e))
    | none => .next s.openBeat
  | .engines => .next s.beginIssue
  | .issue => issueTurn s
  | .close => .next s.nextBeat

/-- One step: what must happen next; else one of the pending steps that may happen now, or none of them, as is free (R10, log 5). -/
def step (s : State) : Outcome State Fault Refusal :=
  match s.now with
  | e :: rest => guarded e { s with now := rest }
  | [] =>
    if s.ready = [] then turn s
    else
      let n := Config.pick s.fv % (s.ready.length + 1)
      let s' := { s with fv := s.fv + 1 }
      match s.ready[n]? with
      | some (.inl k) => match s.later[k]? with
        | some e => guarded e { s' with later := dropAt s'.later k }
        | none => turn s'
      | some (.inr k) => guarded (.packetHop k) s'
      | none => turn s'

/-- The state with a word of the table where the next fetch takes it: context S of tile `cur` runs from its own panes, at the first
address of pane 124 (R19, log 19), and its turn is next. -/
def State.withFetchWord (s : State) (nbits w : Nat) : State :=
  let s := { s with phase := .issue, now := [] }
  s.onMy fun x =>
    let k := x.ctx 5
    let x := x.setCtx 5 { k with
      status := .running, pc := 0x7C000, pend := [], wait := none, parkedVa := none, issueFrom := 0, word := none, waitsOn := []
      st := k.st &&& ~~~0x10 }
    { x with
      enabled := true, withdrawn := false
      sp := x.sp.setLe 0x7C000 4 (if nbits = 0 then 0 else w % 2 ^ nbits)
      spPoison := x.spPoison.filter fun p => decide (p + 8 ≤ 0x7C000) || decide (0x7C004 ≤ p)
      panes := vset x.panes 124 ⟨.firmware, false, 0, 0⟩ }

end Sys2Proof.Machine
end

