-- ==== Sys2Proof/Certificates/Slice0/Obligations.lean ====
section
/-! DEFINITION. The statements for the provers.  The words they are written in stand first, in namespace Sys2Proof.Claims. -/

namespace Sys2Proof.Claims

open Sys2Proof.Machine
open Host (Outcome)

/-! ### Conditions -/

/-- The issuing context has no prefix pending and has not used its watchdog budget (R68 steps 3 and 4). -/
def Clear (s : State) : Prop := s.me.pendBit = false ∧ s.overBudget = false

/-- The issuing context has not used its watchdog budget (R68 step 4); a prefix may be pending. -/
def Unspent (s : State) : Prop := s.overBudget = false

/-- Context S issues, with no prefix pending (R68 steps 2 and 3; S runs under no watchdog, R30). -/
def Firmware (s : State) : Prop := s.isS = true ∧ s.me.pendBit = false

/-- The first address past what the issuing context may reach of its scratchpad (R18 step 1). -/
def spLimit (s : State) : Int := if s.isS then 0x80000 else 0x7C000

/-- An access of `n` bytes at `ea` passes the checks of R18. -/
def Reachable (s : State) (ea : Int) (n : Nat) : Prop :=
  0 ≤ ea ∧ ea < spLimit s ∧ ea.toNat % n = 0 ∧ s.paneOk (ea.toNat / 4096) = true

/-- The first check of R18 that an access of `n` bytes at `ea` fails, as its trap. -/
def Fails (s : State) (ea : Int) (n : Nat) (c : Cause) : Prop :=
  ((ea < 0 ∨ spLimit s ≤ ea) ∧ c = .scratchBounds) ∨ (0 ≤ ea ∧ ea < spLimit s ∧ ea.toNat % n ≠ 0 ∧ c = .misaligned)
    ∨ (0 ≤ ea ∧ ea < spLimit s ∧ ea.toNat % n = 0 ∧ s.paneOk (ea.toNat / 4096) = false ∧ c = .paneOwnership)

/-- It passes them and touches no poisoned doubleword (R374). -/
def Loadable (s : State) (ea : Int) (n : Nat) : Prop := Reachable s ea n ∧ s.my.spPoisoned ea.toNat n = false

/-- A range of `n` bytes passes R18 "as one access", at a multiple of `align`. -/
def RangeOk (s : State) (ea : Int) (n align : Nat) : Prop :=
  ea % align = 0 ∧ 0 ≤ ea ∧ ea + n ≤ spLimit s ∧ ∀ b, ea.toNat ≤ b → b < ea.toNat + n → s.paneOk (b / 4096) = true

/-- A global access of `size` bytes at `ea` passes the checks of R265 and is translated to `pa`. -/
def Mapped (s : State) (ea : Int) (size : Nat) (r w write : Bool) (pa : Nat) (cached : Bool) (sync : Nat) : Prop :=
  0 ≤ ea ∧ ea < 2 ^ 52 ∧ ea.toNat % size = 0 ∧ s.access s.myClass s.cur s.me.refilled ea.toNat r w false write = .ok pa cached sync

/-- No store of the issuing context waits, and none has failed (R255, R269). -/
def StoresDone (s : State) : Prop := s.me.failedStore = none ∧ s.me.storeQ = []

/-! ### What an instruction comes to -/

/-- The instruction has its effect, which leaves `t`, and retires to the next address (R26, R30). -/
def Does (i : Instr) (s t : State) : Prop := exec i s = .next (t.retire (s.pc + 4))

/-- The instruction has its effect and retires to `pc`. -/
def Jumps (i : Instr) (s t : State) (pc : Word) : Prop := exec i s = .next (t.retire pc)

/-- The instruction traps. -/
def Traps (i : Instr) (s : State) (c : Cause) (va : Word) : Prop := exec i s = .next (s.trapMe c va)

/-- The instruction has issued and waits (R24): nothing else changes. -/
def Stalls (i : Instr) (s : State) : Prop := exec i s = .next (s.onMe fun k => { k with status := .stalled })

/-- It traps TARGET_GONE with the address of a store that failed, which is then forgotten (R269). -/
def StoreGone (i : Instr) (s : State) (va : Nat) : Prop :=
  exec i s = .next ((s.onMe fun k => { k with failedStore := none }).trapMe .targetGone (BitVec.ofNat 64 va))

/-- A scalar floating-point instruction that rounds: flags, the draw of STO, and the result after `lat` beats (R105, R41, R42). -/
def Rounds (i : Instr) (s : State) (d : Reg) (r : FRes) (lat : Nat) : Prop :=
  Does i s ((s.drewOne.raise r.fl).putG d (BitVec.ofNat 64 r.bits) lat)

/-- A scalar floating-point instruction that never rounds: flags and the result after `lat` beats. -/
def Compares (i : Instr) (s : State) (d : Reg) (r : FRes) (lat : Nat) : Prop :=
  Does i s ((s.raise r.fl).putG d (BitVec.ofNat 64 r.bits) lat)

/-- The flags of `n` lanes, those that are not active left out. -/
def laneFlags (n : Nat) (act : Nat → Bool) (f : Nat → Fl) : Fl := ((List.range n).filter act).foldl (fun a i => a.or (f i)) {}

/-- A vector instruction under predicate `k` completes: lane `i` of vd is to become `f i` where it is active, and keeps its value or
is zeroed where it is not (R113), after `lat` beats; the flags `fl` are raised, no prefix is pending any more, and the context goes on. -/
def Lanes (i : Instr) (s : State) (d : Reg) (w lat : Nat) (k : KReg) (zero : Bool) (f : Nat → Nat) (fl : Fl) : Prop :=
  ∃ t v, exec i s = .next t ∧ t.me.pend = s.me.pend ++ [⟨.v d, some v, s.beat + lat⟩] ∧ t.me.pc = s.pc + 4
    ∧ t.me.icount = s.me.icount + 1 ∧ t.me.st = (s.me.st ||| fl.word) &&& ~~~0x10
    ∧ ∀ l < 1024 / w, laneOf v w l = if active (s.me.k k) w l then f l % 2 ^ w else if zero then 0 else laneOf (s.me.v d) w l

/-- What a vector floating-point instruction leaves beside its register: under STO one draw for each of `n` positions that `live` names, and in
any other mode none (R41); the flags of the active ones, and no prefix pending (R42, R70); and their events in EVC0 to EVC4 (R37, R39). -/
def Tallied (i : Instr) (s : State) (rm : Rm) (n : Nat) (act live : Nat → Bool) (f : Nat → LaneOut) : Prop :=
  let count (p : LaneOut → Bool) : Nat := ((List.range n).filter act).countP fun l => p (f l)
  ∃ t, exec i s = .next t ∧ t.me.rngseed = (if rm = .sto then drawN ((List.range n).countP live) s.me.rngseed else s.me.rngseed)
    ∧ t.me.st = (s.me.st ||| (laneFlags n act fun l => (f l).fl).word) &&& ~~~0x10
    ∧ vget t.my.evc 0 0 = satAdd32 (vget s.my.evc 0 0) (count (·.ovf)) ∧ vget t.my.evc 1 0 = satAdd32 (vget s.my.evc 1 0) (count (·.satd))
    ∧ vget t.my.evc 2 0 = satAdd32 (vget s.my.evc 2 0) (count (·.nan)) ∧ vget t.my.evc 3 0 = satAdd32 (vget s.my.evc 3 0) (count (·.under))
    ∧ vget t.my.evc 4 0 = satAdd32 (vget s.my.evc 4 0) (count (·.inval))

/-- A vector access traps for its first active lane whose address fails R18 as a 4-byte access (R136), and if none does and it reads, for the first
that meets a poisoned doubleword (R374). -/
def LaneTraps (i : Instr) (s : State) (act : Nat → Bool) (ea : Nat → Int) (reads : Bool) : Prop :=
  (∀ l < 32, act l = true → (∀ m < l, act m = true → Reachable s (ea m) 4) → ∀ c, Fails s (ea l) 4 c → Traps i s c (BitVec.ofInt 64 (ea l)))
    ∧ (reads = true → (∀ l < 32, act l = true → Reachable s (ea l) 4) → ∀ l < 32, act l = true → s.my.spPoisoned (ea l).toNat 4 = true →
      (∀ m < l, act m = true → s.my.spPoisoned (ea m).toNat 4 = false) → Traps i s .uncorrectableData (BitVec.ofInt 64 (ea l)))

/-- VLD and VST with an active lane trap for an address that is no multiple of 128, then for a vector that fails R18 as one access (R136), and a
load then for the first active lane that meets a poisoned doubleword (R374). -/
def VectorTraps (i : Instr) (s : State) (act : Nat → Bool) (base : Int) (reads : Bool) : Prop :=
  (∃ l < 32, act l = true) →
    (base % 128 ≠ 0 → Traps i s .misaligned (BitVec.ofInt 64 base))
      ∧ (base % 128 = 0 → (base < 0 ∨ spLimit s < base + 128) → Traps i s .scratchBounds (BitVec.ofInt 64 base))
      ∧ (base % 128 = 0 → 0 ≤ base → base + 128 ≤ spLimit s → s.paneOk (base.toNat / 4096) = false → Traps i s .paneOwnership (BitVec.ofInt 64 base))
      ∧ (reads = true → RangeOk s base 128 128 → ∀ l < 32, act l = true → s.my.spPoisoned (base + 4 * l).toNat 4 = true →
        (∀ m < l, act m = true → s.my.spPoisoned (base + 4 * m).toNat 4 = false) → Traps i s .uncorrectableData (BitVec.ofInt 64 (base + 4 * l)))

/-- Every lane of vd is to be written, whatever the predicates: `f i` in lane `i` of width `w`. -/
def Whole (i : Instr) (s : State) (d : Reg) (w lat : Nat) (f : Nat → Nat) : Prop :=
  ∃ t v, exec i s = .next t ∧ t.me.pend = s.me.pend ++ [⟨.v d, some v, s.beat + lat⟩] ∧ t.me.pc = s.pc + 4
    ∧ t.me.icount = s.me.icount + 1 ∧ t.me.st = s.me.st ∧ ∀ l < 1024 / w, laneOf v w l = f l % 2 ^ w

/-- An instruction waits for the answer to a request that it sends; `e` is the step that answers it. -/
def Asks (i : Instr) (s t : State) (r : GReq) (e : Event) : Prop :=
  exec i s = .next ((t.onMe fun k => { k with status := .stalled, wait := some (.sent r) }).post e)

/-- A request waits in the tile's issue queue, its token register pending, and the step of its engine may follow (R287, R289). -/
def queuedOp (s : State) (r : AsyncReq) (e : Event) : State :=
  ((s.onMe fun k => { k with pend := k.pend ++ [⟨.g r.tok, none, 0⟩] }).onMy fun x => { x with asyncQ := x.asyncQ ++ [r] }).post e

/-- The value of an input that level FULL logs: the instruction's own, or on a tile that replays the logged one (R393, R394). -/
def seen (s : State) (w : Word) : Word :=
  if s.my.replay = true ∧ s.my.feed ≠ [] then BitVec.ofNat 64 (leNat (s.my.feed.headD [])) else w

/-- Such an input logged, or the logged one taken. -/
def seenState (s : State) (w : Word) : State :=
  if s.my.replay = true ∧ s.my.feed ≠ [] then s.onMy fun x => { x with feed := s.my.feed.tail } else s.logInput s.cur (leBytes 8 w.toNat)

/-- A logged input written to a general register. -/
def logged (s : State) (d : Reg) (w : Word) : State := (seenState s w).putG d (seen s w)

/-! ### Frames -/

/-- Nothing changes but the issuing context: every other tile, every other part of the issuing tile (its scratchpad among them), every
other context, and everything outside the tiles. -/
def OnlyMe (s t : State) : Prop :=
  { t with tiles := s.tiles } = s ∧ (∀ x, x % 32768 ≠ s.cur % 32768 → t.tile x = s.tile x)
    ∧ { t.my with ctxs := s.my.ctxs } = s.my ∧ (∀ c, c ≠ s.who.val → t.my.ctx c = s.my.ctx c)
    ∧ (∀ a n, t.memRead a n = s.memRead a n) ∧ ∀ a, t.my.sp.get a = s.my.sp.get a

/-- Nothing changes but the issuing context and the event counters of its tile. -/
def OnlyMeEvc (s t : State) : Prop :=
  { t with tiles := s.tiles } = s ∧ (∀ x, x % 32768 ≠ s.cur % 32768 → t.tile x = s.tile x)
    ∧ { t.my with ctxs := s.my.ctxs, evc := s.my.evc, evcNew := s.my.evcNew } = s.my ∧ (∀ c, c ≠ s.who.val → t.my.ctx c = s.my.ctx c)
    ∧ (∀ a n, t.memRead a n = s.memRead a n) ∧ ∀ a, t.my.sp.get a = s.my.sp.get a

/-- The special registers of a context apart from ST, ICOUNT and the generator, its trap record and its window stay. -/
def SameSpecial (k q : Ctx) : Prop :=
  q.ms = k.ms ∧ q.tg = k.tg ∧ q.pfx = k.pfx ∧ q.tx = k.tx ∧ q.mh0 = k.mh0 ∧ q.mh1 = k.mh1 ∧ q.mlen = k.mlen ∧ q.mret = k.mret
    ∧ q.mvec = k.mvec ∧ q.rnsst = k.rnsst ∧ q.rnsch = k.rnsch ∧ q.wdog = k.wdog ∧ q.trapc = k.trapc ∧ q.trappc = k.trappc
    ∧ q.trapva = k.trapva ∧ q.trapiw = k.trapiw ∧ q.act = k.act ∧ q.storeQ = k.storeQ

/-- The general, vector and predicate registers stay, those a condition excepts apart; a write to come names only those too. -/
def SameRegs (k q : Ctx) (but : Dst → Prop) : Prop :=
  (∀ r, ¬ but (.g r) → q.g r = k.g r) ∧ (∀ r, ¬ but (.v r) → q.v r = k.v r) ∧ (∀ r, ¬ but (.vx r) → q.vx r = k.vx r)
    ∧ (∀ r, ¬ but (.k r) → q.k r = k.k r) ∧ ∃ l : List PWrite, q.pend = k.pend ++ l ∧ ∀ p ∈ l, but p.dst

/-- ST outside its sticky flags NV, DZ, OF, UF and NX stays, and no flag is cleared (R16, R42). -/
def FlagsOnly (k q : Ctx) : Prop := ∃ f : Fl, q.st = k.st ||| f.word

/-- The row of the opcode tables that a pending step is. -/
noncomputable def rowOf : Event → Instr
  | .colourAllocatorAnswer t c => .colourAllocatorAnswer t c
  | .storeQueuePerform t c => .storeQueuePerform t c
  | .messageArrival t cls => .messageArrival t cls
  | .voteTimeout t i => .voteTimeout t i
  | .spillRefill t q => .spillRefill t q
  | .matchOverflowService t => .matchOverflowService t
  | .timerTick t => .timerTick t
  | .dispatch t => .dispatch t
  | .barrierJoinArrival t => .barrierJoinArrival t
  | .barrierCompletion t => .barrierCompletion t
  | .translationRequest t c => .translationRequest t c
  | .tlbFill t entry => .tlbFill t entry
  | .tlbFaultAnswer t va prot => .tlbFaultAnswer t va prot
  | .dupCollapse t c => .dupCollapse t c
  | .copyOnWrite t c => .copyOnWrite t c
  | .btCopyOnWrite t c => .btCopyOnWrite t c
  | .rmaPortOperation t => .rmaPortOperation t
  | .rmaCompletion t n => .rmaCompletion t n
  | .mmrunAccept t => .mmrunAccept t
  | .marimbaBlockAccumulate t => .marimbaBlockAccumulate t
  | .marimbaRunComplete t => .marimbaRunComplete t
  | .streamProgramStart t => .streamProgramStart t
  | .streamProgramEnd e => .streamProgramEnd e
  | .sacAccept t => .sacAccept t
  | .sacComplete t => .sacComplete t
  | .slotPhaseSwitch t => .slotPhaseSwitch t
  | .trapDelivery t c => .trapDelivery t c
  | .serviceVerdict t => .serviceVerdict t
  | .doubleFault t => .doubleFault t
  | .uncorrectableError u => .uncorrectableError u
  | .correctedError e => .correctedError e
  | .colourKillArrival t dom col cause start => .colourKillArrival t dom col cause start
  | .colourReclaimSweep dom => .colourReclaimSweep dom
  | .domainKill dom cause => .domainKill dom cause
  | .channelRemap t u => .channelRemap t u
  | .dieViral d => .dieViral d
  | .dieFence d => .dieFence d
  | .dieResetInPlace d b => .dieResetInPlace d b
  | .gongStop dom => .gongStop dom
  | .gangSwitch dom => .gangSwitch dom
  | .gangResume dom => .gangResume dom
  | .linkUp x => .linkUp x
  | .forzenFrame port good => .forzenFrame port good
  | .linkRetrain port x4 => .linkRetrain port x4
  | .pathDown m => .pathDown m
  | .dropNotice n => .dropNotice n
  | .reservationGrant m start rate => .reservationGrant m start rate
  | .multicastStore g off data => .multicastStore g off data
  | .federatedColourKill dom col cause start => .federatedColourKill dom col cause start
  | .federationModuleLoss dom m => .federationModuleLoss dom m
  | .launchRecord f r => .launchRecord f r
  | .hostReturnRecord => .hostReturnRecord
  | .rsizeWrite f v => .rsizeWrite f v
  | .rlostWrite f => .rlostWrite f
  | .debugStop f => .debugStop f
  | .debugResume f => .debugResume f
  | .debugKill f => .debugKill f
  | .hostRegisterWrite f off v => .hostRegisterWrite f off v
  | .readConfig => .readConfig
  | .setMod m => .setMod m
  | .bindFn f dom => .bindFn f dom
  | .setKeys dom keys req => .setKeys dom keys req
  | .quote nonce => .quote nonce
  | .readCert => .readCert
  | .readLifetime => .readLifetime
  | .setCap kw => .setCap kw
  | .containerLoad f dom z => .containerLoad f dom z
  | .moduleReset boots => .moduleReset boots
  | .avsWindowEnd d temp thresholds => .avsWindowEnd d temp thresholds
  | .powerCapStep watts => .powerCapStep watts
  | .lifetimeCommit down failed => .lifetimeCommit down failed
  | .pendingWrite t => .pendingWrite t
  | .globalAnswerReturn t c => .globalAnswerReturn t c
  | .btServiceAnswer t c => .btServiceAnswer t c
  | .engineAnswer t c => .engineAnswer t c
  | .gongRootAnswer t c => .gongRootAnswer t c
  | .packetHop n => .packetHop n
  | .reservationIdle m => .reservationIdle m
  | .linkFailure x => .linkFailure x
  | .stackFailure sx => .stackFailure sx
  | .multicastGroupRegistration g root dom base size members => .multicastGroupRegistration g root dom base size members
  | .federationRegistration dom mods => .federationRegistration dom mods
  | .jobLeaves dom => .jobLeaves dom
  | .singleTileReplay t dom => .singleTileReplay t dom

/-- Whether an instruction is of major PRIV (R398). -/
def isPriv : Instr → Bool
  | .tret .. | .tlbwr .. | .tlbinv .. | .domkill .. | .colkill .. | .gangsw .. | .logctl .. | .halt .. | .loopb .. => true
  | _ => false

/-- Whether an instruction accepts a prefix (R70). -/
def takesPrefix : Instr → Bool
  | .vfadd .. | .vfsub .. | .vfmul .. | .vfma .. | .vfms .. | .vfnma .. | .vcvt .. | .vqblk .. | .vdqblk .. | .mmrun .. | .sacp .. => true
  | _ => false

end Sys2Proof.Claims

section Statements

open Sys2Proof Sys2Proof.Machine Sys2Proof.Claims

/-! ### Encoding and decoding (R61 to R68) -/

/-- R65, R66: decoding the word of an instruction gives it back, with every operand at every value the encoding admits.  (Steps of
the tables that are no instruction word have no encoding.) -/
def Obligations.DecodeAfterEncode : Prop := ∀ i w, encode i = some w → decode w = .ok i

/-- R65, R68 step 1: a word that names an instruction is the word the encoder gives it: no bit of it is ignored. -/
def Obligations.EncodeAfterDecode : Prop := ∀ w i, decode w = .ok i → encode i = some w

/-- Words written out from the encodings decode to their instructions: R76 (LDW, BNE, ADD), R90 (ADD g1, g2, g3 and the no-operation),
R94 (EXTZ g5, g6, 8, 16), R104 (STD, LDHU) and R395 (BRK 1). -/
def Obligations.WordsDecode : Prop :=
  decode 0x5C858004#32 = .ok (.ldw 4 5 4) ∧ decode 0x3CE0FFF8#32 = .ok (.bne 7 0 (-8)) ∧ decode 0x04221800#32 = .ok (.add 1 2 3)
    ∧ decode 0x04000000#32 = .ok (.add 0 0 0) ∧ decode 0x28A62104#32 = .ok (.extz 5 6 8 16) ∧ decode 0x70000202#32 = .ok (.brk 1)
    ∧ decode 0x60857FF8#32 = .ok (.std 4 5 (-8)) ∧ decode 0x5CC57FFA#32 = .ok (.ldhu 6 5 (-6))

/-- R68 step 1: the majors 0x00, 0x09, 0x1B, 0x2C and 0x37 to 0x3F name no instruction, and a word that names none traps
ILLEGAL_INSTRUCTION with TRAPVA 0. -/
def Sys2Proof.Claims.UnassignedWordsTrap : Prop :=
  (∀ w : BitVec 32, (w.toNat / 2 ^ 26 ∈ [0x00, 0x09, 0x1B, 0x2C] ∨ 0x37 ≤ w.toNat / 2 ^ 26) → decode w = .error .unassignedMajor)
    ∧ ∀ w s e, decode w = .error e → exec (.notAnInstruction w) s = .next (s.trapMe .illegalInstruction 0)

/-! ### Steps (R10, R23, R68) -/

/-- A step of a turn under way, with nothing else pending.  First the instructions of the tile that have issued and wait are tried again,
each by `exec` of the instruction its kept word decodes to, and the others are left alone (R24, R25); that leaves `u`.  Then the first of
the other contexts in the order of R23 that may issue, held by no scoreboard, runs the instruction its word decodes to: `exec` of that
instruction in the state that names the context and the word.  It takes the beat of its tile, and its word is kept if it waits (R23, R24, R68).
Then the turn passes to the next tile.  (The model's own choices and readings in it: logs 10, 36, 57.) -/
def Obligations.StepRunsDecoded : Prop :=
  (∀ s (c : Fin 6) rest w i t, (s.ctxAt s.cur c).word = some w → s.mayRetry c = true → decode w = .ok i →
      exec i { s with who := c, iw := w } = .next t → retryAll s (c :: rest) = retryAll (t.keepWord c w) rest)
    ∧ (∀ s (c : Fin 6) rest, s.mayRetry c = false → retryAll s (c :: rest) = retryAll s rest)
    ∧ ∀ s u (c : Fin 6) before after w i t, s.now = [] → s.phase = .issue → s.my.enabled = true → s.my.withdrawn = false →
      retryAll s s.issueOrder = .next u → (s.issueOrder.filter fun e => !s.mayRetry e) = before ++ c :: after →
      (∀ e ∈ before, u.mayIssue e = false) → u.mayIssue c = true →
      bits (u.ctxAt u.cur c).pc 1 0 = 0 → u.fetchAt u.cur c = .word w → decode w = .ok i → (u.ctxAt u.cur c).held i = false →
      exec i { ({ u with who := c, iw := 0 } : State).fetched c with iw := w } = .next t →
      step s = .next ((t.keepWord c w).tookBeat c).passTurn

/-- A step that must happen next, of an agent the package has, is `exec` of the row of the tables that it names, in the state without it (R10);
so is one of the pending steps that may happen now, if it is the one chosen, in its part of the beat, and a hop of a packet.  No pending step is
an instruction word.
(The model's own choices and readings in it: logs 5, 29, 36.) -/
def Obligations.StepRunsPending : Prop :=
  (∀ e, encode (rowOf e) = none) ∧ (∀ e s, runEvent e s = exec (rowOf e) s)
    ∧ (∀ s e rest, s.now = e :: rest → eventInRange e = true → step s = exec (rowOf e) { s with now := rest })
    ∧ ∀ s, s.now = [] → let chosen := s.ready[Config.pick s.fv % (s.ready.length + 1)]?
      let s' := { s with fv := s.fv + 1 }
      (∀ k e, chosen = some (.inl k) → s.later[k]? = some e → eventInRange e = true →
          step s = exec (rowOf e) { s' with later := s.later.take k ++ s.later.drop (k + 1) } ∧ s.inOrder e k = true ∧ whenOf e = s.phase)
        ∧ ∀ k, chosen = some (.inr k) → step s = exec (.packetHop k) s' ∧ s.phase = .start

/-- The state after reset: BEAT 0, nothing pending, no packet, no domain; every tile enabled and unbound with its contexts FREE; in each context
the registers of R11, the special registers of R14, ST of R16 and the trap record at their reset values; of each tile EVC0 to EVC15, RNSMAP and
ERRINJ 0, panes 124 to 127 FIRMWARE and the others CORE (R19); every byte of the scratchpads, of the module's memory and of host memory zero and
unpoisoned, and nothing cached.  (The reset values of TX and RNSCH are those R143 and R130 give; log 1 names the rest, log 3 those of memory.)
(The model's own choices and readings in it: logs 1, 2, 3, 4.) -/
def Obligations.ResetValues : Prop :=
  State.reset.beat = 0 ∧ State.reset.now = [] ∧ State.reset.later = [] ∧ State.reset.net = [] ∧ State.reset.domains = []
    ∧ (∀ a, State.reset.mem.get a = 0) ∧ (∀ a, State.reset.hostMem.get a = 0) ∧ State.reset.memPoison = [] ∧ State.reset.caches = []
    ∧ ∀ t, (State.reset.tile t).enabled = true ∧ (State.reset.tile t).withdrawn = false ∧ (State.reset.tile t).dom = 0
    ∧ (∀ p < 128, (vget (State.reset.tile t).panes p ⟨.mm, true, 1, 1⟩).owner = if p < 124 then .core else .firmware)
    ∧ (∀ a, (State.reset.tile t).sp.get a = 0) ∧ (State.reset.tile t).spPoison = []
    ∧ (∀ i < 16, vget (State.reset.tile t).evc i 1 = 0) ∧ (State.reset.tile t).rnsmap = 0 ∧ (State.reset.tile t).errinj = 0
    ∧ ∀ c < 6, let k := State.reset.ctxAt t c
      k.status = .free ∧ (∀ r, k.g r = 0) ∧ (∀ r, k.v r = 0) ∧ (∀ r, k.vx r = 0) ∧ (∀ r, k.k r = if r = 0 then BitVec.allOnes 32 else 0)
        ∧ (∀ j, k.m j = 0) ∧ k.tg = 0 ∧ k.pc = 0 ∧ k.pfx = 0 ∧ k.icount = 0 ∧ k.mret = 0 ∧ k.wdog = 0 ∧ k.rngseed = 1
        ∧ k.tx = 0x0001000000000028 ∧ k.rnsch = 0x00140300 ∧ k.rnsst = 0x0000000F00000000 ∧ k.mh0 = 0 ∧ k.mh1 = 0 ∧ k.mlen = 0
        ∧ (∀ i < 4, vget k.mvec i 1 = 0) ∧ k.trapc = 0 ∧ k.trappc = 0 ∧ k.trapva = 0 ∧ k.trapiw = 0
        ∧ bits k.st 2 0 = c ∧ k.st.getLsbD 3 = decide (4 ≤ c) ∧ bits k.st 63 4 = 0

/-! ### Checks and traps (R26, R30, R68, R365 to R371) -/

/-- R68 steps 2 to 4, in their order, for every instruction word: PRIVILEGED outside S, ILLEGAL_PREFIX for a pending prefix that the
instruction does not accept, WATCHDOG for one that would retire beyond the budget.  (That a word whose predicate-register field is 8 to 31 passes
step 1, so that these traps come before that of R114, is the model's choice: log 63.) -/
def Sys2Proof.Claims.PrefixAndBudget : Prop :=
  ∀ i s, encode i ≠ none →
    (isPriv i = true → s.isS = false → Traps i s .privileged 0)
      ∧ ((isPriv i = false ∨ s.isS = true) → s.me.pendBit = true → takesPrefix i = false → Traps i s .illegalPrefix 0)
      ∧ ((isPriv i = false ∨ s.isS = true) → (s.me.pendBit = false ∨ takesPrefix i = true) → s.overBudget = true → Traps i s .watchdog 0)

/-- R366, R367: a trap in L0 to L3 or H leaves the registers with the pending writes whose value is known complete, makes the context
TRAPPED, writes its record (TRAPC in its fields, TRAPPC the pc, TRAPVA, TRAPIW the word), adds the trap to S's service events and to the
tile's traps in the order taken, and changes no other context and no other tile.
(The model's own choices and readings in it: log 25.) -/
def Sys2Proof.Claims.TrapRecord : Prop :=
  ∀ (s : State) (c : Cause) (va : Word), s.isS = false →
    let t := s.trapMe c va
    let k := s.me
    let q := t.me
    q.status = .trapped ∧ q.trappc = s.pc ∧ q.trapva = va ∧ q.trapiw = s.iw.setWidth 64 ∧ q.pc = s.pc ∧ q.st = k.st ∧ q.pfx = k.pfx
      ∧ q.icount = k.icount ∧ q.act = k.act ∧ (∀ r, q.g r = k.settle.g r) ∧ (∀ r, q.v r = k.settle.v r) ∧ (∀ r, q.k r = k.settle.k r)
      ∧ q.pend = k.pend.filter (·.val.isNone)
      ∧ bits q.trapc 4 0 = c.code ∧ bits q.trapc 7 5 = s.who.val ∧ bits q.trapc 9 8 = 0 ∧ q.trapc.getLsbD 10 = k.pendBit
      ∧ q.trapc.getLsbD 11 = k.light ∧ bits q.trapc 39 24 = 0
      ∧ bits q.trapc 51 40 = k.colour ∧ bits q.trapc 23 12 = bits k.mh0 39 28 ∧ (s.my.dom < 4096 → bits q.trapc 63 52 = s.my.dom)
      ∧ t.my.sEvents = s.my.sEvents ++ [.trap s.who] ∧ t.my.trapQ = s.my.trapQ ++ [s.who.val] ∧ t.later = s.later ++ [.trapDelivery s.cur s.who]
      ∧ (∀ e, e ≠ s.who.val → t.my.ctx e = s.my.ctx e) ∧ (∀ x, x % 32768 ≠ s.cur % 32768 → t.tile x = s.tile x)
      ∧ t.my.sp = s.my.sp ∧ t.mem = s.mem ∧ t.hostMem = s.hostMem

/-- R371: a trap in S is a DOUBLE_FAULT, the die management controller's next step. -/
def Sys2Proof.Claims.FirmwareTrap : Prop :=
  ∀ (s : State) (c : Cause) (va : Word), s.isS = true →
    (s.trapMe c va).me.status = .trapped ∧ (s.trapMe c va).now = s.now ++ [.doubleFault s.cur]
      ∧ (s.trapMe c va).me.gs = s.me.gs ∧ (s.trapMe c va).my.sEvents = s.my.sEvents

/-! ### Registers (R11, R26, R30, R89, R113) -/

/-- R11, R89: a result of one beat is in its register at once, a later one is a pending write due that many beats on; g0 reads zero and
k0 all ones, and a write of either is discarded; no other register changes. -/
def Sys2Proof.Claims.RegisterWrites : Prop :=
  ∀ (s : State) (r : Reg) (p : KReg) (w : Word) (v : VReg) (b : Pred) (lat : Nat),
    s.me.g 0 = 0 ∧ s.me.k 0 = BitVec.allOnes 32
      ∧ s.putG 0 w lat = s.onMe id ∧ s.putK 0 b = s.onMe id
      ∧ (r ≠ 0 → lat ≤ 1 → (s.putG r w lat).me = s.me.setG r w ∧ (s.putG r w lat).me.g r = w)
      ∧ (p ≠ 0 → (s.putK p b).me = s.me.setK p b ∧ (s.putK p b).me.k p = b)
      ∧ (r ≠ 0 → 1 < lat → (s.putG r w lat).me = { s.me with pend := s.me.pend ++ [⟨.g r, some (w.setWidth 1024), s.beat + lat⟩] })
      ∧ (1 < lat → (s.putV r v lat).me = { s.me with pend := s.me.pend ++ [⟨.v r, some v, s.beat + lat⟩] })
      ∧ (∀ q, q ≠ r → (s.me.setG r w).g q = s.me.g q ∧ (s.me.setV r v).v q = s.me.v q) ∧ (∀ q, q ≠ p → (s.me.setK p b).k q = s.me.k q)
      ∧ (s.me.setV r v).v r = v ∧ (s.me.setG r w).vs = s.me.vs ∧ (s.me.setG r w).ks = s.me.ks ∧ (s.me.setV r v).gs = s.me.gs
      ∧ (s.me.setK p b).gs = s.me.gs ∧ OnlyMe s (s.putG r w lat) ∧ OnlyMe s (s.putV r v lat) ∧ OnlyMe s (s.putK p b)

/-- R26, R30: an instruction that retires goes to its next pc, counts in ICOUNT and leaves every register, ST and everything outside
its context as its effect left them.  (That ICOUNT counts S's instructions, too, here and in every statement that an instruction retires, is the
model's choice: log 57.) -/
def Sys2Proof.Claims.Retirement : Prop :=
  ∀ (s : State) (pc : Word),
    let q := (s.retire pc).me
    q.pc = pc ∧ q.icount = s.me.icount + 1 ∧ q.gs = s.me.gs ∧ q.vs = s.me.vs ∧ q.vxs = s.me.vxs ∧ q.ks = s.me.ks ∧ q.st = s.me.st
      ∧ q.pend = s.me.pend ∧ q.rngseed = s.me.rngseed ∧ SameSpecial s.me q ∧ OnlyMe s (s.retire pc)

/-- R89, R115: pending writes are made in order at their beat: a write that is due is in its register, and no longer pending, after the
step that makes the due writes of a tile, if no later pending write names the register. -/
def Sys2Proof.Claims.PendingWrites : Prop :=
  ∀ s t c, c < 6 →
    ∃ s', exec (.pendingWrite t) s = .next s'
      ∧ (∀ p, p ∈ (s'.ctxAt t c).pend ↔ p ∈ (s.ctxAt t c).pend ∧ (p.val = none ∨ s.beat < p.due))
      ∧ (∀ r v l₁ l₂ d, r ≠ 0 → (s.ctxAt t c).pend = l₁ ++ ⟨.g r, some v, d⟩ :: l₂ → d ≤ s.beat → (∀ p ∈ l₂, p.dst ≠ .g r) →
          (s'.ctxAt t c).g r = v.setWidth 64)
      ∧ (∀ r v l₁ l₂ d, (s.ctxAt t c).pend = l₁ ++ ⟨.v r, some v, d⟩ :: l₂ → d ≤ s.beat → (∀ p ∈ l₂, p.dst ≠ .v r) →
          (s'.ctxAt t c).v r = v)
      ∧ (∀ d, (∀ p ∈ (s.ctxAt t c).pend, p.dst ≠ .g d) → (s'.ctxAt t c).g d = (s.ctxAt t c).g d)
      ∧ (s'.ctxAt t c).st = (s.ctxAt t c).st ∧ (s'.ctxAt t c).pc = (s.ctxAt t c).pc

/-- R12, R113: the register a masked lane operation writes: active lanes take their results, the others merge with the old register or
are zeroed. -/
def Obligations.MaskedLanes : Prop :=
  ∀ (p : Pred) (zero : Bool) (old : VReg) (w : Nat) (f : Nat → Nat) (l : Nat), w ∈ [8, 16, 32, 64] → l < 1024 / w →
    laneOf (mapLanes p zero old w f) w l = if p.getLsbD (w * l / 32) then f l % 2 ^ w else if zero then 0 else laneOf old w l

/-! ### Scalar integer instructions (R90 to R101) -/

/-- R90: the result of each ALU instruction, in its register in one beat; nothing else changes (RegisterWrites, Retirement). -/
def Sys2Proof.Claims.AluResults : Prop :=
  ∀ d a b s, Clear s →
    let x := s.me.g a
    let y := s.me.g b
    let sh := bits y 5 0
    Does (.add d a b) s (s.putG d (x + y)) ∧ Does (.sub d a b) s (s.putG d (x - y)) ∧ Does (.and d a b) s (s.putG d (x &&& y))
      ∧ Does (.or d a b) s (s.putG d (x ||| y)) ∧ Does (.xor d a b) s (s.putG d (x ^^^ y)) ∧ Does (.sll d a b) s (s.putG d (x <<< sh))
      ∧ Does (.srl d a b) s (s.putG d (x >>> sh)) ∧ Does (.sra d a b) s (s.putG d (x.sshiftRight sh))
      ∧ Does (.slt d a b) s (s.putG d (if x.toInt < y.toInt then 1 else 0)) ∧ Does (.sltu d a b) s (s.putG d (if x.toNat < y.toNat then 1 else 0))
      ∧ Does (.min d a b) s (s.putG d (if x.toInt ≤ y.toInt then x else y)) ∧ Does (.max d a b) s (s.putG d (if y.toInt ≤ x.toInt then x else y))
      ∧ Does (.addw d a b) s (s.putG d ((x.setWidth 32 + y.setWidth 32).signExtend 64))
      ∧ Does (.subw d a b) s (s.putG d ((x.setWidth 32 - y.setWidth 32).signExtend 64))

/-- R91, R44: the products and quotients, usable after 3 and 18 beats; a zero divisor gives all ones and the dividend, and the most
negative value by −1 gives itself and remainder 0. -/
def Sys2Proof.Claims.MulDivResults : Prop :=
  ∀ d a b s, Clear s →
    let x := s.me.g a
    let y := s.me.g b
    Does (.mul d a b) s (s.putG d (BitVec.ofNat 64 (x.toNat * y.toNat)) 3)
      ∧ Does (.mulh d a b) s (s.putG d (BitVec.ofInt 64 (x.toInt * y.toInt / 2 ^ 64)) 3)
      ∧ Does (.mulhu d a b) s (s.putG d (BitVec.ofNat 64 (x.toNat * y.toNat / 2 ^ 64)) 3)
      ∧ Does (.div d a b) s (s.putG d (if y = 0 then BitVec.allOnes 64 else BitVec.ofInt 64 (x.toInt.tdiv y.toInt)) 18)
      ∧ Does (.divu d a b) s (s.putG d (if y = 0 then BitVec.allOnes 64 else BitVec.ofNat 64 (x.toNat / y.toNat)) 18)
      ∧ Does (.rem d a b) s (s.putG d (if y = 0 then x else BitVec.ofInt 64 (x.toInt.tmod y.toInt)) 18)
      ∧ Does (.remu d a b) s (s.putG d (if y = 0 then x else BitVec.ofNat 64 (x.toNat % y.toNat)) 18)
      ∧ (x.toInt = -2 ^ 63 → y.toInt = -1 → Does (.div d a b) s (s.putG d x 18) ∧ Does (.rem d a b) s (s.putG d 0 18))

/-- R92: the BIT instructions: CLZ and CTZ count the zeros above the highest and below the lowest one bit (64 for a zero), POPC the one
bits; BREV moves bit i to bit 63 − i, and BSWAP byte i to byte 7 − i. -/
def Sys2Proof.Claims.BitResults : Prop :=
  ∀ d a s, Clear s →
    let x := s.me.g a
    (∃ n, Does (.clz d a) s (s.putG d (BitVec.ofNat 64 n)) ∧ n ≤ 64 ∧ (∀ j, 64 - n ≤ j → x.getLsbD j = false) ∧ (n < 64 → x.getLsbD (63 - n) = true))
      ∧ (∃ n, Does (.ctz d a) s (s.putG d (BitVec.ofNat 64 n)) ∧ n ≤ 64 ∧ (∀ j < n, x.getLsbD j = false) ∧ (n < 64 → x.getLsbD n = true))
      ∧ Does (.popc d a) s (s.putG d (BitVec.ofNat 64 ((List.range 64).countP x.getLsbD)))
      ∧ (∃ w : Word, Does (.brev d a) s (s.putG d w) ∧ ∀ j < 64, w.getLsbD j = x.getLsbD (63 - j))
      ∧ ∃ w : Word, Does (.bswap d a) s (s.putG d w) ∧ ∀ j < 8, bits w (8 * j + 7) (8 * j) = bits x (63 - 8 * j) (56 - 8 * j)

/-- The word of an instruction, as a sum of its fields at their places. -/
def Sys2Proof.Claims.Word32 (i : Instr) (n : Nat) : Prop := encode i = some (BitVec.ofNat 32 n)

/-- R90, R91, R92: the words of the ALU, MULDIV and BIT instructions; a word of these majors with another bit set is none of them. -/
def Sys2Proof.Claims.IntegerWords : Prop :=
  (∀ d a b : Reg,
    let w (fn : Nat) : Nat := d.toNat * 2 ^ 21 + a.toNat * 2 ^ 16 + b.toNat * 2 ^ 11 + fn
    let v (fn : Nat) : Nat := d.toNat * 2 ^ 21 + a.toNat * 2 ^ 16 + fn
    Word32 (.add d a b) (0x04000000 + w 0) ∧ Word32 (.sub d a b) (0x04000000 + w 1) ∧ Word32 (.and d a b) (0x04000000 + w 2)
      ∧ Word32 (.or d a b) (0x04000000 + w 3) ∧ Word32 (.xor d a b) (0x04000000 + w 4) ∧ Word32 (.sll d a b) (0x04000000 + w 5)
      ∧ Word32 (.srl d a b) (0x04000000 + w 6) ∧ Word32 (.sra d a b) (0x04000000 + w 7) ∧ Word32 (.slt d a b) (0x04000000 + w 8)
      ∧ Word32 (.sltu d a b) (0x04000000 + w 9) ∧ Word32 (.min d a b) (0x04000000 + w 10) ∧ Word32 (.max d a b) (0x04000000 + w 11)
      ∧ Word32 (.addw d a b) (0x04000000 + w 12) ∧ Word32 (.subw d a b) (0x04000000 + w 13) ∧ Word32 (.mul d a b) (0x08000000 + w 0)
      ∧ Word32 (.mulh d a b) (0x08000000 + w 1) ∧ Word32 (.mulhu d a b) (0x08000000 + w 2) ∧ Word32 (.div d a b) (0x08000000 + w 3)
      ∧ Word32 (.divu d a b) (0x08000000 + w 4) ∧ Word32 (.rem d a b) (0x08000000 + w 5) ∧ Word32 (.remu d a b) (0x08000000 + w 6)
      ∧ Word32 (.clz d a) (0x0C000000 + v 0) ∧ Word32 (.ctz d a) (0x0C000000 + v 1) ∧ Word32 (.popc d a) (0x0C000000 + v 2)
      ∧ Word32 (.brev d a) (0x0C000000 + v 3) ∧ Word32 (.bswap d a) (0x0C000000 + v 4))
    ∧ ∀ w : BitVec 32, (w.toNat / 2 ^ 26 = 1 ∧ (14 ≤ bits (w.setWidth 64) 10 0)) ∨ (w.toNat / 2 ^ 26 = 2 ∧ 7 ≤ bits (w.setWidth 64) 10 0)
      ∨ (w.toNat / 2 ^ 26 = 3 ∧ 5 ≤ bits (w.setWidth 64) 15 0) → ∃ e, decode w = .error e

/-- R93 to R95, R101: immediates, shifts, fields, constants and SEL. -/
def Sys2Proof.Claims.ImmediateResults : Prop :=
  ∀ d a b c (im : BitVec 16) (sh p l : BitVec 6) (li : BitVec 21) s, Clear s →
    let x := s.me.g a
    Does (.addi d a im) s (s.putG d (x + im.signExtend 64)) ∧ Does (.andi d a im) s (s.putG d (x &&& im.setWidth 64))
      ∧ Does (.ori d a im) s (s.putG d (x ||| im.setWidth 64)) ∧ Does (.xori d a im) s (s.putG d (x ^^^ im.setWidth 64))
      ∧ Does (.slti d a im) s (s.putG d (if x.toInt < im.toInt then 1 else 0))
      ∧ Does (.slli d a sh) s (s.putG d (x <<< sh.toNat)) ∧ Does (.srli d a sh) s (s.putG d (x >>> sh.toNat))
      ∧ Does (.srai d a sh) s (s.putG d (x.sshiftRight sh.toNat))
      ∧ (1 ≤ l.toNat → p.toNat + l.toNat ≤ 64 →
          Does (.extz d a p l) s (s.putG d (BitVec.ofNat 64 (x.toNat / 2 ^ p.toNat % 2 ^ l.toNat)))
            ∧ Does (.exts d a p l) s (s.putG d ((BitVec.ofNat l.toNat (x.toNat / 2 ^ p.toNat)).signExtend 64))
            ∧ ∃ w, Does (.ins d a p l) s (s.putG d w) ∧ ∀ j < 64, w.getLsbD j =
                if p.toNat ≤ j ∧ j < p.toNat + l.toNat then x.getLsbD (j - p.toNat) else (s.me.g d).getLsbD j)
      ∧ (l = 0 ∨ 64 < p.toNat + l.toNat →
          Traps (.extz d a p l) s .illegalInstruction 0 ∧ Traps (.exts d a p l) s .illegalInstruction 0 ∧ Traps (.ins d a p l) s .illegalInstruction 0)
      ∧ Does (.li d li) s (s.putG d (li.signExtend 64)) ∧ Does (.lim d li) s (s.putG d ((s.me.g d <<< 21) ||| li.setWidth 64))
      ∧ Does (.addpc d li) s (s.putG d (s.pc + li.signExtend 64 * 4))
      ∧ Does (.sel d a b c) s (s.putG d (if s.me.g c ≠ 0 then x else s.me.g b))

/-- R93, R94, R95, R101: the words of the immediate instructions and SEL; a shift whose second field is not zero and a SEL with another bit
set is none. -/
def Sys2Proof.Claims.ImmediateWords : Prop :=
  (∀ (d a b c : Reg) (im : BitVec 16) (sh p l : BitVec 6) (li : BitVec 21),
    let f : Nat := d.toNat * 2 ^ 21 + a.toNat * 2 ^ 16
    Word32 (.addi d a im) (4 * 2 ^ 26 + f + im.toNat) ∧ Word32 (.andi d a im) (5 * 2 ^ 26 + f + im.toNat)
      ∧ Word32 (.ori d a im) (6 * 2 ^ 26 + f + im.toNat) ∧ Word32 (.xori d a im) (7 * 2 ^ 26 + f + im.toNat)
      ∧ Word32 (.slti d a im) (8 * 2 ^ 26 + f + im.toNat) ∧ Word32 (.slli d a sh) (0x28000000 + f + sh.toNat * 2 ^ 10 + 0)
      ∧ Word32 (.srli d a sh) (0x28000000 + f + sh.toNat * 2 ^ 10 + 1) ∧ Word32 (.srai d a sh) (0x28000000 + f + sh.toNat * 2 ^ 10 + 2)
      ∧ (1 ≤ l.toNat → p.toNat + l.toNat ≤ 64 → Word32 (.exts d a p l) (0x28000000 + f + p.toNat * 2 ^ 10 + l.toNat * 2 ^ 4 + 3))
      ∧ (1 ≤ l.toNat → p.toNat + l.toNat ≤ 64 → Word32 (.extz d a p l) (0x28000000 + f + p.toNat * 2 ^ 10 + l.toNat * 2 ^ 4 + 4))
      ∧ (1 ≤ l.toNat → p.toNat + l.toNat ≤ 64 → Word32 (.ins d a p l) (0x28000000 + f + p.toNat * 2 ^ 10 + l.toNat * 2 ^ 4 + 5))
      ∧ Word32 (.li d li) (0x2C000000 + d.toNat * 2 ^ 21 + li.toNat) ∧ Word32 (.lim d li) (0x30000000 + d.toNat * 2 ^ 21 + li.toNat)
      ∧ Word32 (.addpc d li) (0x34000000 + d.toNat * 2 ^ 21 + li.toNat)
      ∧ Word32 (.sel d a b c) (0x74000000 + f + b.toNat * 2 ^ 11 + c.toNat * 2 ^ 6))
    ∧ ∀ w : BitVec 32, (w.toNat / 2 ^ 26 = 0x0A ∧ bits (w.setWidth 64) 3 0 ≤ 2 ∧ bits (w.setWidth 64) 9 4 ≠ 0)
      ∨ (w.toNat / 2 ^ 26 = 0x1D ∧ bits (w.setWidth 64) 5 0 ≠ 0) → ∃ e, decode w = .error e

/-! ### Control transfer (R97 to R99, R198) -/

/-- R97: a conditional branch goes to PC + Sext(off16) × 4 when its condition holds and to PC + 4 otherwise, and writes no register. -/
def Sys2Proof.Claims.BranchTargets : Prop :=
  ∀ a b (o : BitVec 16) s, Clear s →
    let x := s.me.g a
    let y := s.me.g b
    let go (c : Prop) [Decidable c] : Word := if c then s.pc + o.signExtend 64 * 4 else s.pc + 4
    Jumps (.beq a b o) s s (go (x = y)) ∧ Jumps (.bne a b o) s s (go (x ≠ y)) ∧ Jumps (.blt a b o) s s (go (x.toInt < y.toInt))
      ∧ Jumps (.bge a b o) s s (go (y.toInt ≤ x.toInt)) ∧ Jumps (.bltu a b o) s s (go (x.toNat < y.toNat))
      ∧ Jumps (.bgeu a b o) s s (go (y.toNat ≤ x.toNat))

/-- R98, R99, R198: J, CALL, JR, CALLR and MRTN: the targets, the link in g31 (the target of CALLR is read first), and MISALIGNED for a
register target that is no multiple of 4, with nothing written. -/
def Sys2Proof.Claims.JumpTargets : Prop :=
  ∀ a (o : BitVec 26) s, Clear s →
    let x := s.me.g a
    Jumps (.j o) s s (s.pc + o.signExtend 64 * 4) ∧ Jumps (.call o) s (s.putG 31 (s.pc + 4)) (s.pc + o.signExtend 64 * 4)
      ∧ (x.toNat % 4 = 0 → Jumps (.jr a) s s x ∧ Jumps (.callr a) s (s.putG 31 (s.pc + 4)) x)
      ∧ (x.toNat % 4 ≠ 0 → Traps (.jr a) s .misaligned x ∧ Traps (.callr a) s .misaligned x)
      ∧ (s.me.mret.toNat % 4 = 0 → Jumps .mrtn s s s.me.mret) ∧ (s.me.mret.toNat % 4 ≠ 0 → Traps .mrtn s .misaligned s.me.mret)

/-- R97, R98, R99: the words of the branches and jumps; a word of major 0x16 with another bit set is none of them. -/
def Sys2Proof.Claims.TransferWords : Prop :=
  (∀ (a b : Reg) (o : BitVec 16) (p : BitVec 26),
    let f : Nat := a.toNat * 2 ^ 21 + b.toNat * 2 ^ 16 + o.toNat
    Word32 (.beq a b o) (0xe * 2 ^ 26 + f) ∧ Word32 (.bne a b o) (0xf * 2 ^ 26 + f) ∧ Word32 (.blt a b o) (0x10 * 2 ^ 26 + f)
      ∧ Word32 (.bge a b o) (0x11 * 2 ^ 26 + f) ∧ Word32 (.bltu a b o) (0x12 * 2 ^ 26 + f) ∧ Word32 (.bgeu a b o) (0x13 * 2 ^ 26 + f)
      ∧ Word32 (.j p) (0x50000000 + p.toNat) ∧ Word32 (.call p) (0x54000000 + p.toNat) ∧ Word32 (.jr a) (0x58000000 + a.toNat * 2 ^ 16)
      ∧ Word32 (.callr a) (0x58000001 + a.toNat * 2 ^ 16))
    ∧ ∀ w : BitVec 32, w.toNat / 2 ^ 26 = 0x16 → (bits (w.setWidth 64) 25 21 ≠ 0 ∨ 2 ≤ bits (w.setWidth 64) 15 0) → ∃ e, decode w = .error e

/-! ### Scratchpad loads and stores (R18, R102, R103) -/

/-- R18: the first check an access of 1, 2, 4 or 8 bytes fails is the trap of a load and of a store, with TRAPVA the address: SCRATCH_BOUNDS,
then MISALIGNED, then PANE_OWNERSHIP. -/
def Sys2Proof.Claims.ScratchpadChecks : Prop :=
  ∀ r a (o : BitVec 13) s, Clear s →
    let ea := s.ea a o
    let va := BitVec.ofInt 64 ea
    let bad (n : Nat) (c : Cause) : Prop := Fails s ea n c
    ∀ c, (bad 1 c → Traps (.ldb r a o) s c va ∧ Traps (.ldbu r a o) s c va ∧ Traps (.stb r a o) s c va)
      ∧ (bad 2 c → Traps (.ldh r a o) s c va ∧ Traps (.ldhu r a o) s c va ∧ Traps (.sth r a o) s c va)
      ∧ (bad 4 c → Traps (.ldw r a o) s c va ∧ Traps (.ldwu r a o) s c va ∧ Traps (.stw r a o) s c va)
      ∧ (bad 8 c → Traps (.ldd r a o) s c va ∧ Traps (.std r a o) s c va)

/-- R102: a scratchpad load that passes R18 reads its bytes little-endian and extends them; the result is usable after 3 beats.  One that meets a
poisoned doubleword traps UNCORRECTABLE_DATA (R374). -/
def Sys2Proof.Claims.LoadResults : Prop :=
  ∀ d a (o : BitVec 13) s, Clear s →
    let ea := s.ea a o
    let m (n : Nat) : Nat := ((List.range n).map fun j => (s.my.sp.get (ea.toNat + j)).toNat * 256 ^ j).sum
    (Loadable s ea 1 → Does (.ldb d a o) s (s.putG d ((BitVec.ofNat 8 (m 1)).signExtend 64) 3)
        ∧ Does (.ldbu d a o) s (s.putG d (BitVec.ofNat 64 (m 1)) 3))
      ∧ (Loadable s ea 2 → Does (.ldh d a o) s (s.putG d ((BitVec.ofNat 16 (m 2)).signExtend 64) 3)
        ∧ Does (.ldhu d a o) s (s.putG d (BitVec.ofNat 64 (m 2)) 3))
      ∧ (Loadable s ea 4 → Does (.ldw d a o) s (s.putG d ((BitVec.ofNat 32 (m 4)).signExtend 64) 3)
        ∧ Does (.ldwu d a o) s (s.putG d (BitVec.ofNat 64 (m 4)) 3))
      ∧ (Loadable s ea 8 → Does (.ldd d a o) s (s.putG d (BitVec.ofNat 64 (m 8)) 3))
      ∧ let meets (i : Instr) (n : Nat) : Prop :=
          Reachable s ea n → s.my.spPoisoned ea.toNat n = true → Traps i s .uncorrectableData (BitVec.ofInt 64 ea)
        meets (.ldb d a o) 1 ∧ meets (.ldbu d a o) 1 ∧ meets (.ldh d a o) 2 ∧ meets (.ldhu d a o) 2 ∧ meets (.ldw d a o) 4
          ∧ meets (.ldwu d a o) 4 ∧ meets (.ldd d a o) 8

/-- R102: the words of the scratchpad loads. -/
def Sys2Proof.Claims.LoadWords : Prop :=
  ∀ (d a : Reg) (o : BitVec 13),
    let w (fn : Nat) : Nat := 0x5C000000 + d.toNat * 2 ^ 21 + a.toNat * 2 ^ 16 + fn * 2 ^ 13 + o.toNat
    Word32 (.ldb d a o) (w 0) ∧ Word32 (.ldbu d a o) (w 1) ∧ Word32 (.ldh d a o) (w 2) ∧ Word32 (.ldhu d a o) (w 3)
      ∧ Word32 (.ldw d a o) (w 4) ∧ Word32 (.ldwu d a o) (w 5) ∧ Word32 (.ldd d a o) (w 6)

/-- R103: a scratchpad store that passes R18, on a tile with no injection armed for its scratchpad (R407) and a scratchpad in canonical
form, writes the low bytes of its register little-endian at the address: each stored byte reads as that byte of the register, every
other byte of the scratchpad reads as before, and nothing else changes but the pc and the count of the issuing context.
(The model's own choices and readings in it: log 20.) -/
def Obligations.ScratchpadStores : Prop :=
  ∀ r a (o : BitVec 13) s, Clear s → s.my.armed 0 = false → s.my.sp.wf = true →
    let ea := s.ea a o
    let stores (i : Instr) (n : Nat) : Prop :=
      ∃ t, exec i s = .next t ∧ (∀ j < n, t.my.sp.get (ea.toNat + j) = BitVec.ofNat 8 ((s.me.g r).toNat / 256 ^ j))
        ∧ (∀ x, (x < ea.toNat ∨ ea.toNat + n ≤ x) → t.my.sp.get x = s.my.sp.get x)
        ∧ t.me = { s.me with pc := s.pc + 4, icount := s.me.icount + 1, status := .running, wait := none, parkedVa := none, refilled := false,
                             refetched := false, word := none, waitsOn := [] }
        ∧ { t.my with ctxs := s.my.ctxs, sp := s.my.sp, spPoison := s.my.spPoison } = s.my ∧ { t with tiles := s.tiles } = s
        ∧ (∀ c, c ≠ s.who.val → t.my.ctx c = s.my.ctx c) ∧ ∀ x, x % 32768 ≠ s.cur % 32768 → t.tile x = s.tile x
    (Reachable s ea 1 → stores (.stb r a o) 1) ∧ (Reachable s ea 2 → stores (.sth r a o) 2) ∧ (Reachable s ea 4 → stores (.stw r a o) 4)
      ∧ (Reachable s ea 8 → stores (.std r a o) 8)

/-! ### Scalar floating point (R105 to R111) -/

/-- R105 to R111, R89: each scalar floating-point instruction that rounds gives the operation of its table, rounded once under ST.RM, with
its flags and its draw. -/
def Sys2Proof.Claims.FloatArithmetic : Prop :=
  ∀ d a b c p s, Clear s →
    let k := s.me
    let f := precFmt p
    let x := k.fval p a
    let y := k.fval p b
    let z := k.fval p c
    Rounds (.fadd d a b p) s d (fAdd f k.mode x y) 4 ∧ Rounds (.fsub d a b p) s d (fAdd f k.mode x y.neg) 4
      ∧ Rounds (.fmul d a b p) s d (fMul f k.mode x y) 4
      ∧ Rounds (.fdiv d a b p) s d (fDiv f k.mode x y) (match p with | .s => 10 | .d => 16)
      ∧ Rounds (.fsqrt d a p) s d (fSqrt f k.mode x) (match p with | .s => 12 | .d => 20)
      ∧ Rounds (.fmadd d a b c p) s d (fMa f k.mode false false x y z) 4 ∧ Rounds (.fmsub d a b c p) s d (fMa f k.mode false true x y z) 4
      ∧ Rounds (.fnmadd d a b c p) s d (fMa f k.mode true false x y z) 4
      ∧ Rounds (.fcvtSD d a) s d (fCvt fp32 k.mode (k.fval .d a)) 3 ∧ Rounds (.fcvtWS d a) s d (intRes (fToInt 32 k.mode (k.fval .s a))) 3
      ∧ Rounds (.fcvtSW d a) s d (fCvt fp32 k.mode (ofInt ((k.g a).setWidth 32).toInt)) 3
      ∧ Rounds (.fcvtLD d a) s d (intRes (fToInt 64 k.mode (k.fval .d a))) 3
      ∧ Rounds (.fcvtDL d a) s d (fCvt fp64 k.mode (ofInt (k.g a).toInt)) 3

/-- R107 to R110: the scalar floating-point instructions that never round: minimum and maximum of numbers, comparisons (FEQ signals for a
signalling NaN alone, FLT and FLE for any), the class, and the exact widening. -/
def Sys2Proof.Claims.FloatComparisons : Prop :=
  ∀ d a b p s, Clear s →
    let k := s.me
    let x := k.fval p a
    let y := k.fval p b
    let ans (r nv : Bool) : FRes := ⟨if r then 1 else 0, { nv := nv }, false⟩
    Compares (.fmin d a b p) s d (fMinMax (precFmt p) false (k.fop p a) (k.fop p b)) 2
      ∧ Compares (.fmax d a b p) s d (fMinMax (precFmt p) true (k.fop p a) (k.fop p b)) 2
      ∧ Compares (.feq d a b p) s d (ans (fEq x y) (x.isSig || y.isSig)) 2 ∧ Compares (.flt d a b p) s d (ans (fLt x y) (x.isNan || y.isNan)) 2
      ∧ Compares (.fle d a b p) s d (ans (fLe x y) (x.isNan || y.isNan)) 2
      ∧ Compares (.fclass d a p) s d ⟨fClass (precFmt p) (k.fop p a), {}, false⟩ 2
      ∧ Compares (.fcvtDS d a) s d (fCvt fp64 modeRne (k.fval .s a)) 3

/-- R41: under STO a rounding scalar instruction makes one draw, the generator's next state; in every other mode the generator stays. -/
def Sys2Proof.Claims.OneDraw : Prop :=
  ∀ s : State, (s.me.rm = 5 → s.drewOne.me.rngseed = drawStep s.me.rngseed) ∧ (s.me.rm ≠ 5 → s.drewOne.me.rngseed = s.me.rngseed)
    ∧ s.drewOne.me.gs = s.me.gs ∧ s.drewOne.me.st = s.me.st ∧ OnlyMe s s.drewOne

/-! ### Vector instructions (R112 to R138) -/

/-- R116: each VALU instruction computes its lanes from the lanes of va and of vb, or of the low element of gb where X is 1. -/
def Obligations.VectorIntegers : Prop :=
  ∀ d a b k lw (x : Bool) s, Clear s →
    let w := laneW lw
    let p (l : Nat) : BitVec w := BitVec.ofNat w (laneOf (s.me.v a) w l)
    let q (l : Nat) : BitVec w := BitVec.ofNat w (if x then (s.me.g b).toNat else laneOf (s.me.v b) w l)
    let does (i : Instr) (lat : Nat) (f : BitVec w → BitVec w → BitVec w) : Prop := Lanes i s d w lat k s.me.zm (fun l => (f (p l) (q l)).toNat) {}
    does (.vadd d a b k lw x) 2 (· + ·) ∧ does (.vsub d a b k lw x) 2 (· - ·) ∧ does (.vmul d a b k lw x) 3 (· * ·)
      ∧ does (.vmulh d a b k lw x) 3 (fun m n => BitVec.ofInt w (m.toInt * n.toInt / 2 ^ w))
      ∧ does (.vand d a b k lw x) 2 (· &&& ·) ∧ does (.vor d a b k lw x) 2 (· ||| ·) ∧ does (.vxor d a b k lw x) 2 (· ^^^ ·)
      ∧ does (.vshl d a b k lw x) 2 (fun m n => m <<< (n.toNat % w)) ∧ does (.vshr d a b k lw x) 2 (fun m n => m >>> (n.toNat % w))
      ∧ does (.vsar d a b k lw x) 2 (fun m n => m.sshiftRight (n.toNat % w))
      ∧ does (.vmin d a b k lw x) 2 (fun m n => if m.toInt ≤ n.toInt then m else n)
      ∧ does (.vmax d a b k lw x) 2 (fun m n => if n.toInt ≤ m.toInt then m else n)

/-- R117, R70, R41, R42: VFADD, VFSUB and VFMUL compute each active lane under the rounding code and saturation of the prefix, or of ST.RM
without one, with one draw for each active lane in ascending order, raise the flags of the active lanes and clear PEND; EVC1 counts those
saturated and EVC2 the invalid operations (R39); a prefix with another field set, or a rounding code of 6 or 7, traps ILLEGAL_PREFIX.
(The model's own choices and readings in it: logs 14, 23.) -/
def Sys2Proof.Claims.VectorArithmetic : Prop :=
  ∀ d a b k t (x : Bool) s, Unspent s →
    let f := ftyFmt t
    let w := f.width
    let act := active (s.me.k k) w
    let does (i : Instr) (op : Mode → FVal → FVal → FRes) : Prop :=
      (∀ rm sat, s.me.vfpMode = some (rm, sat) →
          let r (l : Nat) : FRes := op ⟨rm, sat, drawAt s.me.rngseed act l⟩ (s.me.laneF f a l) (s.me.laneFB f x b l)
          let high (l : Nat) : Bool :=
            match f.dec (op ⟨rm, false, drawAt s.me.rngseed act l⟩ (s.me.laneF f a l) (s.me.laneFB f x b l)).bits with
            | .inf _ => true
            | _ => (r l).fl.of
          Lanes i s d w 4 k s.me.zm (fun l => (r l).bits) (laneFlags (1024 / w) act fun l => (r l).fl)
            ∧ Tallied i s rm (1024 / w) act act fun l => ⟨(r l).bits, (r l).fl, false, sat && high l, (r l).bad, false, false⟩)
        ∧ (s.me.vfpMode = none → Traps i s .illegalPrefix 0)
    does (.vfadd d a b k t x) (fAdd f) ∧ does (.vfsub d a b k t x) (fun md m n => fAdd f md m n.neg) ∧ does (.vfmul d a b k t x) (fMul f)
      ∧ (s.me.pendBit = false → s.me.vfpMode = some (rmOf s.me.rm, false))
      ∧ (s.me.pendBit = true → ∀ rm sat, s.me.vfpMode = some (rm, sat) ↔
          s.me.pfx.toNat / 2 ^ 13 = 0 ∧ s.me.pfx.toNat / 2 ^ 5 % 16 = 0 ∧ s.me.pfx.toNat / 2 ^ 10 % 8 ≤ 5
            ∧ rm = rmOf (s.me.pfx.toNat / 2 ^ 10 % 8) ∧ sat = s.me.pfx.toNat.testBit 9)

/-- R117, R43: minimum and maximum, and the four functions, lane by lane; they take no prefix and never draw, and EVC2 counts their invalid
operations (R39).
(The model's own choices and readings in it: logs 15, 23.) -/
def Sys2Proof.Claims.VectorFunctions : Prop :=
  ∀ d a b k t (x : Bool) s, Clear s →
    let f := ftyFmt t
    let w := f.width
    let act := active (s.me.k k) w
    let does (i : Instr) (lat : Nat) (r : Nat → FRes) : Prop :=
      Lanes i s d w lat k s.me.zm (fun l => (r l).bits) (laneFlags (1024 / w) act fun l => (r l).fl)
        ∧ Tallied i s .rne (1024 / w) act act fun l => ⟨(r l).bits, (r l).fl, false, false, (r l).bad, false, false⟩
    let m (isMax : Bool) (l : Nat) : FRes := fMinMax f isMax (laneOf (s.me.v a) w l) (s.me.laneB x b w l)
    does (.vfmin d a b k t x) 4 (m false) ∧ does (.vfmax d a b k t x) 4 (m true)
      ∧ does (.vfexp2 d a k t) 8 (fun l => fExp2 f (s.me.laneF f a l)) ∧ does (.vflog2 d a k t) 8 (fun l => fLog2 f (s.me.laneF f a l))
      ∧ does (.vfrcp d a k t) 8 (fun l => fRcp f (s.me.laneF f a l)) ∧ does (.vfrsq d a k t) 8 (fun l => fRsq f (s.me.laneF f a l))

/-- R118: VFMA, VFMS and VFNMA: lane i of the result is the exact sum of the products of the elements of va and vb inside it and of the
addend, negated for VFNMA, rounded once into the addend's format; without a prefix every operand is FP32; the draws, flags and events are those
of the active lanes.  A prefix that R118 does not allow traps ILLEGAL_PREFIX.
(The model's own choices and readings in it: logs 14, 23.) -/
def Obligations.VectorFused : Prop :=
  (∀ d a b c k s, Unspent s → s.me.vfmaMode = none →
      Traps (.vfma d a b c k) s .illegalPrefix 0 ∧ Traps (.vfms d a b c k) s .illegalPrefix 0 ∧ Traps (.vfnma d a b c k) s .illegalPrefix 0)
    ∧ (∀ (s : State) (f : Pfx), s.me.pfxNow = some f → (s.me.vfmaMode = none ↔ ¬ (f.a ≤ 4 ∧ f.b ≤ 4 ∧ elemWidth f.a = elemWidth f.b ∧ f.c ≤ 2
        ∧ elemWidth f.a ≤ elemWidth f.c ∧ f.scale = 0 ∧ f.delta = 0 ∧ f.rnd ≤ 5))
      ∧ ∀ m, s.me.vfmaMode = some m → m = (f.a, f.b, f.c, rmOf f.rnd, f.sat))
    ∧ ∀ d a b c k s ca cb cc rm sat, Unspent s → s.me.vfmaMode = some (ca, cb, cc, rm, sat) →
    let wa := elemWidth ca
    let wc := elemWidth cc
    let act := active (s.me.k k) wc
    let prods (l : Nat) : List (FVal × FVal) := (List.range (wc / wa)).map fun t =>
      (decElem ca (laneOf (s.me.v a) wa (l * (wc / wa) + t)), decElem cb (laneOf (s.me.v b) wa (l * (wc / wa) + t)))
    let does (i : Instr) (negAll negC : Bool) : Prop :=
      let r (l : Nat) : LaneOut :=
        let z := ((fmtOf cc).getD fp32).dec (laneOf (s.me.v c) wc l)
        fusedLane ((fmtOf cc).getD fp32) (cc != 0) ⟨rm, sat, drawAt s.me.rngseed act l⟩ negAll (prods l) (if negC then z.neg else z)
      Lanes i s d wc 4 k s.me.zm (fun l => (r l).bits) (laneFlags (1024 / wc) act fun l => (r l).fl)
        ∧ Tallied i s rm (1024 / wc) act act r
    does (.vfma d a b c k) false false ∧ does (.vfms d a b c k) false true ∧ does (.vfnma d a b c k) true false
      ∧ (s.me.pendBit = false → ca = 0 ∧ cb = 0 ∧ cc = 0 ∧ rm = rmOf s.me.rm ∧ sat = false)

/-- R69, R70, R119, R120: FMTX sets PFX to the payload of its word and PEND; VCVT without a prefix traps ILLEGAL_PREFIX; with a prefix
from format A to format B it converts the elements of its part, each active one decoded, rounded and encoded, and keeps or zeroes the
others; the draws, flags and events are those of the active elements.  A prefix that R120 and R49 do not allow traps ILLEGAL_PREFIX.
(The model's own choices and readings in it: logs 14, 23.) -/
def Obligations.Conversions : Prop :=
  (∀ a b c sc r t dl s, Clear s →
      Does (.fmtx a b c sc r t dl) s (s.onMe fun k => { k with pfx := a ++ b ++ c ++ sc ++ r ++ BitVec.ofBool t ++ dl ++ 0#5, st := k.st ||| 0x10 }))
    ∧ ∀ d a (z : Bool) (p : BitVec 2) k s, Unspent s →
      (s.me.pendBit = false → Traps (.vcvt d a z p k) s .illegalPrefix 0)
        ∧ (∀ f, s.me.pfxNow = some f →
          ¬ ((f.a ≤ 10 ∨ f.a = 15) ∧ (f.b ≤ 10 ∨ f.b = 15) ∧ f.c = 0 ∧ f.scale = 0 ∧ f.delta = 0 ∧ f.rnd ≤ 5) → Traps (.vcvt d a z p k) s .illegalPrefix 0)
        ∧ ∀ f, s.me.pfxNow = some f → (f.a ≤ 10 ∨ f.a = 15) → (f.b ≤ 10 ∨ f.b = 15) → f.c = 0 → f.scale = 0 → f.delta = 0 → f.rnd ≤ 5 →
          let ea := elemCount f.a
          let eb := elemCount f.b
          let n := min ea eb
          let act := activePart (s.me.k k) n
          let src := if ea > n then p.toNat * n else 0
          let dst := if eb > n then p.toNat * n else 0
          let r (t : Nat) : Rounded :=
            encElem f.b ⟨rmOf f.rnd, f.sat, drawAt s.me.rngseed act t⟩ (decElem f.a (laneOf (s.me.v a) (elemWidth f.a) (src + t)))
          (max ea eb < (p.toNat + 1) * n → Traps (.vcvt d a z p k) s .illegalPrefix 0)
            ∧ ((p.toNat + 1) * n ≤ max ea eb → ∃ u v, exec (.vcvt d a z p k) s = .next u
              ∧ u.me.pend = s.me.pend ++ [⟨.v d, some v, s.beat + 4⟩] ∧ u.me.pc = s.pc + 4 ∧ u.me.pendBit = false
              ∧ (∀ t < n, laneOf v (elemWidth f.b) (dst + t) = if act t then (r t).bits % 2 ^ elemWidth f.b
                  else if s.me.zm || z then 0 else laneOf (s.me.v d) (elemWidth f.b) (dst + t))
              ∧ ∀ j < eb, (j < dst ∨ dst + n ≤ j) → laneOf v (elemWidth f.b) j = laneOf (s.me.v d) (elemWidth f.b) j)
            ∧ ((p.toNat + 1) * n ≤ max ea eb → Tallied (.vcvt d a z p k) s (rmOf f.rnd) n act act fun t =>
              { LaneOut.ofRounded (r t) (decide (1 ≤ f.b ∧ f.b ≤ 14)) with inval := invalidElem f.a (laneOf (s.me.v a) (elemWidth f.a) (src + t)) })

/-- R121, R47, R48: VQBLK with a legal prefix quantizes each block of 32 elements of its part: its codes go to its elements of vd and its
exponents to its 16 bits of the side field, with one draw for each element it rounds (none in a block that becomes NaN whole, R41), and the flags
and events of its elements; without a prefix, and with one that R121 and R49 do not allow, it traps ILLEGAL_PREFIX.
(The model's own choices and readings in it: logs 14, 23.) -/
def Sys2Proof.Claims.BlockQuantize : Prop :=
  ∀ d a (p : BitVec 2) k s, Unspent s →
    (s.me.pendBit = false → Traps (.vqblk d a p k) s .illegalPrefix 0)
      ∧ (∀ f, s.me.pfxNow = some f →
        ¬ (f.a ≤ 2 ∧ ((12 ≤ f.b ∧ f.b ≤ 14 ∧ (f.scale = 0 ∨ f.scale = 3)) ∨ (3 ≤ f.b ∧ f.b ≤ 9 ∧ f.scale = 1 ∧ f.delta = 0)) ∧ f.c = 0
          ∧ f.rnd ≤ 5 ∧ (p.toNat + 1) * elemCount f.a ≤ 128) → Traps (.vqblk d a p k) s .illegalPrefix 0)
      ∧ ∀ f, s.me.pfxNow = some f →
        let dbf := 12 ≤ f.b ∧ f.b ≤ 14 ∧ (f.scale = 0 ∨ f.scale = 3)
        let n := elemCount f.a
        let act := activePart (s.me.k k) n
        let val (t : Nat) : FVal := decElem f.a (laneOf (s.me.v a) (elemWidth f.a) t)
        let live (t : Nat) : Bool := act t && (List.range 32).all fun i => !act (t / 32 * 32 + i) ||
          match val (t / 32 * 32 + i) with | .nan _ => false | .inf _ => decide (f.b < 12) || f.sat | .fin _ _ _ => true
        let elem (t : Nat) : Option (FVal × Nat) := if act t then some (val t, drawAt s.me.rngseed live t) else none
        let block (j : Nat) : Block :=
          let xs := (List.range 32).map fun i => elem (32 * j + i)
          if 12 ≤ f.b then quantDbf f.b f.delta (rmOf f.rnd) f.sat xs else quantMx f.b (rmOf f.rnd) xs
        f.a ≤ 2 → (dbf ∨ (3 ≤ f.b ∧ f.b ≤ 9 ∧ f.scale = 1 ∧ f.delta = 0)) → f.c = 0 → f.rnd ≤ 5 → (p.toNat + 1) * n ≤ 128 →
        Tallied (.vqblk d a p k) s (rmOf f.rnd) n (fun _ => true) live (fun t => (block (t / 32)).elems.getD (t % 32) ⟨0, {}, false, false, false, false, false⟩)
        ∧ ∃ u v x, exec (.vqblk d a p k) s = .next u
          ∧ u.me.pend = s.me.pend ++ [⟨.v d, some v, s.beat + 4⟩, ⟨.vx d, some x, s.beat + 4⟩] ∧ u.me.pc = s.pc + 4 ∧ u.me.pendBit = false
          ∧ (∀ j < n / 32, ∀ i < 32, laneOf v (elemWidth f.b) (p.toNat * n + 32 * j + i) =
              (((block j).elems[i]?.map (·.bits)).getD 0) % 2 ^ elemWidth f.b)
          ∧ (∀ j < n / 32, laneOf x 8 (2 * (p.toNat * n / 32 + j)) = (block j).ehi % 256 ∧ laneOf x 8 (2 * (p.toNat * n / 32 + j) + 1) = (block j).elo % 256)

/-- R122, R45, R48: VDQBLK with a legal prefix decodes the elements of its part under the exponents of their blocks and rounds them into
format B, with the draws, flags and events of the active ones; without a prefix, and with one that R122 and R49 do not allow, it traps
ILLEGAL_PREFIX.
(The model's own choices and readings in it: logs 14, 23.) -/
def Sys2Proof.Claims.BlockDequantize : Prop :=
  ∀ d a (z : Bool) (p : BitVec 2) k s, Unspent s →
    (s.me.pendBit = false → Traps (.vdqblk d a z p k) s .illegalPrefix 0)
      ∧ (∀ f, s.me.pfxNow = some f →
        ¬ (((3 ≤ f.a ∧ f.a ≤ 9 ∧ f.scale = 1) ∨ (12 ≤ f.a ∧ f.a ≤ 14 ∧ (f.scale = 0 ∨ f.scale = 3))) ∧ f.b ≤ 2 ∧ f.c = 0 ∧ f.delta = 0
          ∧ f.rnd ≤ 5 ∧ (p.toNat + 1) * elemCount f.b ≤ 128) → Traps (.vdqblk d a z p k) s .illegalPrefix 0)
      ∧ ∀ f, s.me.pfxNow = some f →
        let n := elemCount f.b
        let act := activePart (s.me.k k) n
        let r (t : Nat) : Rounded :=
          let j := p.toNat * n + t
          let x := laneOf (s.me.v a) (elemWidth f.a) j
          let ehi := bits (s.me.vx a) (16 * (j / 32) + 7) (16 * (j / 32))
          let elo := bits (s.me.vx a) (16 * (j / 32) + 15) (16 * (j / 32) + 8)
          encElem f.b ⟨rmOf f.rnd, f.sat, drawAt s.me.rngseed act t⟩ (if 12 ≤ f.a then decDbf f.a ehi elo x else decMx f.a ehi x)
        ((3 ≤ f.a ∧ f.a ≤ 9 ∧ f.scale = 1) ∨ (12 ≤ f.a ∧ f.a ≤ 14 ∧ (f.scale = 0 ∨ f.scale = 3))) →
        f.b ≤ 2 → f.c = 0 → f.delta = 0 → f.rnd ≤ 5 → (p.toNat + 1) * n ≤ 128 →
        Tallied (.vdqblk d a z p k) s (rmOf f.rnd) n act act (fun t => LaneOut.ofRounded (r t) (f.b != 0))
        ∧ ∃ u v, exec (.vdqblk d a z p k) s = .next u ∧ u.me.pend = s.me.pend ++ [⟨.v d, some v, s.beat + 4⟩] ∧ u.me.pc = s.pc + 4
          ∧ u.me.pendBit = false
          ∧ ∀ t < n, laneOf v (elemWidth f.b) t = if act t then (r t).bits % 2 ^ elemWidth f.b
              else if s.me.zm || z then 0 else laneOf (s.me.v d) (elemWidth f.b) t

/-- R52, R123: the reductions over the active lanes: VRSUM of integers is the wrapped sum, of FP32 the tree of R52 with −0 in the masked
lanes; VRMAX and VRMIN of integers the extreme, and the identity where no lane is active; VSCAN the running sums, those of FP32 with the flags and
the count of their additions.
(The model's own choices and readings in it: log 23.) -/
def Sys2Proof.Claims.Reductions : Prop :=
  ∀ d a k s, Clear s →
    let x (l : Nat) : Nat := laneOf (s.me.v a) 32 l
    let act (l : Nat) : Bool := (s.me.k k).getLsbD l
    let xs : List Int := ((List.range 32).filter act).map fun l => (BitVec.ofNat 32 (x l)).toInt
    let tree := treeSum fun l => if act l then x l else 0x80000000
    let nums : List Nat := ((List.range 32).filter act).map x
    let extreme (isMax : Bool) (none' : Nat) : Nat :=
      let r := match nums with | [] => none' | y :: t => t.foldl (fun m y => (fMinMax fp32 isMax m y).bits) y
      if (fp32.dec r).isNan then 0x7FC00000 else r
    let sigs : Fl := { nv := nums.any fun y => (fp32.dec y).isSig }
    Does (.vrsum d a k .i32) s (s.putG d ((BitVec.ofInt 32 xs.sum).signExtend 64) 6)
      ∧ Does (.vrsum d a k .f32) s (((s.raise tree.2.1).onMy (·.bumpEvc 2 tree.2.2)).putG d (BitVec.ofNat 64 tree.1) 6)
      ∧ Does (.vrmax d a k .i32) s (s.putG d (BitVec.ofInt 64 (xs.foldl max (-2 ^ 31))) 6)
      ∧ Does (.vrmin d a k .i32) s (s.putG d (BitVec.ofInt 64 (xs.foldl min (2 ^ 31 - 1))) 6)
      ∧ Does (.vrmax d a k .f32) s ((s.raise sigs).putG d (BitVec.ofNat 64 (extreme true 0xFF800000)) 6)
      ∧ Does (.vrmin d a k .f32) s ((s.raise sigs).putG d (BitVec.ofNat 64 (extreme false 0x7F800000)) 6)
      ∧ Lanes (.vscan d a k .i32) s d 32 6 k s.me.zm (fun l => (((List.range (l + 1)).filter act).map x).sum) {}
      ∧ (∃ t v, exec (.vscan d a k .f32) s = .next t ∧ t.me.pend = s.me.pend ++ [⟨.v d, some v, s.beat + 6⟩] ∧ t.me.pc = s.pc + 4
        ∧ ∀ l < 32, laneOf v 32 l = if act l
            then (fAdd fp32 modeRne (fp32.dec (scanF32 act x l).1) (fp32.dec (x l))).bits % 2 ^ 32
            else if s.me.zm then 0 else laneOf (s.me.v d) 32 l)
        ∧ Tallied (.vscan d a k .f32) s .rne 32 act act (fun l =>
          let r := fAdd fp32 modeRne (fp32.dec (scanF32 act x l).1) (fp32.dec (x l))
          ⟨r.bits, r.fl, false, false, r.bad, false, false⟩)

/-- R124, R125: VBCAST, VPERM and VSLIDE under their predicates, VINS and VSEL in every lane, and the lane VEXTR reads. -/
def Sys2Proof.Claims.VectorPermutes : Prop :=
  ∀ d a b (z : Bool) pw (sl : BitVec 5) k s, Clear s →
    let w := permW pw
    let c := s.me
    Lanes (.vbcast d a z pw k) s d w 2 k (c.zm || z) (fun _ => (c.g a).toNat) {}
      ∧ Lanes (.vperm d a b k) s d 32 2 k c.zm (fun l => laneOf (c.v a) 32 (laneOf (c.v b) 32 l % 32)) {}
      ∧ Lanes (.vslide d a sl k) s d 32 2 k c.zm (fun l => if l + sl.toNat ≤ 31 then laneOf (c.v a) 32 (l + sl.toNat) else 0) {}
      ∧ Whole (.vins d a b pw) s d w 2 (fun l => if l = (c.g b).toNat % (1024 / w) then (c.g a).toNat else laneOf (c.v d) w l)
      ∧ Whole (.vsel d a b k) s d 32 2 (fun l => if (c.k k).getLsbD l then laneOf (c.v a) 32 l else laneOf (c.v b) 32 l)
      ∧ Does (.vextr d a b pw) s (s.putG d (BitVec.ofNat 64 (laneOf (c.v a) w ((c.g b).toNat % (1024 / w)))) 2)

/-- R114, R126, R127: comparisons write the bits of the active lanes and zero in the others; predicate operations; a field of 8 to 31
names no predicate register and traps ILLEGAL_INSTRUCTION. -/
def Sys2Proof.Claims.PredicateResults : Prop :=
  ∀ d a b k s, Clear s →
    let c := s.me
    let p (l : Nat) : BitVec 32 := BitVec.ofNat 32 (laneOf (c.v a) 32 l)
    let q (l : Nat) : BitVec 32 := BitVec.ofNat 32 (laneOf (c.v b) 32 l)
    let x (l : Nat) : FVal := fp32.dec (laneOf (c.v a) 32 l)
    let y (l : Nat) : FVal := fp32.dec (laneOf (c.v b) 32 l)
    let kd : KReg := d.setWidth 3
    let sets (i : Instr) (nv : Nat → Bool) (f : Nat → Bool) : Prop :=
      (d.toNat < 8 → ∃ m : Pred, Does i s ((s.raise { nv := (List.range 32).any fun l => (c.k k).getLsbD l && nv l }).putK kd m)
          ∧ ∀ l < 32, m.getLsbD l = ((c.k k).getLsbD l && f l))
        ∧ (8 ≤ d.toNat → Traps i s .illegalInstruction 0)
    sets (.vcmpEq d a b k) (fun _ => false) (fun l => decide (p l = q l)) ∧ sets (.vcmpNe d a b k) (fun _ => false) (fun l => decide (p l ≠ q l))
      ∧ sets (.vcmpLt d a b k) (fun _ => false) (fun l => decide ((p l).toInt < (q l).toInt))
      ∧ sets (.vcmpLe d a b k) (fun _ => false) (fun l => decide ((p l).toInt ≤ (q l).toInt))
      ∧ sets (.vcmpLtu d a b k) (fun _ => false) (fun l => decide ((p l).toNat < (q l).toNat))
      ∧ sets (.vcmpLeu d a b k) (fun _ => false) (fun l => decide ((p l).toNat ≤ (q l).toNat))
      ∧ sets (.vfcmpEq d a b k) (fun l => (x l).isSig || (y l).isSig) (fun l => fEq (x l) (y l))
      ∧ sets (.vfcmpLt d a b k) (fun l => (x l).isNan || (y l).isNan) (fun l => fLt (x l) (y l))
      ∧ sets (.vfcmpLe d a b k) (fun l => (x l).isNan || (y l).isNan) (fun l => fLe (x l) (y l))
      ∧ sets (.vfcmpUn d a b k) (fun l => (x l).isSig || (y l).isSig) (fun l => (x l).isNan || (y l).isNan)
      ∧ (d.toNat < 8 → a.toNat < 8 → b.toNat < 8 →
          Does (.kand d a b) s (s.putK kd (c.k (a.setWidth 3) &&& c.k (b.setWidth 3)))
            ∧ Does (.kor d a b) s (s.putK kd (c.k (a.setWidth 3) ||| c.k (b.setWidth 3)))
            ∧ Does (.kxor d a b) s (s.putK kd (c.k (a.setWidth 3) ^^^ c.k (b.setWidth 3)))
            ∧ Does (.kandn d a b) s (s.putK kd (c.k (a.setWidth 3) &&& ~~~c.k (b.setWidth 3))))
      ∧ (8 ≤ d.toNat ∨ 8 ≤ a.toNat ∨ 8 ≤ b.toNat →
          Traps (.kand d a b) s .illegalInstruction 0 ∧ Traps (.kor d a b) s .illegalInstruction 0 ∧ Traps (.kxor d a b) s .illegalInstruction 0
            ∧ Traps (.kandn d a b) s .illegalInstruction 0)
      ∧ (a.toNat < 8 → Does (.kmovToG d a) s (s.putG d ((c.k (a.setWidth 3)).setWidth 64))
          ∧ Does (.kpopc d a) s (s.putG d (BitVec.ofNat 64 ((List.range 32).countP (c.k (a.setWidth 3)).getLsbD))))
      ∧ (d.toNat < 8 → Does (.kmovFromG d a) s (s.putK kd ((c.g a).setWidth 32)))
      ∧ (8 ≤ a.toNat → Traps (.kmovToG d a) s .illegalInstruction 0 ∧ Traps (.kpopc d a) s .illegalInstruction 0)
      ∧ (8 ≤ d.toNat → Traps (.kmovFromG d a) s .illegalInstruction 0)

/-- R128: VADDC and VSUBB add and subtract every lane with the carry or borrow of the predicate, which takes the new ones; k0 carries one into
every lane and takes none. -/
def Sys2Proof.Claims.CarryChains : Prop :=
  ∀ d a b (c : KReg) s, Clear s →
    let x (l : Nat) : Nat := laneOf (s.me.v a) 32 l
    let y (l : Nat) : Nat := laneOf (s.me.v b) 32 l
    let n (l : Nat) : Nat := if c = 0 ∨ (s.me.k c).getLsbD l = true then 1 else 0
    let does (i : Instr) (f : Nat → Int) (carry : Nat → Prop) : Prop :=
      ∃ t m v, exec i s = .next t ∧ t.me.pc = s.pc + 4
        ∧ t.me.pend = s.me.pend ++ (if c = 0 then [] else [⟨.k c, some m, s.beat + 2⟩]) ++ [⟨.v d, some v, s.beat + 2⟩]
        ∧ t.me.st = s.me.st ∧ (∀ l < 32, (laneOf v 32 l : Int) = f l % 2 ^ 32) ∧ ∀ l < 32, (m.getLsbD l = true ↔ carry l)
    does (.vaddc d a b c) (fun l => (x l + y l + n l : Nat)) (fun l => 2 ^ 32 ≤ x l + y l + n l)
      ∧ does (.vsubb d a b c) (fun l => (x l : Int) - y l - n l) (fun l => x l < y l + n l)

/-- R129: VRNSF writes the residue of each active lane in the channel of its control word; other bytes of vd stay. -/
def Sys2Proof.Claims.ResidueForward : Prop :=
  ∀ d a b k s, Clear s →
    let w := s.me.g b
    let ch := bits w 3 0
    let p := bits w 5 4
    let n := if w.getLsbD 6 then 16 else 32
    let ew := if w.getLsbD 6 then 64 else 32
    (9 < ch → Traps (.vrnsf d a b k) s .illegalInstruction 0)
      ∧ (ch ≤ 9 → ∃ t v, exec (.vrnsf d a b k) s = .next t ∧ t.me.pend = s.me.pend ++ [⟨.v d, some v, s.beat + 4⟩] ∧ t.me.pc = s.pc + 4
        ∧ (∀ l < n, laneOf v 8 (32 * p + l) = if active (s.me.k k) ew l
            then ((BitVec.ofNat ew (laneOf (s.me.v a) ew l)).toInt % (modulus ch : Int)).toNat
            else if s.me.zm then 0 else laneOf (s.me.v d) 8 (32 * p + l))
        ∧ ∀ j < 128, (j < 32 * p ∨ 32 * p + n ≤ j) → laneOf v 8 j = laneOf (s.me.v d) 8 j)

/-- R130 to R133: VRNSR with an odd destination or an illegal RNSCH traps ILLEGAL_INSTRUCTION; otherwise it gives each active lane its class and
value of R56: the values go to vd, the status bytes to the next register, the counts and the channel of the last corrected lane to RNSST, the
corrected and overflowed lanes to EVC8 and EVC9, and the residues not below their modulus to EVC4; the tile's counts of R134 take the lanes, and
the channels that reach THRESH each wake S and clear the counts; with the traps enabled, an UNCORRECTABLE lane traps RNS_UNCORRECTABLE and then an
OVERFLOW lane RNS_OVERFLOW, with the mask of the lanes.
(The model's own choices and readings in it: log 63.) -/
def Sys2Proof.Claims.ResidueReverse : Prop :=
  (∀ d a b k s, Clear s → d.toNat % 2 = 1 ∨ 8 < bits s.me.rnsch 3 0 ∨ bits s.me.rnsch 5 4 = 3 ∨ (bits s.me.rnsch 3 0 = 0 ∧ bits s.me.rnsch 5 4 = 2)
      ∨ bits s.me.rnsch 20 16 < 10 ∨ 30 < bits s.me.rnsch 20 16 ∨ bits s.me.rnsch 15 8 = 0 → Traps (.vrnsr d a b k) s .illegalInstruction 0)
    ∧ ∀ d a b k s, Clear s → d.toNat % 2 = 0 → rnschOk s.me.rnsch = true →
    let lane (l : Nat) : LaneClass × Int := rnsLane (bits s.me.rnsch 3 0) (bits s.me.rnsch 5 4) (s.me.v a) (s.me.v b) l
    let act (l : Nat) : Bool := (s.me.k k).getLsbD (2 * l)
    let fixed (l : Nat) : Bool := match (lane l).1 with | .corrected _ => true | _ => false
    let mask (c : LaneClass) : Nat := ((List.range 16).map fun l => if act l = true ∧ (lane l).1 = c then 2 ^ l else 0).sum
    let fails := s.me.rnsch.getLsbD 6 = true ∧ mask .uncorrectable ≠ 0
    let overflows := s.me.rnsovt = true ∧ mask .overflow ≠ 0
    (fails → Traps (.vrnsr d a b k) s .rnsUncorrectable (BitVec.ofNat 64 (mask .uncorrectable)))
      ∧ (¬ fails → overflows → Traps (.vrnsr d a b k) s .rnsOverflow (BitVec.ofNat 64 (mask .overflow)))
      ∧ (¬ fails → ¬ overflows → ∃ t v u, exec (.vrnsr d a b k) s = .next t
        ∧ t.me.pend = s.me.pend ++ [⟨.v d, some v, s.beat + 14⟩, ⟨.v (d + 1), some u, s.beat + 14⟩] ∧ t.me.pc = s.pc + 4
        ∧ (∀ l < 16, laneOf v 64 l = if act l then ((lane l).2 % 2 ^ 64).toNat else if s.me.zm then 0 else laneOf (s.me.v d) 64 l)
        ∧ (∀ l < 16, laneOf u 8 l = if act l then (lane l).1.status else 0x20)
        ∧ bits t.me.rnsst 4 0 = (List.range 16).countP (fun l => act l && (lane l).1 == .ok)
        ∧ bits t.me.rnsst 20 16 = (List.range 16).countP (fun l => act l && (lane l).1 == .overflow)
        ∧ bits t.me.rnsst 28 24 = (List.range 16).countP (fun l => act l && (lane l).1 == .uncorrectable)
        ∧ bits t.me.rnsst 12 8 = (List.range 16).countP (fun l => act l && fixed l)
        ∧ (∀ l < 16, ∀ u, act l = true → (lane l).1 = .corrected u → (∀ m, l < m → m < 16 → act m = true → fixed m = false) → bits t.me.rnsst 35 32 = u)
        ∧ ((∀ l < 16, act l = true → fixed l = false) → bits t.me.rnsst 35 32 = 0xF)
        ∧ vget t.my.evc 8 0 = satAdd32 (vget s.my.evc 8 0) ((List.range 16).countP fun l => act l && fixed l)
        ∧ vget t.my.evc 9 0 = satAdd32 (vget s.my.evc 9 0) ((List.range 16).countP fun l => act l && (lane l).1 == .overflow)
        ∧ vget t.my.evc 4 0 = satAdd32 (vget s.my.evc 4 0) (((List.range 16).filter act).map fun l =>
            (List.range (bits s.me.rnsch 3 0) ++ (List.range (bits s.me.rnsch 5 4)).map (· + 8)).countP fun u =>
              decide (modulus u ≤ rnsByte (s.me.v a) (s.me.v b) l u)).sum
        ∧ (∀ j, 16 ≤ j → j < 128 → laneOf u 8 j = 0)
        ∧ let n (u : Nat) : Nat := vget s.my.corr u 0 + (List.range 16).countP fun l => act l && (lane l).1 == .corrected u
          let failing := (List.range 10).filter fun u => decide (bits s.me.rnsch 15 8 ≤ n u)
          let lanes := s.my.lanes + (List.range 16).countP act
          t.my.sEvents = s.my.sEvents ++ failing.map .channelFailure ∧ t.later = s.later ++ failing.map (.channelRemap s.cur ·)
            ∧ (failing ≠ [] ∨ 2 ^ bits s.me.rnsch 20 16 ≤ lanes → t.my.lanes = 0 ∧ ∀ u < 10, vget t.my.corr u 1 = 0)
            ∧ (failing = [] → lanes < 2 ^ bits s.me.rnsch 20 16 → t.my.lanes = lanes ∧ ∀ u < 10, vget t.my.corr u 0 = n u))

/-- R135 to R137: vector loads read each active lane's word at its address and need the checks of the active lanes alone; VLD and VST
need the whole vector, at a multiple of 128; the first check that fails traps. -/
def Obligations.VectorLoads : Prop :=
  ∀ v a b k (o : BitVec 5) s, Clear s →
    let c := s.me
    let base := s.vbase a o
    let act (l : Nat) : Bool := (c.k k).getLsbD l
    let word (ea : Int) : Nat := s.my.sp.le ea.toNat 4
    let ok (ea : Nat → Int) : Prop := ∀ l < 32, act l = true → Loadable s (ea l) 4
    ((∀ l < 32, act l = true → s.my.spPoisoned (base + 4 * l).toNat 4 = false) → RangeOk s base 128 128 →
        Lanes (.vld v a k o) s v 32 3 k c.zm (fun l => word (base + 4 * l)) {})
      ∧ (ok (fun l => base + l * (c.g b).toInt) →
        Lanes (.vlds v a b k o) s v 32 6 k c.zm (fun l => word (base + l * (c.g b).toInt)) {})
      ∧ (ok (fun l => base + (BitVec.ofNat 32 (laneOf (c.v b) 32 l)).toInt) →
        Lanes (.vldx v a b k o) s v 32 6 k c.zm (fun l => word (base + (BitVec.ofNat 32 (laneOf (c.v b) 32 l)).toInt)) {})
      ∧ VectorTraps (.vld v a k o) s act base true ∧ LaneTraps (.vlds v a b k o) s act (fun l => base + l * (c.g b).toInt) true
      ∧ LaneTraps (.vldx v a b k o) s act (fun l => base + (BitVec.ofNat 32 (laneOf (c.v b) 32 l)).toInt) true

/-- R135 to R138: vector stores write the word of each active lane at its address, in ascending order of the lanes, and no other byte
(no injection armed for the scratchpad, R407);
VSCATADD adds at each distinct address the sum of its lanes, taken from the lowest up: modulo 2^32, or with each addition rounded to the nearest
FP32 number, ties to even, raising its flags and counting in EVC2 the NaN it makes.  The first check that fails traps (R136, R374).
(The model's own choices and readings in it: log 20.) -/
def Obligations.VectorStores : Prop :=
  ∀ v a b k (o : BitVec 5) s, Clear s → s.my.armed 0 = false → s.my.sp.wf = true →
    let c := s.me
    let base := s.vbase a o
    let lanes := (List.range 32).filter (c.k k).getLsbD
    let stores (i : Instr) (ea : Nat → Int) : Prop :=
      ∃ t, exec i s = .next t ∧ t.me.pc = s.pc + 4 ∧ t.me.gs = c.gs ∧ t.me.vs = c.vs
        ∧ (∀ l ∈ lanes, (∀ m ∈ lanes, l < m → ea m ≠ ea l) →
            ∀ j < 4, t.my.sp.get ((ea l).toNat + j) = BitVec.ofNat 8 (laneOf (c.v v) 32 l / 256 ^ j))
        ∧ ∀ x, (∀ l ∈ lanes, x < (ea l).toNat ∨ (ea l).toNat + 4 ≤ x) → t.my.sp.get x = s.my.sp.get x
    let ok (ea : Nat → Int) : Prop := ∀ l ∈ lanes, Reachable s (ea l) 4
    let x32 (l : Nat) : Int := (BitVec.ofNat 32 (laneOf (c.v b) 32 l)).toInt
    let plus (x y : Nat) : FRes := fAdd fp32 modeRne (fp32.dec x) (fp32.dec y)
    let add (x y : Nat) : Nat := (plus x y).bits
    let ea32 (l : Nat) : Int := (c.g a).toNat + x32 l
    -- the additions made for the address of lane `l`: those of its later lanes, then that to the word in memory
    let adds (l : Nat) : List FRes :=
      let r := (lanes.filter fun m => decide (l < m) && x32 m == x32 l).foldl
        (fun (e : Nat × List FRes) m => ((plus e.1 (laneOf (c.v v) 32 m)).bits, e.2 ++ [plus e.1 (laneOf (c.v v) 32 m)])) (laneOf (c.v v) 32 l, [])
      r.2 ++ [plus (s.my.sp.le (ea32 l).toNat 4) r.1]
    let all : List FRes := (lanes.filter fun l => lanes.all fun m => decide (l ≤ m) || x32 m != x32 l).flatMap adds
    VectorTraps (.vst v a k o) s (c.k k).getLsbD base false ∧ LaneTraps (.vsts v a b k o) s (c.k k).getLsbD (fun l => base + l * (c.g b).toInt) false
      ∧ LaneTraps (.vstx v a b k o) s (c.k k).getLsbD (fun l => base + x32 l) false
      ∧ (∀ rt, LaneTraps (.vscatadd v a b k rt) s (c.k k).getLsbD ea32 true)
      ∧ (RangeOk s base 128 128 → stores (.vst v a k o) (fun l => base + 4 * l))
      ∧ (ok (fun l => base + l * (c.g b).toInt) → stores (.vsts v a b k o) (fun l => base + l * (c.g b).toInt))
      ∧ (ok (fun l => base + x32 l) → stores (.vstx v a b k o) (fun l => base + x32 l))
      ∧ ((∀ l ∈ lanes, Loadable s ((c.g a).toNat + x32 l) 4) →
        ∀ rt, ∃ t, exec (.vscatadd v a b k rt) s = .next t ∧ t.me.pc = s.pc + 4 ∧ t.me.gs = c.gs ∧ t.me.vs = c.vs
          ∧ (∀ x : Nat, (∀ l ∈ lanes, (x : Int) < (c.g a).toNat + x32 l ∨ (c.g a).toNat + x32 l + 4 ≤ x) → t.my.sp.get x = s.my.sp.get x)
          ∧ (rt = .i32 → ∀ l ∈ lanes, t.my.sp.le ((c.g a).toNat + x32 l).toNat 4 =
              (s.my.sp.le ((c.g a).toNat + x32 l).toNat 4 + ((lanes.filter fun m => x32 m == x32 l).map fun m => laneOf (c.v v) 32 m).sum) % 2 ^ 32)
          ∧ (rt = .f32 → t.me.st = s.me.st ||| (all.foldl (fun (f : Fl) r => f.or r.fl) {}).word
            ∧ vget t.my.evc 2 0 = satAdd32 (vget s.my.evc 2 0) (all.countP (·.bad)))
          ∧ (rt = .i32 → t.me.st = s.me.st ∧ t.my.evc = s.my.evc)
          ∧ (rt = .f32 → ∀ l ∈ lanes, (∀ m ∈ lanes, m < l → x32 m ≠ x32 l) → t.my.sp.le ((c.g a).toNat + x32 l).toNat 4 =
              add (s.my.sp.le ((c.g a).toNat + x32 l).toNat 4)
                ((lanes.filter fun m => decide (l < m) && x32 m == x32 l).foldl (fun n m => add n (laneOf (c.v v) 32 m)) (laneOf (c.v v) 32 l)) % 2 ^ 32))

/-! ### System instructions (R14 to R17, R365, R395 to R397) -/

/-- R14, R395, R396: GETS of each special register, as numbered by R14 (an event counter as it stood before the increments of the beat,
R397); an unassigned number traps ILLEGAL_INSTRUCTION, and a register that is S only traps PRIVILEGED in L and H. -/
def Sys2Proof.Claims.SpecialReads : Prop :=
  ∀ d s, Clear s →
    let k := s.me
    let x := s.my
    let reads (n : Nat) (w : Word) : Prop := Does (.gets d (BitVec.ofNat 12 n)) s (s.putG d w)
    let rec' (f : Ctx → Word) : Word := match x.serving with | some c => f (x.ctx c) | none => 0
    reads 0x000 k.st ∧ reads 0x001 (k.pfx.setWidth 64) ∧ reads 0x002 k.tx ∧ reads 0x003 k.tg ∧ reads 0x004 k.mh0 ∧ reads 0x005 k.mh1
      ∧ reads 0x006 k.mlen ∧ reads 0x008 (BitVec.ofNat 64 (s.modNo * 32768 + s.cur % 32768))
      ∧ reads 0x009 (if s.isS then 0 else BitVec.ofNat 64 x.dom) ∧ reads 0x011 (k.icount.setWidth 64) ∧ reads 0x012 k.mret
      ∧ (∀ j < 4, reads (0x013 + j) (vget k.mvec j 0)) ∧ (∀ j < 16, reads (0x020 + j) ((vget x.evcAt j 0).setWidth 64))
      ∧ reads 0x030 k.rnsst ∧ reads 0x031 k.rnsch ∧ reads 0x050 (k.wdog.setWidth 64) ∧ reads 0x060 k.rngseed ∧ reads 0x061 x.rnsmap
      ∧ (∀ j < 16, reads (0x070 + j) (k.m j)) ∧ (∀ j < 32, reads (0x080 + j) (k.vx (BitVec.ofNat 5 j)))
      ∧ Does (.gets d 0x010) s (logged s d (BitVec.ofNat 64 s.beat))
      ∧ (s.isS = true → reads 0x040 (rec' (·.trapc)) ∧ reads 0x041 (rec' (·.trappc)) ∧ reads 0x042 (rec' (·.trapva))
          ∧ reads 0x043 (rec' (·.trapiw)) ∧ reads 0x044 x.errinj)
      ∧ (s.isS = false → ∀ n, 0x040 ≤ n → n ≤ 0x044 → Traps (.gets d (BitVec.ofNat 12 n)) s .privileged 0)
      ∧ ∀ n, n < 4096 → (n = 7 ∨ (0x00A ≤ n ∧ n < 0x010) ∨ (0x017 ≤ n ∧ n < 0x020) ∨ (0x032 ≤ n ∧ n < 0x040) ∨ (0x045 ≤ n ∧ n < 0x050)
          ∨ (0x051 ≤ n ∧ n < 0x060) ∨ (0x062 ≤ n ∧ n < 0x070) ∨ 0x0A0 ≤ n) → Traps (.gets d (BitVec.ofNat 12 n)) s .illegalInstruction 0

/-- R14, R16, R395, R396, R367: SETS of each special register that may be written: ST keeps the fields the context may not write; TX and ST
are checked; PFX, the trap record and ERRINJ are S's; an ERRINJ with an illegal field (R407) traps ILLEGAL_INSTRUCTION, and so do a read-only
register and a number that names none.  (R41: a zero seed is written as 1.  R15: the increments of the beat apply to an event counter after the
write.  R407: a new ERRINJ hits no run accepted before it, one that stands in a saved image included.)
(The model's own choices and readings in it: log 63, by which a write of the trap record while S serves no trap changes nothing.) -/
def Obligations.SpecialWrites : Prop :=
  ∀ a s, Clear s →
    let w := s.me.g a
    let sets (n : Nat) (t : State) : Prop := Does (.sets a (BitVec.ofNat 12 n)) s t
    let mine (f : Ctx → Ctx) : State := s.onMe f
    let rec' (f : Ctx → Ctx) : State := match s.my.serving with | some c => s.onCtx s.cur c f | none => s
    let disarmed (x : Tile) : Tile := { x with
      running := x.running.map fun r => { r with inject := false }
      queued := x.queued.map fun r => { r with inject := false } }
    let illegal : Prop := w.getLsbD 62 = true ∨ bits w 31 19 ≠ 0 ∨ bits w 61 60 = 3 ∨ 5 < bits w 59 56 ∨ 63 < bits w 39 32
      ∨ (bits w 59 56 = 1 ∧ 31 < bits w 39 32)
    (bits w 15 13 < 6 → ∃ v : Word, sets 0x000 (mine fun k => { k with st := v })
        ∧ ∀ j < 64, v.getLsbD j = if (8 ≤ j ∧ j < 18) ∨ (s.isS = true ∧ 4 ≤ j ∧ j < 8) then w.getLsbD j else s.me.st.getLsbD j)
      ∧ (6 ≤ bits w 15 13 → Traps (.sets a 0x000) s .illegalInstruction 0)
      ∧ (s.isS = true → sets 0x001 (mine fun k => { k with pfx := w.setWidth 26 })) ∧ (s.isS = false → Traps (.sets a 0x001) s .privileged 0)
      ∧ (txOk (w &&& 0x000FFFFFFFFFFFFF) s.me.tdepth = true → sets 0x002 (mine fun k => { k with tx := w &&& 0x000FFFFFFFFFFFFF }))
      ∧ (txOk (w &&& 0x000FFFFFFFFFFFFF) s.me.tdepth = false → Traps (.sets a 0x002) s .illegalInstruction 0)
      ∧ sets 0x003 (mine fun k => { k with tg := w }) ∧ sets 0x012 (mine fun k => { k with mret := w })
      ∧ (∀ j < 4, sets (0x013 + j) (mine fun k => { k with mvec := vset k.mvec j w }))
      ∧ (∀ j < 16, sets (0x020 + j) (s.onMy fun x =>
          { x with evc := vset x.evc j (BitVec.ofNat 32 (min ((w.setWidth 32).toNat + vget x.evcNew j 0) (2 ^ 32 - 1))) }))
      ∧ sets 0x030 (mine fun k => { k with rnsst := w &&& 0x0000000F1F1F1F1F }) ∧ sets 0x031 (mine fun k => { k with rnsch := w &&& 0x00000000001FFF7F })
      ∧ sets 0x060 (mine fun k => { k with rngseed := if w = 0 then 1 else w })
      ∧ sets 0x061 (s.onMy fun x => { x with rnsmap := w &&& 0x000000000007FFF8 })
      ∧ (∀ j < 32, sets (0x080 + j) (mine fun k => k.setVx (BitVec.ofNat 5 j) w))
      ∧ (s.isS = true → sets 0x041 (rec' fun k => { k with trappc := w }) ∧ sets 0x042 (rec' fun k => { k with trapva := w })
          ∧ sets 0x043 (rec' fun k => { k with trapiw := w }) ∧ sets 0x040 s
          ∧ (illegal → Traps (.sets a 0x044) s .illegalInstruction 0)
          ∧ (¬ illegal → sets 0x044 { s.onMy (fun x => { disarmed x with errinj := w }) with
              domains := s.domains.map fun d => { d with saved := d.saved.map fun (u, x) => if u = s.cur then (u, disarmed x) else (u, x) } }))
      ∧ (s.isS = false → ∀ n, 0x040 ≤ n → n ≤ 0x044 → Traps (.sets a (BitVec.ofNat 12 n)) s .privileged 0)
      ∧ (∀ n, n ∈ [0x004, 0x005, 0x006, 0x008, 0x009, 0x010, 0x011, 0x050] ∨ (0x070 ≤ n ∧ n < 0x080) →
        Traps (.sets a (BitVec.ofNat 12 n)) s .illegalInstruction 0)
      ∧ ∀ n, n < 4096 → (n = 7 ∨ (0x00A ≤ n ∧ n < 0x010) ∨ (0x017 ≤ n ∧ n < 0x020) ∨ (0x032 ≤ n ∧ n < 0x040) ∨ (0x045 ≤ n ∧ n < 0x050)
          ∨ (0x051 ≤ n ∧ n < 0x060) ∨ (0x062 ≤ n ∧ n < 0x070) ∨ 0x0A0 ≤ n) → Traps (.sets a (BitVec.ofNat 12 n)) s .illegalInstruction 0

/-- R395: BRK traps BREAKPOINT with TRAPVA its code: the entry into the trap is its effect. -/
def Sys2Proof.Claims.Breakpoint : Prop :=
  ∀ c s, Clear s → exec (.brk c) s = .next (s.trapMe .breakpoint (c.setWidth 64)) ∧ (s.trapMe .breakpoint (c.setWidth 64)).me.status = .trapped

/-! ### Messages, tags, queues, counters and barriers (R185 to R209) -/

/-- R187 to R190: SEND, REPLY and FWD, when their checks pass (those on the destination where they first issue), no earlier store waits and
the output buffer has room (or the colour is killed), hand the NI the message of their template, tag and payload.
(The model's own choices and readings in it: log 16.) -/
def Sys2Proof.Claims.MessagesSent : Prop :=
  ∀ (v : Bool) a b (n : BitVec 5) (vn : Bool) s, Clear s → StoresDone s → n.toNat ≤ 16 →
    (v = false → (∀ j < n.toNat, Loadable s ((s.me.g b).toNat + 8 * j) 8)) →
    (s.me.word ≠ none ∨ s.sendCheck (h0Of (s.me.g a)).dst (!vn) = none) → (s.my.killed s.sentTag = true ∨ s.outFree s.cur vn = true) →
    let pay := (List.range n.toNat).map fun j =>
      if v then (s.me.v b).extractLsb' (64 * j) 64 else BitVec.ofNat 64 (s.my.sp.le ((s.me.g b).toNat + 8 * j) 8)
    let sent (len : Nat) (p : List Word) : State := s.accept (s.sentH0 (s.me.g a) vn len) s.sentTag p
    (vn = false → Does (.send v a b n) s (sent n.toNat pay)) ∧ (vn = true → Does (.reply v a b n) s (sent n.toNat pay))
      ∧ Does (.fwd a vn) s (sent s.me.window.length s.me.window)

/-- R148, R149, R187, R189, R383: a message accepted takes the tile's next sequence number and enters the router at its tile, with the sender's
address and context in H1, and DROP only if it leaves the module; one that names a TRIPLE handler does so three times, for its tile and the two
to the east of it in the row, with COPY 0, 1 and 2 (or, sent by a replica, that replica's own); one of a killed colour is discarded and takes no
number.  (The model's own choices and readings in it: log 16.) -/
def Sys2Proof.Claims.MessageAccepted : Prop :=
  ∀ (s : State) (h : H0) (tag : Word) (pay : List Word),
    let enters (p : Packet) (dst copy pos i : Nat) : Prop :=
      p.msg = ⟨({ h with dst := dst, copy := copy, drop := h.drop && dst / 32768 != s.modNo } : H0).word,
          (⟨s.addr s.cur, s.who.val, 0, false, (s.my.seq + BitVec.ofNat 16 i).toNat⟩ : H1).word, tag, pay⟩
        ∧ p.pos = pos ∧ p.reply = h.vn ∧ p.place = s.cur ∧ p.injected = false ∧ p.ejected = false ∧ p.dropped = false ∧ p.marked = false ∧ p.link = none
    let t := s.accept h tag pay
    let taken (k : Nat) : Prop := t.my.seq = s.my.seq + BitVec.ofNat 16 k ∧ (∀ c, t.my.ctx c = s.my.ctx c) ∧ t.my.sp = s.my.sp ∧ t.mem = s.mem
    let east (i : Nat) : Nat := h.dst / 32 * 32 + (h.dst % 32 + i) % 32
    (s.my.killed tag = true → t = s)
      ∧ (s.my.killed tag = false → s.my.replay = false →
        ((∀ e, s.handler s.cur (domOf tag) h.hid = some e → e.triple = false) → taken 1 ∧ ∃ p, t.net = s.net ++ [p] ∧ enters p h.dst h.copy 0 0)
          ∧ ∀ e, s.handler s.cur (domOf tag) h.hid = some e → e.triple = true → taken 3 ∧ ∃ p q r, t.net = s.net ++ [p, q, r]
            ∧ enters p h.dst (if h.triple then h.copy else 0) 0 0 ∧ enters q (east 1) (if h.triple then h.copy else 1) 1 1
            ∧ enters r (east 2) (if h.triple then h.copy else 2) 2 2)

/-- R188, R190: the checks of SEND, REPLY and FWD where they first issue, in their order: a LEN above 16, a request from a reply activation, an
unreachable destination, the payload's addresses; one that passes them while a store of the context has failed traps TARGET_GONE (R269). -/
def Sys2Proof.Claims.MessageChecks : Prop :=
  ∀ (v vn : Bool) a b (n : BitVec 5) s, Clear s →
    let dst := (h0Of (s.me.g a)).dst
    let fromReply : Prop := ∃ k, s.me.act = some k ∧ k.cls.isReply = true
    (16 < n.toNat → Traps (.send v a b n) s .illegalInstruction 0 ∧ Traps (.reply v a b n) s .illegalInstruction 0)
      ∧ (s.me.word = none → n.toNat ≤ 16 → fromReply → Traps (.send v a b n) s .replyVnViolation 0)
      ∧ (s.me.word = none → n.toNat ≤ 16 → s.isS = false → s.dstGone s.cur dst = true →
          Traps (.reply v a b n) s .targetGone (BitVec.ofNat 64 dst) ∧ (¬ fromReply → Traps (.send v a b n) s .targetGone (BitVec.ofNat 64 dst)))
      ∧ (s.me.word = none → n.toNat ≤ 16 → v = false → (s.isS = true ∨ s.dstGone s.cur dst = false) → ∀ j < n.toNat,
          (∀ i < j, Reachable s ((s.me.g b).toNat + 8 * i) 8) → ∀ c va, s.spCheck ((s.me.g b).toNat + 8 * j) 8 = some (c, va) →
          Traps (.reply v a b n) s c va ∧ (¬ fromReply → Traps (.send v a b n) s c va))
      ∧ (s.me.word = none → vn = false → fromReply → Traps (.fwd a vn) s .replyVnViolation 0)
      ∧ (s.me.word = none → (vn = false → ¬ fromReply) → s.isS = false → s.dstGone s.cur dst = true →
          Traps (.fwd a vn) s .targetGone (BitVec.ofNat 64 dst))
      ∧ ∀ va, s.me.failedStore = some va → (s.me.word ≠ none ∨ s.sendCheck dst (!vn) = none) →
        StoreGone (.fwd a vn) s va ∧ (n.toNat ≤ 16 → (v = false → ∀ j < n.toNat, Reachable s ((s.me.g b).toNat + 8 * j) 8) →
          (vn = false → StoreGone (.send v a b n) s va) ∧ (vn = true → StoreGone (.reply v a b n) s va))

/-- R191, R192: END and DEFER with no write pending free the context; DEFER puts its slot at the tail of its queue, with a new arrival
order (no injection armed for a slot, R407), and traps ILLEGAL_INSTRUCTION in S.
(The model's own choices and readings in it: logs 20, 61.) -/
def Obligations.ActivationEnds : Prop :=
  ∀ s, Clear s → s.me.pend = [] →
    (∃ t, exec .endAct s = .next t ∧ t.me.status = .free ∧ t.me.act = none ∧ t.me.icount = s.me.icount + 1 ∧ t.me.gs = s.me.gs ∧ t.my.sp = s.my.sp)
      ∧ (s.isS = true → Traps .defer s .illegalInstruction 0)
      ∧ (s.isS = false → ∃ t, exec .defer s = .next t ∧ t.me.status = .free ∧ t.me.act = none ∧
          ∀ k, s.me.act = some k → k.queue < 16 → s.my.armed 2 = false → (t.my.queue k.queue).waiting = (s.my.queue k.queue).waiting ++ [{ k.slot with order := s.my.order, owed := [] }]
            ∧ t.my.order = s.my.order + 1)

/-- R193: the tag operations on the field their operand names (8 names the field at TDEPTH); a field that TX does not have, or a value too
wide for it, traps TAG_OVERFLOW. -/
def Sys2Proof.Claims.TagFields : Prop :=
  ∀ d a (im f : BitVec 5) s, Clear s →
    let k := s.me
    let n := if f.toNat = 8 then k.tdepth else f.toNat
    let w := (k.g a).toNat
    let sum := fieldOf k.tx k.tg n + w + im.toNat
    let put (i v : Nat) (k : Ctx) : Ctx := { k with tg := setField k.tx k.tg i v }
    (f.toNat ≤ 8 → n < txNf k.tx → Does (.tgget d f) s (s.putG d (BitVec.ofNat 64 (fieldOf k.tx k.tg n))))
      ∧ (f.toNat ≤ 8 → txNf k.tx ≤ n → Traps (.tgget d f) s .tagOverflow 0)
      ∧ (f.toNat ≤ 8 → n ≤ k.tdepth → w < 2 ^ txW k.tx n → Does (.tgset a f) s (s.onMe (put n w)))
      ∧ (f.toNat ≤ 8 → (k.tdepth < n ∨ 2 ^ txW k.tx n ≤ w) → Traps (.tgset a f) s .tagOverflow 0)
      ∧ (f.toNat ≤ 8 → n ≤ k.tdepth → sum < 2 ^ txW k.tx n → Does (.tginc a im f) s (s.onMe (put n sum)))
      ∧ (f.toNat ≤ 8 → (k.tdepth < n ∨ 2 ^ txW k.tx n ≤ sum) → Traps (.tginc a im f) s .tagOverflow 0)
      ∧ (8 < f.toNat → Traps (.tgget d f) s .illegalInstruction 0 ∧ Traps (.tgset a f) s .illegalInstruction 0 ∧ Traps (.tginc a im f) s .illegalInstruction 0)
      ∧ (k.tdepth + 1 < txNf k.tx → w < 2 ^ txW k.tx (k.tdepth + 1) →
          Does (.tgpush a) s (s.onMe fun k => put (k.tdepth + 1) w { k with st := setBits k.st 7 5 (k.tdepth + 1) } ))
      ∧ (txNf k.tx ≤ k.tdepth + 1 ∨ 2 ^ txW k.tx (k.tdepth + 1) ≤ w → Traps (.tgpush a) s .tagOverflow 0)
      ∧ Does (.tgpop d) s ((s.onMe fun k => { put k.tdepth 0 k with st := setBits k.st 7 5 (k.tdepth - 1) }).putG d
          (BitVec.ofNat 64 (fieldOf k.tx k.tg k.tdepth)))

/-- R194: TGNEW asks the colour allocator and, once answered, writes the colour to gd and to COL of tg; an answer of 0 leaves tg.
(The model's own choices and readings in it: log 26.) -/
def Sys2Proof.Claims.TagNew : Prop :=
  ∀ d s, Clear s →
    (s.me.wait = none → Asks (.tgnew d) s s
        ⟨.tgNew, 0, 0, 0, false, 0, BitVec.ofNat 64 (if s.isS then domOf s.me.tg else s.my.dom), 0⟩ (.colourAllocatorAnswer s.cur s.who))
      ∧ ∀ r (v : VReg), s.me.wait = some (.answered r v) →
        let n := seen s (BitVec.ofNat 64 (v.toNat % 4096))
        let u := seenState s (BitVec.ofNat 64 (v.toNat % 4096))
        Does (.tgnew d) s ((if n = 0 then u else u.onMe fun k => { k with tg := setBits k.tg 51 40 n.toNat }).putG d n)

/-- R195 to R197: QGET of a visible entry takes it from the FIFO and logs it at level FULL, QPUT appends to the neighbour's facing FIFO while it
holds fewer than 8, and QPOLL reads what stands; a QGET of a marked entry under a nonzero MVEC enters the light handler with MRET the next
address.  On a tile that replays (R394) QGET takes the value its log feeds and QPUT puts nothing.
(The model's own choices and readings in it: logs 28, 63.) -/
def Sys2Proof.Claims.NeighbourPorts : Prop :=
  ∀ d m (mk : Bool) (n : BitVec 2) a s, Clear s →
    let nb := neighbour s.cur n.toNat
    let vec := vget s.me.mvec n.toNat 0
    let taken (u : State) (w : Word) (mark : Bool) : Prop :=
      let t := (u.putG d w).putG m (if mark then 1 else 0)
      ((mark = false ∨ vec = 0) → Does (.qget d m n) s t)
        ∧ (mark = true → vec ≠ 0 → bits vec 1 0 = 0 → Jumps (.qget d m n) s (t.onMe fun k => { k with mret := s.pc + 4 }) vec)
        ∧ (mark = true → vec ≠ 0 → bits vec 1 0 ≠ 0 → Traps (.qget d m n) s .misaligned vec)
    (∀ e rest, s.my.replay = false → s.my.fifoAt n.toNat = e :: rest → e.since < s.beat →
        taken ((s.onMy fun x => x.setFifo n.toNat rest).logInput s.cur (leBytes 8 e.data.toNat ++ leBytes 8 (if e.mark then 1 else 0))) e.data e.mark)
      ∧ (∀ bs rest, s.my.replay = true → s.my.feed = bs :: rest →
        taken (s.onMy fun x => { x with feed := rest }) (BitVec.ofNat 64 (leNat (bs.take 8))) (decide (leNat (bs.drop 8) % 2 = 1)))
      ∧ (s.closed s.cur n.toNat = true → s.my.replay = false → Traps (.qput a mk n) s .targetGone (BitVec.ofNat 64 (s.addr nb))
          ∧ (s.my.fifoAt n.toNat = [] → Traps (.qget d m n) s .targetGone (BitVec.ofNat 64 (s.addr nb))))
      ∧ (s.closed s.cur n.toNat = false → s.my.replay = false → StoresDone s → ((s.tile nb).fifoAt (facingPort n.toNat)).length < 8 →
          Does (.qput a mk n) s (s.onTile nb fun x => x.setFifo (facingPort n.toNat) ((s.tile nb).fifoAt (facingPort n.toNat)
            ++ [⟨s.me.g a, mk, domOf s.sentTag, colOf s.sentTag, s.beat⟩])))
      ∧ (s.my.replay = true → StoresDone s → Does (.qput a mk n) s s)
      ∧ Does (.qpoll d n) s (logged s d (s.pollWord n.toNat))

/-- R199 to R202, R207: the counter instructions on counters 1 to 63 and BARVAL; another number traps ILLEGAL_INSTRUCTION with TRAPVA the
register.  (The model's own choices and readings in it: log 26, by which CNTADD and CNTSET act after the stores that wait in the context's queue.) -/
def Sys2Proof.Claims.CounterOps : Prop :=
  ∀ d a b c (im : BitVec 5) (g : BitVec 4) s, Clear s →
    let n := (s.me.g a).toNat
    let w := s.me.g b
    (1 ≤ n → n ≤ 63 →
      Does (.cntadd a b im) s (s.drained.bump s.cur n ((s.me.g b).toNat % 2 ^ 32 + im.toNat)) ∧ Does (.cntget d a) s (s.putG d (s.my.counter n).word)
        ∧ (bits w 63 47 = 0 → w.toNat % 2 ^ 32 ≠ 0 → Does (.cntset a b c) s ((s.drained.onMy fun x => { x.setCounter n
            ⟨(s.me.g c).toNat % 2 ^ 32, w.toNat % 2 ^ 32, bits w 43 32, s.sentTag, w.getLsbD 44, w.getLsbD 45, w.getLsbD 46⟩ with
              freshCnt := some n }).fireIfFull s.cur n))
        ∧ (bits w 63 47 ≠ 0 ∨ w.toNat % 2 ^ 32 = 0 → Traps (.cntset a b c) s .illegalInstruction 0))
      ∧ (n = 0 ∨ 63 < n → Traps (.cntadd a b im) s .illegalInstruction (s.me.g a) ∧ Traps (.cntget d a) s .illegalInstruction (s.me.g a)
          ∧ Traps (.cntset a b c) s .illegalInstruction (s.me.g a))
      ∧ Does (.barval d g) s (s.putG d (vget s.my.barval g.toNat 0))

/-- R162, R163: a bump of an armed counter adds to VALUE, saturating at 2^32 − 1; one that reaches THRESHOLD fires: it takes the tile's next
sequence number, VALUE returns to 0, the counter stays armed only with REARM, and a message to the tile itself with the counter's HID and tag, SCTX 7
and the value as its one doubleword enters Arrive (on a tile that replays its log holds what entered, R394); a disarmed counter, and counter 0, stay. -/
def Sys2Proof.Claims.CounterBumps : Prop :=
  ∀ (s : State) (t c n : Nat), 1 ≤ c → c < 64 →
    let k := (s.tile t).counter c
    let v := min (k.value + n) (2 ^ 32 - 1)
    let raised := s.onTile t fun x => x.setCounter c { k with value := v }
    let fired := (raised.takeSeq t).onTile t fun x => x.setCounter c { k with value := 0, armed := k.rearm }
    let m : Msg := ⟨(⟨s.addr t, k.hid, false, false, false, 1, false, 0, false, 0⟩ : H0).word, (⟨s.addr t, 7, 0, false, (s.tile t).seq.toNat⟩ : H1).word,
      k.tag, [BitVec.ofNat 64 v]⟩
    (k.armed = false → s.bump t c n = s) ∧ s.bump t 0 n = s
      ∧ (k.armed = true → v < k.threshold → s.bump t c n = raised)
      ∧ (k.armed = true → k.threshold ≤ v → (s.tile t).replay = false → s.bump t c n = (fired.arriveCore t m .counter).1)
      ∧ (k.armed = true → k.threshold ≤ v → (s.tile t).replay = true → s.bump t c n = fired)
      ∧ (fired.tile t).counter c = { k with value := 0, armed := k.rearm } ∧ (fired.tile t).seq = (s.tile t).seq + 1

/-- R204, R269: BARJOIN with a legal control word and a translated record sends its join to the Carillon root, while fewer than 4 are under way; that
of a tile that replays goes nowhere (R394).  An illegal control word traps ILLEGAL_INSTRUCTION, a record address that is no multiple of 128
MISALIGNED; a missing translation parks the context or traps; a store of the context that failed traps TARGET_GONE.
(The model's own choices and readings in it: log 63, by which of several of these the first in this order comes.) -/
def Sys2Proof.Claims.BarrierJoins : Prop :=
  ∀ a b c s, Clear s →
    let w := s.me.g a
    let va := s.me.g c
    let legal := bits w 63 36 = 0 ∧ bits w 3 2 = 0 ∧ bits w 1 0 ≠ 3 ∧ bits w 35 20 ≠ 0
    let near := va.toNat % 128 = 0 ∧ bits va 63 52 = 0
    let found := s.access s.myClass s.cur s.me.refilled va.toNat false true false true
    (¬ legal → Traps (.barjoin a b c) s .illegalInstruction 0)
      ∧ (legal → va.toNat % 128 ≠ 0 → Traps (.barjoin a b c) s .misaligned va)
      ∧ (legal → va.toNat % 128 = 0 → bits va 63 52 ≠ 0 → Traps (.barjoin a b c) s .pageFault va)
      ∧ (legal → near → (∀ c', found = .trap c' → Traps (.barjoin a b c) s c' va)
        ∧ (found = .miss → exec (.barjoin a b c) s = .next (s.parkFor s.cur s.who va.toNat (needOf false true false) true))
        ∧ ∀ pa cached sync, found = .ok pa cached sync →
          let t := s.touched s.cur va.toNat
          (∀ gone, s.me.failedStore = some gone →
              exec (.barjoin a b c) s = .next ((t.onMe fun k => { k with failedStore := none }).trapMe .targetGone (BitVec.ofNat 64 gone)))
            ∧ (StoresDone s → s.my.replay = false → s.my.joins.length < 4 → Does (.barjoin a b c) s ((t.onMy fun x =>
              { x with joins := x.joins ++ [⟨s.cur, s.sentTag, bits w 7 4, bits w 35 20, bits w 1 0, bits w 19 8, s.me.g b, pa, x.evcList⟩] }).post
                (.barrierJoinArrival s.cur)))
            ∧ (StoresDone s → s.my.replay = true → Does (.barjoin a b c) s t))

/-! ### Global memory (R252 to R280) -/

/-- R265, R266, R267, R393: a global load that passes the checks sends its request, and once answered writes its extended value.
(The model's own choices and readings in it: log 26.) -/
def Sys2Proof.Claims.GlobalLoads : Prop :=
  ∀ d a (o : BitVec 13) s, Clear s →
    let ea : Int := (s.me.g a).toNat + o.toInt
    let loads (i : Instr) (n : Nat) (dst : Dst) (f : VReg → VReg) : Prop :=
      (∀ pa cached sync, s.me.wait = none → Mapped s ea n true false false pa cached sync →
          Asks i s (s.touched s.cur ea.toNat) ⟨.load, ea.toNat, pa, n, cached, sync, 0, 0⟩ (.globalAnswerReturn s.cur s.who))
        ∧ ∀ r v, s.me.wait = some (.answered r v) → Does i s (s.put dst (f v) 1)
    let z (n : Nat) (v : VReg) : VReg := (v.setWidth n).setWidth 1024
    let x (n : Nat) (v : VReg) : VReg := ((v.setWidth n).signExtend 64).setWidth 1024
    loads (.gldb d a o) 1 (.g d) (x 8) ∧ loads (.gldbu d a o) 1 (.g d) (z 8) ∧ loads (.gldh d a o) 2 (.g d) (x 16)
      ∧ loads (.gldhu d a o) 2 (.g d) (z 16) ∧ loads (.gldw d a o) 4 (.g d) (x 32) ∧ loads (.gldwu d a o) 4 (.g d) (z 32)
      ∧ loads (.gldd d a o) 8 (.g d) (z 64) ∧ loads (.gldv d a o) 128 (.v d) id

/-- R265, R268: a global store that passes the checks enters the context's store queue while it holds fewer than 16 stores. -/
def Sys2Proof.Claims.GlobalStores : Prop :=
  ∀ r a (o : BitVec 13) s pa cached sync, Clear s → s.me.storeQ.length < 16 →
    let ea : Int := (s.me.g a).toNat + o.toInt
    let stores (i : Instr) (n : Nat) : Prop := Mapped s ea n false true true pa cached sync →
      Does i s (((s.touched s.cur ea.toNat).onMe fun k => { k with storeQ := k.storeQ ++ [⟨ea.toNat, pa, n, s.me.g r, cached, sync⟩] }).post
        (.storeQueuePerform s.cur s.who))
    stores (.gstb r a o) 1 ∧ stores (.gsth r a o) 2 ∧ stores (.gstw r a o) 4 ∧ stores (.gstd r a o) 8

/-- R265, R226, R230, R231: the checks of a global access of each width, in their order: PAGE_FAULT beyond 2^52, MISALIGNED, then what the
translation comes to.  A page that the TLB does not hold, a write to a DUP or COW page, a permission that lacks before the refill and a stale entry
park the context; a permission that lacks after the refill traps PROTECTION, and an address with no target PAGE_FAULT.
(The model's own choices and readings in it: log 65.) -/
def Sys2Proof.Claims.GlobalChecks : Prop :=
  ∀ d r a b p (o : BitVec 13) s, Clear s → s.me.wait = none →
    let ls : Int := (s.me.g a).toNat + o.toInt
    let ms : Int := (s.me.g a).toNat
    let checks (i : Instr) (ea : Int) (n : Nat) (rd wr write : Bool) : Prop :=
      let va := BitVec.ofInt 64 ea
      let found := s.access s.myClass s.cur s.me.refilled ea.toNat rd wr false write
      ((ea < 0 ∨ 2 ^ 52 ≤ ea) → Traps i s .pageFault va)
        ∧ (0 ≤ ea → ea < 2 ^ 52 → (ea.toNat % n ≠ 0 → Traps i s .misaligned va)
          ∧ (ea.toNat % n = 0 → (∀ c, found = .trap c → Traps i s c va)
            ∧ (found = .miss → exec i s = .next (s.parkFor s.cur s.who ea.toNat (needOf rd wr false) write))))
    let loads (i : Instr) (n : Nat) : Prop := checks i ls n true false false
    let stores (i : Instr) (n : Nat) : Prop := checks i ls n false true true
    let atomic (i : Instr) (n : Nat) : Prop := checks i ms n true true false
    (loads (.gldb d a o) 1 ∧ loads (.gldbu d a o) 1 ∧ loads (.gldh d a o) 2 ∧ loads (.gldhu d a o) 2 ∧ loads (.gldw d a o) 4 ∧ loads (.gldwu d a o) 4
        ∧ loads (.gldd d a o) 8 ∧ loads (.gldv d a o) 128 ∧ stores (.gstb r a o) 1 ∧ stores (.gsth r a o) 2 ∧ stores (.gstw r a o) 4
        ∧ stores (.gstd r a o) 8 ∧ atomic (.gatomAdd d a b) 8 ∧ atomic (.gatomCas d a b) 8 ∧ atomic (.gatomSwap d a b) 8 ∧ atomic (.gatomMax d a b) 8
        ∧ atomic (.gatomMin d a b) 8 ∧ atomic (.gatomFxadd a b) 16 ∧ checks (.gatomFxrd d a p) ms 16 true false false)
      ∧ ∀ (again rd wr write : Bool) (va : Nat),
        let found := s.access s.myClass s.cur again va rd wr false write
        (s.my.tlbFind va = none → found = .miss)
          ∧ ∀ e, s.my.tlbFind va = some e →
            (write = true → pteBit e.pte 4 = true ∨ pteBit e.pte 5 = true → found = .miss)
              ∧ ((write = true → pteBit e.pte 4 = false ∧ pteBit e.pte 5 = false) →
                (s.allows e (needOf rd wr false) = false → found = if again then .trap .protection else .miss)
                  ∧ (s.allows e (needOf rd wr false) = true → (s.memTarget s.my.dom (s.entryAddr e va) = none → found = .trap .pageFault)
                    ∧ ((s.memTarget s.my.dom (s.entryAddr e va)).isSome = true → s.stale s.cur e va = true → found = .miss)))

/-- R270, R393: an answered atomic writes the old operand to gd (FXADD writes none, FXRD its result and flags), and completes.
(The model's own choices and readings in it: log 26.) -/
def Sys2Proof.Claims.AtomicAnswers : Prop :=
  ∀ d a b c p s r (v : VReg), Clear s → s.me.wait = some (.answered r v) →
    let t := logged s d (v.setWidth 64)
    let u := s.raise { nx := v.getLsbD 64, nv := v.getLsbD 65 }
    Does (.gatomAdd d a b) s t ∧ Does (.gatomCas d a b) s t ∧ Does (.gatomSwap d a b) s t ∧ Does (.gatomMax d a b) s t ∧ Does (.gatomMin d a b) s t
      ∧ Does (.gatomFxadd a b) s s ∧ Does (.gatomFxrd d a p) s (logged u d (v.setWidth 64))
      ∧ Does (.acq d a b c) s t ∧ Does (.btld d a b) s t ∧ Does (.btswap d a b) s (s.putG d (v.setWidth 64)) ∧ Does (.btref d a b) s (s.putG d (v.setWidth 64))

/-- R270, R58, R59: what each atomic leaves in its operand. -/
def Sys2Proof.Claims.AtomicEffects : Prop :=
  ∀ (w x y : Word) (c : Nat),
    let n := w.toNat
    atomNew .atomAdd n x y = (w + x).toNat ∧ atomNew .atomCas n x y = (if w = y then x else w).toNat ∧ atomNew .atomSwap n x y = x.toNat
      ∧ atomNew .atomMax n x y = (if w.toInt < x.toInt then x else w).toNat ∧ atomNew .atomMin n x y = (if x.toInt < w.toInt then x else w).toNat
      ∧ atomNew .fxrd n x y = n ∧ atomNew .fxadd c x y = fxAdd c (x.toNat % 2 ^ 32)
      ∧ (∀ k, k ∈ [ReqKind.atomAdd, .atomCas, .atomSwap, .atomMax, .atomMin] → atomResult k n y = w.setWidth 1024)
      ∧ (∀ k, k ∈ [ReqKind.atomAdd, .atomCas, .atomSwap, .atomMax, .atomMin, .fxrd] → atomWrites k n x y = false → atomNew k n x y = n)

/-- R273, R259, R274, R261, R269: ACQ asks at its sync object; REL, with no store waiting and no put or stream program outstanding, writes back
the object's lines and stores its value (a tile that replays stores none, R394); FENCE.LOCAL, FENCE.PUT, FENCE.DIE and FENCE.MODULE retire
when what they wait for is done, FENCE.MODULE with the lines that the tile's contexts dirtied written back.  A store of the context that failed
makes REL, FENCE.DIE and FENCE.MODULE trap TARGET_GONE with its address, once (R269).
(The model's own choices and readings in it: logs 26, 61, 62.) -/
def Obligations.SyncAndFences : Prop :=
  ∀ d a b c s, Clear s →
    let n := (s.me.g a).toNat
    (∀ r, s.domain s.syncDom = some r →
      (1 ≤ n → n ≤ r.syncCount → n < 2 ^ 12 →
        (s.me.wait = none → Asks (.acq d a b c) s s ⟨.acq, 0, r.syncBase + 8 * n, 8, false, n, s.me.g b, s.me.g c⟩ (.globalAnswerReturn s.cur s.who))
          ∧ (∀ va, s.me.failedStore = some va → StoreGone (.rel a b) s va)
          ∧ (StoresDone s → s.my.outstanding s.who ReqOp.isPut = true ∨ s.streaming s.cur s.who = true → Stalls (.rel a b) s)
          ∧ (StoresDone s → s.my.outstanding s.who ReqOp.isPut = false → s.streaming s.cur s.who = false →
            s.denied s.myClass s.syncDom (r.syncBase + 8 * n) (needOf false true false) = false → (s.my.replay = false →
              Does (.rel a b) s ((s.releaseLines (dieOf s.cur) s.syncDom n).memSetLe (r.syncBase + 8 * n) 8 (s.me.g b).toNat))
            ∧ (s.my.replay = true → Does (.rel a b) s (s.releaseLines (dieOf s.cur) s.syncDom n))))
        ∧ ((n = 0 ∨ r.syncCount < n) → Traps (.rel a b) s .illegalInstruction (s.me.g a)))
      ∧ ((∀ q ∈ s.my.asyncQ, q.ctx ≠ s.who.val) → (∀ e ∈ s.engines, ∀ q ∈ e.2.waits, ¬ (q.tile = s.cur ∧ q.req.ctx = s.who.val)) →
          Does .fenceLocal s s)
      ∧ (s.my.outstanding s.who ReqOp.isPut = false → Does .fencePut s s) ∧ (StoresDone s → Does .fenceDie s s)
      ∧ (s.my.outstanding s.who ReqOp.isPut = true → Stalls .fencePut s) ∧ (s.me.failedStore = none → s.me.storeQ ≠ [] → Stalls .fenceDie s ∧ Stalls .fenceModule s)
      ∧ (∀ va, s.me.failedStore = some va → StoreGone .fenceDie s va ∧ StoreGone .fenceModule s va)
      ∧ (StoresDone s → Does .fenceModule s (s.writeBackDirtied.onMy fun x => { x with ctxs := vmap (fun k => { k with dirtied := [] }) x.ctxs }))

/-! ### Engines (R287 to R294, R326 to R352) -/

/-- R289, R329 to R332: an RMA operation with a token register, legal operand words and aligned addresses enters the issue queue while it
holds fewer than 16, with its token register pending; while it is full the context is STALLED, and token g0 traps ILLEGAL_INSTRUCTION.
(The model's own choices and readings in it: log 44.) -/
def Sys2Proof.Claims.RmaIssue : Prop :=
  ∀ t a b c s, Clear s →
    let ra := s.me.g a
    let lo := s.me.g b
    let w := s.me.g c
    let g := lo.getLsbD 63
    let target (cnt : Bool) : Prop := g = true ∨ (bits ra 39 38 = 0 ∧ bits ra 31 19 = 0 ∧ (cnt = true ∨ bits ra 37 32 = 0))
    let addr := if g then ra.toNat else bits ra 18 0
    let queues (i : Instr) (op : ReqOp) (z : Word) : Prop :=
      (s.my.asyncQ.length < 16 → Does i s (queuedOp s ⟨op, s.who.val, t, domOf s.sentTag, s.me.colour, ra, lo, z, none⟩ (.rmaPortOperation s.cur)))
        ∧ (16 ≤ s.my.asyncQ.length → Stalls i s)
    let copy (i : Instr) (op : ReqOp) (cnt : Bool) : Prop :=
      t ≠ 0 → bits lo 62 19 = 0 → target cnt → w.toNat % 8 = 0 → 8 ≤ w.toNat → w.toNat ≤ 65536 → bits lo 18 0 % 8 = 0 → addr % 8 = 0 →
        queues i op w
    let indexed (i : Instr) (op : ReqOp) (cnt : Bool) : Prop :=
      t ≠ 0 → bits lo 62 19 = 0 → target cnt → bits w 63 51 = 0 → bits w 47 45 = 0 → bits w 31 19 = 0 → 1 ≤ bits w 44 32 →
        bits w 44 32 ≤ 4096 → bits lo 18 0 % 8 = 0 → addr % 2 ^ (bits w 50 48 + 3) = 0 → RangeOk s (bits w 18 0) (4 * bits w 44 32) 4 → queues i op w
    let atomic (i : Instr) (n size len : Nat) : Prop :=
      t ≠ 0 → bits lo 61 51 = 0 → bits lo 31 19 = 0 → (n = 5 → lo.getLsbD 62 = false) → target false →
        (lo.getLsbD 62 = true → bits lo 18 0 % 8 = 0) → addr % size = 0 → RangeOk s (bits lo 50 32) len 8 → queues i (.ratom n) 0
    copy (.get t a b c) .get false ∧ copy (.put t a b c) .put true ∧ indexed (.getx t a b c) .getx false ∧ indexed (.putx t a b c) .putx true
      ∧ atomic (.ratomAdd t a b) 0 8 8 ∧ atomic (.ratomCas t a b) 1 8 16 ∧ atomic (.ratomSwap t a b) 2 8 8 ∧ atomic (.ratomMax t a b) 3 8 8
      ∧ atomic (.ratomMin t a b) 4 8 8 ∧ atomic (.ratomFxadd t a b) 5 16 8 ∧ atomic (.ratomFxrd t a b) 6 16 8 ∧ atomic (.ratomSubst t a b) 7 1 8
      ∧ (t = 0 → ∀ i ∈ [Instr.get t a b c, .put t a b c, .getx t a b c, .putx t a b c, .ratomAdd t a b, .ratomCas t a b, .ratomSwap t a b, .ratomMax t a b,
          .ratomMin t a b, .ratomFxadd t a b, .ratomFxrd t a b, .ratomSubst t a b], Traps i s .illegalInstruction 0)

/-- R339, R344, R348, R349: MMRUN, SEGO, SACP and SACC with legal operands enter the issue queue, MMRUN and SACP with the prefix they consume;
while it is full the context is STALLED, and token g0 traps ILLEGAL_INSTRUCTION; MMSTAT and SESTAT read the engines.
(The model's own choices and readings in it: logs 26, 44.) -/
def Sys2Proof.Claims.EngineIssue : Prop :=
  ∀ d t a b c s, Unspent s →
    let x := s.me.g a
    let y := s.me.g b
    let pfx := if s.me.pendBit then some s.me.pfx else none
    let queues (i : Instr) (op : ReqOp) (z : Word) (p : Option (BitVec 26)) (e : Event) (spent : Bool) : Prop :=
      (s.my.asyncQ.length < 16 → Does i s ((queuedOp s ⟨op, s.who.val, t, domOf s.sentTag, s.me.colour, x, y, z, p⟩ e).onMe fun k =>
          if spent then k.setPend false else k))
        ∧ (16 ≤ s.my.asyncQ.length → Stalls i s)
    let sacWord := bits y 63 28 = 0 ∧ y.getLsbD 23 = false ∧ bits y 15 12 = 0 ∧ y.getLsbD 7 = false ∧ bits y 22 16 + bits y 27 24 ≤ 127
      ∧ bits y 6 0 + bits y 11 8 ≤ 127
    (t ≠ 0 → RangeOk s x.toNat 64 64 →
        (mmPrefixOk pfx = true → queues (.mmrun t a b) .mmrun 0 pfx (.mmrunAccept s.cur) true)
          ∧ (s.me.pendBit = false → y.toNat ≤ 255 → queues (.sego t a b) .sego 0 none (.streamProgramStart s.cur) false))
      ∧ (t ≠ 0 → x.toNat % 64 = 0 → sacWord →
        (sacPrefixOk pfx = true → queues (.sacp t a b c) .sacp (s.me.g c) pfx (.sacAccept s.cur) true)
          ∧ (s.me.pendBit = false → queues (.sacc t a b c) .sacc (s.me.g c) none (.sacAccept s.cur) false))
      ∧ (t ≠ 0 → (mmPrefixOk pfx = false → Traps (.mmrun t a b) s .illegalPrefix 0) ∧ (sacPrefixOk pfx = false → Traps (.sacp t a b c) s .illegalPrefix 0))
      ∧ (t = 0 → Traps (.mmrun t a b) s .illegalInstruction 0 ∧ Traps (.sacp t a b c) s .illegalInstruction 0
          ∧ (s.me.pendBit = false → Traps (.sego t a b) s .illegalInstruction 0 ∧ Traps (.sacc t a b c) s .illegalInstruction 0))
      ∧ (s.me.pendBit = false → Does (.mmstat d) s (logged s d s.my.mmWord))
      ∧ (s.me.pendBit = false → s.me.wait = none → x.toNat ≤ 255 →
          Asks (.sestat d a) s s ⟨.seStat, 0, 0, 0, false, 0, x, 0⟩ (.engineAnswer s.cur s.who))
      ∧ (s.me.pendBit = false → s.me.wait = none → 255 < x.toNat → Traps (.sestat d a) s .illegalInstruction x)
      ∧ ∀ q (v : VReg), s.me.pendBit = false → s.me.wait = some (.answered q v) → Does (.sestat d a) s (logged s d (v.setWidth 64))

/-- R233, R333 to R336: GIVE of CORE panes other than pane 0 hands them to the engine with the sender's domain; TAKE sets RELEASING on
claimed panes, makes those that no operation holds CORE, and retires when all are; a malformed range word traps ILLEGAL_INSTRUCTION, a range of
L or H that reaches pane 124 SCRATCH_BOUNDS, and the first pane that may not be given or taken PANE_OWNERSHIP; TTEST reads a token, all ones while it is pending.
(The model's own choices and readings in it: log 43.) -/
def Sys2Proof.Claims.PaneOwnership : Prop :=
  ∀ d a (o : BitVec 5) s, Clear s →
    let w := s.me.g a
    let first := bits w 6 0
    let count := bits w 14 8
    let form := bits w 63 15 = 0 ∧ w.getLsbD 7 = false ∧ 1 ≤ count ∧ first + count ≤ 128
    let near := s.isS = true ∨ first + count ≤ 124
    let legal := form ∧ near ∧ 1 ≤ first
    let inside (p : Nat) : Prop := first ≤ p ∧ p < first + count
    let barred (p : Nat) : Prop := p = 0 ∨ (s.my.pane p).owner = .ni ∨ (s.my.pane p).owner = .firmware
    (∀ owner, (o.toNat = 1 ∧ owner = .mm) ∨ (o.toNat = 2 ∧ owner = .rma) ∨ (o.toNat = 3 ∧ owner = .sac) → legal →
        (∀ p, inside p → (s.my.pane p).isCore = true) →
        ∃ t, exec (.give a o) s = .next t ∧ t.me.pc = s.pc + 4 ∧ t.my.sp = s.my.sp
          ∧ ∀ p < 128, t.my.pane p = if inside p then ⟨owner, false, domOf s.sentTag, 0⟩ else s.my.pane p)
      ∧ (¬ (1 ≤ o.toNat ∧ o.toNat ≤ 3) → Traps (.give a o) s .illegalInstruction 0)
      ∧ (1 ≤ o.toNat → o.toNat ≤ 3 →
        (¬ form → Traps (.give a o) s .illegalInstruction w)
          ∧ (form → s.isS = false → 124 < first + count → Traps (.give a o) s .scratchBounds (BitVec.ofNat 64 (4096 * max first 124)))
          ∧ (form → near → ∀ p, inside p → (p = 0 ∨ (s.my.pane p).isCore = false) → (∀ q, inside q → q < p → q ≠ 0 ∧ (s.my.pane q).isCore = true) →
            Traps (.give a o) s .paneOwnership (BitVec.ofNat 64 (4096 * p))))
      ∧ (s.me.wait = none →
        (¬ form → Traps (.take a) s .illegalInstruction w)
          ∧ (form → s.isS = false → 124 < first + count → Traps (.take a) s .scratchBounds (BitVec.ofNat 64 (4096 * max first 124)))
          ∧ (form → near → ∀ p, inside p → barred p → (∀ q, inside q → q < p → ¬ barred q) →
            Traps (.take a) s .paneOwnership (BitVec.ofNat 64 (4096 * p))))
      ∧ (legal → s.me.wait = none → (∀ p, inside p → (s.my.pane p).isClaimed = true ∧ (s.my.pane p).holds = 0) →
        ∃ t, exec (.take a) s = .next t ∧ t.me.pc = s.pc + 4 ∧ (s.my.replay = false → t.my.sp = s.my.sp)
          ∧ ∀ p < 128, t.my.pane p = if inside p then ⟨.core, false, s.my.dom, 0⟩ else s.my.pane p)
      ∧ Does (.ttest d a) s (logged s d (if s.me.pending (.g a) then BitVec.allOnes 64 else w))

/-- R338: SLOTLD with LOAD clear selects a phase: it is pending until the switch, or none is where it is the active one; with LOAD set it
loads the 256 entries of its image in 32 beats, and an image with an entry R337 does not allow traps at that entry.
(The model's own choices and readings in it: log 26.) -/
def Sys2Proof.Claims.SlotLoads : Prop :=
  ∀ a b s, Clear s → s.me.wait = none →
    let w := s.me.g a
    let im := s.me.g b
    let p := bits w 3 0
    (bits w 63 6 = 0 → bits w 5 4 = 2 →
        Does (.slotld a b) s (s.onMy fun x => { x with pending := if p = x.active then none else some p }))
      ∧ (bits w 63 6 ≠ 0 ∨ bits w 5 4 = 0 → Traps (.slotld a b) s .illegalInstruction w)
      ∧ (bits w 63 6 = 0 → w.getLsbD 4 = true → RangeOk s im.toNat 512 64 → p ≠ s.my.active → s.my.pending ≠ some p →
        s.my.spPoisoned im.toNat 512 = false →
        ((∀ e < 256, slotEntryOk (s.my.sp.le (im.toNat + 2 * e) 2) = true) →
          ∃ t, exec (.slotld a b) s = .next t ∧ t.me.status = .stalled ∧ t.me.issueFrom = s.beat + 32
            ∧ (∀ e < 256, t.my.slotEntry p e = BitVec.ofNat 16 (s.my.sp.le (im.toNat + 2 * e) 2))
            ∧ ∀ q e, q ≠ p → e < 256 → t.my.slotEntry q e = s.my.slotEntry q e)
        ∧ ∀ e < 256, slotEntryOk (s.my.sp.le (im.toNat + 2 * e) 2) = false →
          (∀ j < e, slotEntryOk (s.my.sp.le (im.toNat + 2 * j) 2) = true) → Traps (.slotld a b) s .illegalInstruction (im + BitVec.ofNat 64 (2 * e)))

/-! ### Privileged instructions (R398 to R406) -/

/-- R399: TRET of a TRAPPED context: with AT clear it resumes at its TRAPPC, with AT set at g[b]; ICOUNT restarts after WATCHDOG alone; ST
and PFX stay as the trap left them; gd takes 1.  One that is not TRAPPED gives 0, and a misaligned g[b] gives 2, with no effect. -/
def Sys2Proof.Claims.TrapReturn : Prop :=
  ∀ d a b s, Firmware s →
    let w := s.me.g a
    let c := bits w 2 0
    let k := s.ctxAt s.cur c
    bits w 63 4 = 0 → c ≤ 4 →
      (k.status ≠ .trapped → Does (.tret d a b) s (s.putG d 0))
        ∧ (k.status = .trapped → w.getLsbD 3 = true → bits (s.me.g b) 1 0 ≠ 0 → Does (.tret d a b) s (s.putG d 2))
        ∧ (k.status = .trapped → (w.getLsbD 3 = false ∨ bits (s.me.g b) 1 0 = 0) → ∃ t, exec (.tret d a b) s = .next t ∧ (d ≠ 0 → t.me.g d = 1)
          ∧ t.me.pc = s.pc + 4 ∧ (∀ r, r ≠ d → t.me.g r = s.me.g r)
          ∧ (t.ctxAt s.cur c).status = .running ∧ (t.ctxAt s.cur c).pc = (if w.getLsbD 3 then s.me.g b else k.trappc)
          ∧ (t.ctxAt s.cur c).icount = (if bits k.trapc 4 0 = 0x1A then 0 else k.icount) ∧ (t.ctxAt s.cur c).st = k.st
          ∧ (t.ctxAt s.cur c).pfx = k.pfx ∧ (t.ctxAt s.cur c).gs = k.gs ∧ (t.ctxAt s.cur c).vs = k.vs ∧ (t.ctxAt s.cur c).trapc = 0
          ∧ (t.ctxAt s.cur c).issueFrom = s.beat + 1 ∧ ∀ e, e ≠ c → e ≠ 5 → t.ctxAt s.cur e = s.ctxAt s.cur e)

/-- R400 to R406: the other PRIV instructions with legal control words: TLBWR of an entry of the bound domain installs it (0 for another);
TLBINV with no access under way removes entries and counts them; DOMKILL and COLKILL start their kills; GANGSW asks the Gong root; LOGCTL
reads and sets a log level; HALT takes S's next service event; LOOPB places its message.
(The model's own choices and readings in it: logs 25, 26, 51.) -/
def Sys2Proof.Claims.FirmwareEffects : Prop :=
  ∀ d a b s, Firmware s →
    let w := s.me.g a
    let u := s.me.g b
    (bits w 6 0 = 0 → bits w 63 52 = s.my.dom → Does (.tlbwr d a b) s ((s.onMy (·.takeFill (tlbOf w u))).putG d 1))
      ∧ (bits w 6 0 = 0 → bits w 63 52 ≠ s.my.dom → Does (.tlbwr d a b) s (s.putG d 0))
      ∧ (s.me.wait = none → bits u 63 2 = 0 → bits u 1 0 ≠ 3 → (∀ big, s.my.usesRemoved w.toNat (bits u 1 0) big = false) →
          let gone (e : TlbEntry) : Bool := match bits u 1 0 with
            | 0 => e.dom == s.my.dom && e.maps w.toNat
            | 1 => e.dom == s.my.dom
            | _ => true
          Does (.tlbinv d a b) s ((s.onMy fun x => { x with tlb := x.tlb.filter fun e => !gone e }).putG d (BitVec.ofNat 64 (s.my.tlb.filter gone).length)))
      ∧ (s.me.wait = none → u = 4 → (∀ big, s.my.usesRemoved w.toNat 0 big = false) →
          let gone (e : TlbEntry) : Bool := e.dom == s.my.dom && e.maps w.toNat
          let t := s.onMy fun x => { x with tlb := x.tlb.filter fun e => !gone e }
          Does (.tlbinv d a b) s ((match s.my.tlb.filter gone with
            | [] => t
            | e :: _ => t.flushPage (dieOf s.cur) e.pte (if e.big then 2 ^ 28 else 65536)).putG d (BitVec.ofNat 64 (s.my.tlb.filter gone).length)))
      ∧ (bits w 63 12 = 0 → bits w 11 0 ≠ 0 → bits w 11 0 ≠ 0xFFF → Does (.domkill a) s (s.killDomain (bits w 11 0) 0))
      ∧ (bits w 63 52 ≠ 0 → bits w 63 52 ≠ 0xFFF → Does (.colkill a) s (s.killColour (s.addr s.cur) (bits w 63 52) (bits w 51 40) 0))
      ∧ (s.me.wait = none → bits w 63 13 = 0 → bits w 11 0 ≠ 0 → bits w 11 0 ≠ 0xFFF →
          Asks (.gangsw d a b) s s ⟨.gangSw, 0, 0, 0, false, 0, w, u⟩ (.gongRootAnswer s.cur s.who))
      ∧ (∀ q (v : VReg), s.me.wait = some (.answered q v) → Does (.gangsw d a b) s (s.putG d (v.setWidth 64)))
      ∧ (∀ r, bits u 63 3 = 0 → bits u 1 0 ≠ 3 → s.domain (bits w 11 0) = some r →
          Does (.logctl d a b) s ((s.onDomain (bits w 11 0) fun q =>
            { q with logLevel := if u.getLsbD 2 then r.logLevel else bits u 1 0, logGap := false }).putG d
              (BitVec.ofNat 64 (r.logLevel + if r.logGap then 4 else 0))))
      ∧ (bits u 63 3 = 0 → bits u 1 0 ≠ 3 → s.domain (bits w 11 0) = none → Does (.logctl d a b) s (s.putG d 0))
      ∧ (∀ e rest, w = 0 → s.my.sEvents = e :: rest →
          Does (.halt a) s (s.onMy fun x => { x with sEvents := rest, serving := match e with | .trap c => some c | _ => none }))
      ∧ (w = 1 → exec (.halt a) s = .next (s.withdraw s.cur))
      ∧ (∀ keep refill, RangeOk s w.toNat 152 8 → StoresDone s → s.my.loopIn = [] → s.my.spPoisoned w.toNat 152 = false →
          (h0Of (s.loopMsg keep w.toNat).h0).len ≤ 16 →
          Does (.loopb keep refill a) s ((if keep then s else s.takeSeq s.cur).onMy fun x =>
            { x with loopIn := x.loopIn ++ [.msg (s.loopMsg keep w.toNat) refill] }))

/-! ### Frames and invariants -/

/-- The instructions whose only effect is on registers and the pc: integer, control, immediate, vector integer, permute, predicate, carry,
residue-forward and scratchpad load instructions, and reads of fields, counters and barrier values. -/
def Sys2Proof.Claims.quiet : Instr → Bool
  | .add .. | .sub .. | .and .. | .or .. | .xor .. | .sll .. | .srl .. | .sra .. | .slt .. | .sltu .. | .min .. | .max .. | .addw .. | .subw ..
  | .mul .. | .mulh .. | .mulhu .. | .div .. | .divu .. | .rem .. | .remu .. | .clz .. | .ctz .. | .popc .. | .brev .. | .bswap .. | .addi ..
  | .andi .. | .ori .. | .xori .. | .slti .. | .slli .. | .srli .. | .srai .. | .exts .. | .extz .. | .ins .. | .li .. | .lim .. | .addpc ..
  | .sel .. | .beq .. | .bne .. | .blt .. | .bge .. | .bltu .. | .bgeu .. | .j .. | .call .. | .jr .. | .callr .. | .mrtn | .ldb .. | .ldbu ..
  | .ldh .. | .ldhu .. | .ldw .. | .ldwu .. | .ldd .. | .vadd .. | .vsub .. | .vmul .. | .vmulh .. | .vand .. | .vor .. | .vxor .. | .vshl ..
  | .vshr .. | .vsar .. | .vmin .. | .vmax .. | .vbcast .. | .vextr .. | .vins .. | .vperm .. | .vslide .. | .vsel .. | .vcmpEq .. | .vcmpNe ..
  | .vcmpLt .. | .vcmpLe .. | .vcmpLtu .. | .vcmpLeu .. | .kand .. | .kor .. | .kxor .. | .kandn .. | .kmovToG .. | .kmovFromG .. | .kpopc ..
  | .vaddc .. | .vsubb .. | .vrnsf .. | .vld .. | .vlds .. | .vldx .. | .tgget .. | .cntget .. | .barval .. => true
  | _ => false

/-- The floating-point instructions, scalar and vector. -/
def Sys2Proof.Claims.floats : Instr → Bool
  | .fadd .. | .fsub .. | .fmul .. | .fdiv .. | .fsqrt .. | .fmin .. | .fmax .. | .feq .. | .flt .. | .fle .. | .fclass .. | .fcvtSD .. | .fcvtDS ..
  | .fcvtWS .. | .fcvtSW .. | .fcvtLD .. | .fcvtDL .. | .fmadd .. | .fmsub .. | .fnmadd .. | .vfadd .. | .vfsub .. | .vfmul .. | .vfmin ..
  | .vfmax .. | .vfexp2 .. | .vflog2 .. | .vfrcp .. | .vfrsq .. | .vfma .. | .vfms .. | .vfnma .. | .vcvt .. | .vqblk .. | .vdqblk .. | .vrsum ..
  | .vrmax .. | .vrmin .. | .vscan .. | .vfcmpEq .. | .vfcmpLt .. | .vfcmpLe .. | .vfcmpUn .. => true
  | _ => false

/-- R12, R26, R30, R88, R113: the frame of the register forms.  One that does not trap changes, in its own context, its destination
registers (at once, or by pending writes that name no other register), the pc and ICOUNT; a floating-point one also raises flags, clears
PEND, steps the generator and counts events.  Every other register, ST bit and special register, every other context and tile, every byte
of memory and of the scratchpad, and everything else stays. -/
def Obligations.FrameOfRegisterForms : Prop :=
  ∀ i s t, exec i s = .next t →
    let kept : Prop := SameRegs s.me t.me (fun d => d ∈ dsts i) ∧ SameSpecial s.me t.me ∧ t.me.icount = s.me.icount + 1
    (quiet i = true → (∃ c va, t = s.trapMe c va) ∨
        (kept ∧ t.me.st = s.me.st ∧ t.me.rngseed = s.me.rngseed ∧ OnlyMe s t))
      ∧ (floats i = true → (∃ c va, t = s.trapMe c va) ∨
        (kept ∧ (∃ f : Fl, t.me.st = (s.me.st ||| f.word) &&& ~~~0x10) ∧ OnlyMeEvc s t))

/-- R113, R135 to R138, R18: the frame of the forms that store to the scratchpad.  One that does not trap changes the pc and ICOUNT of its
context and bytes of its tile's scratchpad at the addresses it computes: those of the word of each active lane, or the bytes of the scalar
store, and the doubleword that an injection armed for the scratchpad names (R407; one that poisons a doubleword of panes 124 to 127 makes a
DOUBLE_FAULT the next step, R373); no register or special register, no flag but those of VSCATADD's FP32 sums, no other context and no other
tile, no byte of memory and no other byte of the scratchpad.
(The model's own choices and readings in it: log 20.) -/
def Obligations.FrameOfStores : Prop :=
  ∀ i s t, exec i s = .next t → (∀ c va, t ≠ s.trapMe c va) →
    let lanes (k : KReg) : List Nat := (List.range 32).filter (s.me.k k).getLsbD
    let x32 (b : Reg) (l : Nat) : Int := (BitVec.ofNat 32 (laneOf (s.me.v b) 32 l)).toInt
    let only (touch : List (Int × Nat)) : Prop :=
      SameRegs s.me t.me (fun _ => False) ∧ SameSpecial s.me t.me ∧ (t.me.st = s.me.st ∨ ∃ v a b k f, i = .vscatadd v a b k .f32 ∧
          t.me.st = s.me.st ||| Fl.word f) ∧ t.me.rngseed = s.me.rngseed
        ∧ t.me.icount = s.me.icount + 1 ∧ { t with tiles := s.tiles, now := s.now } = s ∧ (∀ x, x % 32768 ≠ s.cur % 32768 → t.tile x = s.tile x)
        ∧ (t.now = s.now ∨ (s.my.armed 0 = true ∧ 0x7C000 / 8 ≤ bits s.my.errinj 18 0 / 8 ∧ t.now = s.now ++ [.doubleFault s.cur]))
        ∧ { t.my with ctxs := s.my.ctxs, sp := s.my.sp, spPoison := s.my.spPoison, errinj := s.my.errinj, evc := s.my.evc,
                      evcNew := s.my.evcNew } = s.my
        ∧ ((t.my.evc = s.my.evc ∧ t.my.evcNew = s.my.evcNew) ∨ ∃ v a b k, i = .vscatadd v a b k .f32)
        ∧ (∀ c, c ≠ s.who.val → t.my.ctx c = s.my.ctx c) ∧ (∀ a n, t.memRead a n = s.memRead a n)
        ∧ ∀ x : Nat, (∀ p ∈ touch, (x : Int) < p.1 ∨ p.1 + p.2 ≤ x) →
          (s.my.armed 0 = true → x / 8 ≠ bits s.my.errinj 18 0 / 8) → t.my.sp.get x = s.my.sp.get x
    match i with
    | .stb _ a o => only [(s.ea a o, 1)]
    | .sth _ a o => only [(s.ea a o, 2)]
    | .stw _ a o => only [(s.ea a o, 4)]
    | .std _ a o => only [(s.ea a o, 8)]
    | .vst _ a k o => only ((lanes k).map fun (l : Nat) => (s.vbase a o + 4 * l, 4))
    | .vsts _ a b k o => only ((lanes k).map fun (l : Nat) => (s.vbase a o + l * (s.me.g b).toInt, 4))
    | .vstx _ a b k o => only ((lanes k).map fun l => (s.vbase a o + x32 b l, 4))
    | .vscatadd _ a b k _ => only ((lanes k).map fun l => (((s.me.g a).toNat : Int) + x32 b l, 4))
    | _ => True

/-- The memories in their canonical form: addresses rising, no zero listed (the model's representation of memory, log 3): the module's
memory, the host's, the code the loader placed, the scratchpad of every tile and of every tile saved in a gang switch. -/
def Sys2Proof.Claims.MemForm (s : State) : Prop :=
  s.mem.wf = true ∧ s.hostMem.wf = true ∧ s.code.wf = true ∧ (∀ p ∈ s.tiles, p.2.sp.wf = true)
    ∧ ∀ d ∈ s.domains, ∀ p ∈ d.saved, p.2.sp.wf = true

/-- Memory is in its canonical form at reset. -/
def Obligations.MemoryFormAtReset : Prop := MemForm State.reset

/-- Every step keeps memory in its canonical form. -/
def Obligations.MemoryFormKept : Prop := ∀ s t, MemForm s → step s = .next t → MemForm t

/-- R34, R36, R110: rounding is exact where it can be: a number of a format that is no NaN, converted to that format under any mode and any draw, is
that number, with no flag and no saturation. -/
def Obligations.RoundingExact : Prop :=
  ∀ f ∈ [fp64, fp32, bf16, fp16], ∀ (md : Mode) (x : Nat), x < 2 ^ f.width → md.sat = false → (f.dec x).isNan = false →
    fCvt f md (f.dec x) = ⟨x, {}, false⟩

/-! ### The network interface (R152 to R178, R384) -/

/-- The domain of tile `n` logs no arrival (R393). -/
def Sys2Proof.Claims.Unlogged (s : State) (n : Nat) : Prop := ∀ d, s.domain (s.tile n).dom = some d → d.logLevel = 0

/-- A tile's message arrives in a queue: the slot at the tail of queue `q` with the tile's next arrival order (of `orders` that it takes), and no other queue, no context,
no byte of the scratchpad and no network changed, nor memory where the domain logs nothing. -/
def Sys2Proof.Claims.Queued (s t : State) (n q : Nat) (sl : Slot) (orders : Nat := 1) : Prop :=
  ((t.tile n).queue q).waiting = ((s.tile n).queue q).waiting ++ [{ sl with order := (s.tile n).order, owed := [] }] ∧ (t.tile n).order = (s.tile n).order + orders
    ∧ (∀ p, p ≠ q → (t.tile n).queue p = (s.tile n).queue p) ∧ (t.tile n).ctxs = (s.tile n).ctxs ∧ (t.tile n).sp = (s.tile n).sp
    ∧ t.net = s.net ∧ (Unlogged s n → t.mem = s.mem) ∧ ∀ x, x % 32768 ≠ n % 32768 → t.tile x = s.tile x

/-- Queue `q` of tile `n` takes a new slot in the tile: it does not spill and is below its depth; no injection is armed for a slot. -/
def Sys2Proof.Claims.HasRoom (s : State) (n q : Nat) : Prop :=
  ((s.tile n).queue q).spilling = false ∧ (s.tile n).occupancy q < ((s.tile n).queue q).depth ∧ (s.tile n).armed 2 = false

/-- No counter fires by the arrival: it names none, or its value stays below the threshold. -/
def Sys2Proof.Claims.NoFire (s : State) (n : Nat) (m : Msg) (src : Src) : Prop :=
  src = .net → let k := (s.tile n).counter (h0Of m.h0).cnt
    (h0Of m.h0).cnt = 0 ∨ k.armed = false ∨ min (k.value + 1) (2 ^ 32 - 1) < k.threshold

/-- R153, R160, R161, R163: what Arrive does with a message at tile `n`.  A spill and a verdict enter the service buffer here however full it is: it
is before Arrive that what must not is made to wait.  (The model's own choices and readings in it: log 59, by which what enters Arrive from a
counter or a barrier waits for no entry of the buffer, and log 66 for a spilled entry whose place has failed.) -/
def Sys2Proof.Claims.ArriveRules : Prop :=
  ∀ (s : State) (n : Nat) (m : Msg) (src : Src),
    let x := s.tile n
    let h := h0Of m.h0
    let t := s.arrive n m src
    let u := if src = .net ∨ src = .refill then s
      else s.onTile n fun x => { x with resolved := (x.resolved + if domOf m.tag = x.dom then 1 else 0) % 2 ^ 32 }
    let lives : Prop := x.killed m.tag = false ∧ x.withdrawn = false
    let toHandler : Prop := lives ∧ h.hid ≠ 0xFFF ∧ domOf m.tag = x.dom ∧ x.dom ≠ 0
    (x.killed m.tag = true → t = u)
      ∧ (x.killed m.tag = false → x.withdrawn = true → t = u.returnOrDrop n m)
      ∧ (lives → h.hid ≠ 0xFFF → domOf m.tag ≠ x.dom ∨ x.dom = 0 → t = u.returnOrDrop n m)
      ∧ (lives → h.hid = 0xFFF → domOf m.tag = x.dom → x.dom ≠ 0 → (h1Of m.h1).src = s.addr n →
          (t.tile n).svc = x.svc ++ [.verdict m] ∧ (t.tile n).sEvents = x.sEvents ++ [.serviceBuffer] ∧ t.later = s.later ++ [.serviceVerdict n])
      ∧ (lives → h.hid = 0xFFF → domOf m.tag ≠ x.dom ∨ x.dom = 0 ∨ (h1Of m.h1).src ≠ s.addr n → t = u)
      ∧ (toHandler → s.validHandler n x.dom h.hid = none → t = u.returnOrDrop n m)
      ∧ ∀ e, toHandler → s.validHandler n x.dom h.hid = some e →
        (e.arity2 = true → 8 < h.len → t = u.returnOrDrop n m)
          ∧ (e.arity2 = false → HasRoom s n e.queue → src ≠ .refill → NoFire s n m src → Queued s t n e.queue ⟨m, 0, 0, none, false, []⟩
            ∧ ∀ c, 1 ≤ c → c < 64 → (t.tile n).counter c =
                if src = .net ∧ c = h.cnt ∧ (x.counter c).armed = true then { x.counter c with value := min ((x.counter c).value + 1) (2 ^ 32 - 1) }
                else x.counter c)
          ∧ (¬ (e.arity2 = true ∧ 8 < h.len) → src = .refill → x.armed 2 = false →
            ((t.tile n).queue e.queue).waiting = (x.queue e.queue).waiting ++ [⟨m, x.order, 0, none, false, []⟩] ∧ (t.tile n).order = x.order + 1)
          ∧ (e.arity2 = true → h.len ≤ 8 → src ≠ .refill → NoFire s n m src →
            (∀ a p b, x.store = a ++ p :: b → (∀ u ∈ a, partners u.msg m = false) → partners p.msg m = true → HasRoom s n e.queue →
              Queued s t n e.queue (pairSlot p.msg m) ∧ (t.tile n).store = a ++ b)
            ∧ ((∀ u ∈ x.store, partners u.msg m = false) → x.areaUsed = 0 → x.storeUsed < 512 → x.armed 3 = false →
              (t.tile n).store = x.store ++ [⟨m, 0, 0, none, false, []⟩] ∧ (t.tile n).order = x.order + 1)
            ∧ ((∀ u ∈ x.store, partners u.msg m = false) → (0 < x.areaUsed ∨ 512 ≤ x.storeUsed) →
              ((∃ u ∈ x.area, partners u.msg m = true) ∨ s.poolRoom x.dom x.areaUsed = true) →
              (∃ bad, (t.tile n).area = x.area ++ [⟨m, 0, 0, none, bad, []⟩] ∧ (s.failedStacks = [] → bad = false)) ∧ (t.tile n).store = x.store
                ∧ (t.tile n).order = x.order + 1))
          ∧ (e.arity2 = false → src ≠ .refill → ((x.queue e.queue).spilling = true ∨ (x.queue e.queue).depth ≤ x.occupancy e.queue) →
            ((x.queue e.queue).spill = false → h.vn = false → t = (u.onTile n fun y => y.useHandler x.dom h.hid e).returnOrDrop n m)
            ∧ ((x.queue e.queue).spill = true ∨ h.vn = true → s.poolRoom x.dom (x.queue e.queue).ring.length = true → NoFire s n m src →
              (∃ bad, ((t.tile n).queue e.queue).ring = (x.queue e.queue).ring ++ [⟨m, x.order, 0, none, bad, [m]⟩] ∧ (s.failedStacks = [] → bad = false))
                ∧ ((t.tile n).queue e.queue).spilling = true ∧ ((t.tile n).queue e.queue).waiting = (x.queue e.queue).waiting
                ∧ (x.svc.length < 8 → (t.tile n).svc = x.svc ++ [.spill e.queue] ∧ (t.tile n).sEvents = x.sEvents ++ [.serviceBuffer])))

/-- R154: a message that is refused goes back to its sender as a refusal, once; a refusal that is refused kills its colour with cause 0x22. -/
def Sys2Proof.Claims.ReturnRules : Prop :=
  ∀ (s : State) (n : Nat) (m : Msg) (d : Domain), s.domain (domOf m.tag) = some d →
    let h0 := h0Of m.h0
    let h1 := h1Of m.h1
    ((h1Of m.h1).returned = true → s.returnOrDrop n m = s.killColour (s.addr n) (domOf m.tag) (colOf m.tag) 0x22)
      ∧ (h1.returned = false →
        let r : Msg := ⟨({ h0 with dst := h1.src, hid := d.refusal, vn := true, cnt := 0, triple := false, copy := 0, drop := false } : H0).word,
          (⟨s.addr n, 6, h0.hid, true, (s.tile n).seq.toNat⟩ : H1).word, m.tag, m.pay⟩
        let t := s.returnOrDrop n m
        (∃ p, t.net = s.net ++ [p] ∧ p.msg = r ∧ p.reply = true ∧ p.place = n ∧ p.injected = false ∧ p.ejected = false ∧ p.dropped = false
            ∧ p.marked = false ∧ p.link = none) ∧ (t.tile n).seq = (s.tile n).seq + 1
          ∧ (t.tile n).queues = (s.tile n).queues ∧ (t.tile n).ctxs = (s.tile n).ctxs ∧ t.mem = s.mem)

/-- R151, R152, R153, R159, R171, R172: MESSAGE_ARRIVAL takes one message of its class: the first of S's loop, a message or work of S on a
ring or on the match-overflow area; or an ejected packet of its network that is the first of its source, one of PRI 1 before those of PRI 0;
unless it needs S and the service buffer is full.  A packet is voted where it is one of three copies.  One whose handler entry is still read
waits (the others are taken where none of them waits so).
(The model's own choices and readings in it: logs 10, 20; and log 59, by which no arrival of its class passes one that waits for the buffer.) -/
def Sys2Proof.Claims.ArrivalSteps : Prop :=
  ∀ (s : State) (n : Nat),
    (∀ l rest, (s.tile n).loopIn = l :: rest → (∀ i m, (s.tile n).loopIn[i]? = some m → s.loopLate n i m = false) →
        let u := s.onTile n fun x => { x with loopIn := rest }
        (8 ≤ (s.tile n).svc.length → s.loopNeedsS n l = true → exec (.messageArrival n .loopb) s = .next s)
          ∧ ((s.tile n).svc.length < 8 ∨ s.loopNeedsS n l = false → (∀ m refill, l = .msg m refill → exec (.messageArrival n .loopb) s = .next (u.arrive n m (if refill then .refill else .loopb)))
          ∧ (∀ q, l = .ring q → exec (.messageArrival n .loopb) s = .next (u.placeRefill n q))
          ∧ (l = .pair → exec (.messageArrival n .loopb) s = .next (u.placePair n)))
          ∧ (∀ q, l = .ring q → s.loopNeedsS n l = false)
          ∧ (∀ m, l = .msg m false → s.loopNeedsS n l = s.arrivalNeedsS n m))
      ∧ ((s.tile n).loopIn = [] → exec (.messageArrival n .loopb) s = .next s)
      ∧ (∀ m refill, (s.tile n).loopIn = [.msg m refill] → s.entryLate n 0 m = true → exec (.messageArrival n .loopb) s = .next { s with fv := s.fv + 1 })
      ∧ ∀ reply cls, (cls = .reply ∧ reply = true) ∨ (cls = .req ∧ reply = false) →
        let mine (p : Packet) : Bool := p.place == n % 32768 && p.ejected && p.reply == reply
        let pri (p : Packet) : Bool := (h0Of p.msg.h0).pri
        (∀ a p b, s.net = a ++ p :: b → mine p = true →
          (∀ q ∈ a, mine q = true → pri p = true ∧ pri q = false ∧ (h1Of q.msg.h1).src ≠ (h1Of p.msg.h1).src) →
          (pri p = true ∨ ∀ q ∈ b, mine q = true → pri q = false) →
          (∀ i q, s.net[i]? = some q → mine q = true → s.netLate n i q.msg = false) →
          let u := ({ s with net := a ++ b } : State).onTile n fun x => { x with resolved := (x.resolved + if domOf p.msg.tag = x.dom then 1 else 0) % 2 ^ 32 }
          (s.needsS n p.msg = true → 8 ≤ (s.tile n).svc.length → exec (.messageArrival n cls) s = .next s)
            ∧ (s.needsS n p.msg = false ∨ (s.tile n).svc.length < 8 → exec (.messageArrival n cls) s =
              .next (if (h0Of p.msg.h0).triple = true ∧ (s.tile n).withdrawn = false then u.vote n p.msg p.pos else u.arrive n p.msg .net)))
        ∧ ((∀ p ∈ s.net, mine p = false) → exec (.messageArrival n cls) s = .next s)
        ∧ (∀ a p b, s.net = a ++ p :: b → mine p = true → (∀ q ∈ a ++ b, mine q = false) → s.netLate n a.length p.msg = true →
          exec (.messageArrival n cls) s = .next { s with fv := s.fv + 1 })

/-- R153 to R161, R163, R172: messages arriving at a tile. -/
def Obligations.Arrivals : Prop := ArrivalSteps ∧ ArriveRules ∧ ReturnRules

/-- R384, R161: the first copy of a vote is kept, in the overflow area where the store is full; a second equal copy decides it, and the first
then arrives as a single message; an undecided vote whose time is over kills its colour with cause 0x21, a decided one counts an unequal copy.
(The model's own choices and readings in it: logs 20, 27, 56, 66.) -/
def Sys2Proof.Claims.VoteRules : Prop :=
  ∀ (s : State) (n : Nat),
    (∀ m pos, let x := s.tile n
      let key (v : Vote) : Bool := v.hid == (h0Of m.h0).hid && v.tag == m.tag && v.port == (h0Of m.h0).port && v.origin == voteOrigin m
      x.killed m.tag = false →
        ((∀ v ∈ x.votes, key v = false) →
          let kept (overflowed bad : Bool) : Vote := ⟨(h0Of m.h0).hid, m.tag, (h0Of m.h0).port, voteOrigin m, [m], false, s.beat, overflowed, bad⟩
          (x.areaUsed = 0 → x.storeUsed < 512 → x.armed 3 = false → ((s.vote n m pos).tile n).votes = x.votes ++ [kept false false])
            ∧ (0 < x.areaUsed ∨ 512 ≤ x.storeUsed → s.poolRoom x.dom x.areaUsed = true →
              ∃ bad, ((s.vote n m pos).tile n).votes = x.votes ++ [kept true bad] ∧ (s.failedStacks = [] → bad = false)))
        ∧ ∀ a v b c, x.votes = a ++ v :: b → (∀ u ∈ a ++ b, key u = false) → key v = true → v.copies = [c] → (x.armed 3 = false ∨ v.overflowed = true) →
          let put (w : Vote) : State := s.onTile n fun y => { y with votes := a ++ w :: b }
          s.vote n m pos = if (h0Of c.h0).len = (h0Of m.h0).len ∧ c.pay = m.pay
            then (put { v with copies := [c, m], decided := true }).arrive n (s.winner n c pos) .net else put { v with copies := [c, m] })
      ∧ ∀ a v b, (s.tile n).votes = a ++ v :: b →
        (s.beat < v.first + 65536 → exec (.voteTimeout n a.length) s = .next s)
          ∧ (v.first + 65536 ≤ s.beat → ∃ t, exec (.voteTimeout n a.length) s = .next t ∧ (t.tile n).votes = a ++ b
            ∧ (v.decided = true → vget (t.tile n).evc 14 0 = satAdd32 (vget (s.tile n).evc 14 0) 1)
            ∧ (v.decided = false → colOf v.tag ≠ 0 → (∃ d, s.domain (domOf v.tag) = some d ∧ d.moving = false ∧
                ∀ u ∈ d.tiles, (s.tile u).kills.length < 64) → ∃ k ∈ t.gong, k.dom = domOf v.tag ∧ k.col = colOf v.tag))

/-- R157, R159: SPILL_REFILL serves the service-buffer entry of a spill; when a refill is due (the ring holds entries and occupancy is at or
below half the depth) it enters the service buffer, and S, that entry served, sends the ring's entries by LOOPB: each goes to the tail of
its queue while the queue is below its depth, and the last ends spilling. -/
def Sys2Proof.Claims.RefillRules : Prop :=
  ∀ (s : State) (n q : Nat), q < 16 →
    let x := s.tile n
    let due : Prop := (x.queue q).ring ≠ [] ∧ x.occupancy q ≤ (x.queue q).depth / 2
    let same (t : State) : Prop := (t.tile n).queues = x.queues ∧ (t.tile n).ctxs = x.ctxs ∧ t.net = s.net ∧ t.mem = s.mem
    (SvcItem.spill q ∈ x.svc → ∃ t, exec (.spillRefill n q) s = .next t ∧ (t.tile n).svc = x.svc.erase (.spill q) ∧ same t)
      ∧ (SvcItem.spill q ∉ x.svc → ¬ due → ∃ t, exec (.spillRefill n q) s = .next t ∧ (t.tile n).svc = x.svc.erase (.refill q) ∧ same t)
      ∧ (SvcItem.spill q ∉ x.svc → due → SvcItem.refill q ∉ x.svc → x.svc.length < 8 →
          ∃ t, exec (.spillRefill n q) s = .next t ∧ (t.tile n).svc = x.svc ++ [.refill q] ∧ (t.tile n).sEvents = x.sEvents ++ [.serviceBuffer]
            ∧ t.later = s.later ++ [.spillRefill n q] ∧ same t)
      ∧ (SvcItem.spill q ∉ x.svc → due → SvcItem.refill q ∈ x.svc → x.loopIn = [] →
          ∃ t, exec (.spillRefill n q) s = .next t ∧ (t.tile n).svc = x.svc.erase (.refill q) ∧ (t.tile n).loopIn = [.ring q] ∧ same t)
      ∧ ∀ l, x.loopIn = .ring q :: l →
        (∀ sl rest, (x.queue q).ring = sl :: rest → x.occupancy q < (x.queue q).depth → x.armed 2 = false → sl.bad = false →
          ∃ t, exec (.messageArrival n .loopb) s = .next t ∧ ((t.tile n).queue q).waiting = (x.queue q).waiting ++ [{ sl with order := x.order, owed := [] }]
            ∧ ((t.tile n).queue q).ring = rest ∧ ((t.tile n).queue q).spilling = ((x.queue q).spilling && rest != [])
            ∧ (t.tile n).ctxs = x.ctxs ∧ (∀ p, p ≠ q → (t.tile n).queue p = x.queue p) ∧ t.net = s.net ∧ (Unlogged s n → t.mem = s.mem))
        ∧ ((x.queue q).ring = [] ∨ (x.queue q).depth ≤ x.occupancy q →
          ∃ t, exec (.messageArrival n .loopb) s = .next t ∧ (t.tile n).loopIn = l ∧ same t)

/-- R161: the match-overflow service sends an operand in the area and its partner there by LOOPB, as one matched arrival, or writes the oldest
entries back to the matching store when it holds at most 256. -/
def Sys2Proof.Claims.OverflowRules : Prop :=
  ∀ (s : State) (n : Nat),
    let x := s.tile n
    let pairs (i j : Nat) : Bool := match x.area[i]?, x.area[j]? with | some a, some b => partners a.msg b.msg | _, _ => false
    let clean : Prop := (∀ u ∈ x.area, u.bad = false) ∧ ∀ v ∈ x.votes, v.bad = false
    (clean → (∀ i j, i < j → pairs i j = false) → x.storeUsed ≤ 256 → x.armed 3 = false →
        ∃ t, exec (.matchOverflowService n) s = .next t ∧ (t.tile n).store = x.store ++ x.area.take (512 - x.storeUsed)
          ∧ (t.tile n).area = x.area.drop (512 - x.storeUsed) ∧ (t.tile n).queues = x.queues)
      ∧ (clean → (∀ i j, i < j → pairs i j = false) → 256 < x.storeUsed →
        ∃ t, exec (.matchOverflowService n) s = .next t ∧ (t.tile n).store = x.store ∧ (t.tile n).area = x.area ∧ (t.tile n).queues = x.queues)
      ∧ ∀ i j a b e, i < j → x.area[i]? = some a → x.area[j]? = some b → partners a.msg b.msg = true →
        (∀ k l, k < l → (l < j ∨ (l = j ∧ k < i)) → pairs k l = false) →
        (clean → ∃ t, exec (.matchOverflowService n) s = .next t ∧ LoopIn.pair ∈ (t.tile n).loopIn ∧ (t.tile n).area = x.area)
          ∧ (s.handler n x.dom (h0Of b.msg.h0).hid = some e → e.queue < 16 → HasRoom s n e.queue → ∀ l, x.loopIn = .pair :: l →
            ∃ t, exec (.messageArrival n .loopb) s = .next t ∧ Queued s t n e.queue (pairSlot a.msg b.msg) 2
              ∧ (t.tile n).area = (x.area.eraseIdx j).eraseIdx i)

/-- R164, R201, R391: a TIMER tick, at a beat that is a multiple of 1024, bumps the armed TIMER counters of a tile that is not in a switch and
was not resumed at this beat, but one that CNTSET set in this beat.
(The model's own choices and readings in it: log 48.) -/
def Sys2Proof.Claims.TimerRules : Prop :=
  ∀ (s : State) (n : Nat),
    let x := s.tile n
    (s.beat % 1024 ≠ 0 → exec (.timerTick n) s = .next s)
      ∧ ((∃ d, s.domain x.dom = some d ∧ (d.resumedAt = some s.beat ∨ d.gang = .out)) → exec (.timerTick n) s = .next s)
      ∧ (s.beat % 1024 = 0 → (∀ d, s.domain x.dom = some d → d.moving = false ∧ d.resumedAt ≠ some s.beat) →
        (∀ c < 64, (x.counter c).timer = true → (x.counter c).armed = true → min ((x.counter c).value + 1) (2 ^ 32 - 1) < (x.counter c).threshold) →
        ∃ t, exec (.timerTick n) s = .next t ∧ (t.tile n).ctxs = x.ctxs ∧ (t.tile n).queues = x.queues ∧ t.mem = s.mem
          ∧ ∀ c, 1 ≤ c → c < 64 → (t.tile n).counter c = if (x.counter c).timer = true ∧ (x.counter c).armed = true ∧ x.freshCnt ≠ some c
              then { x.counter c with value := min ((x.counter c).value + 1) (2 ^ 32 - 1) } else x.counter c)

/-- R28, R165, R166: a dispatch loads a FREE H from the lowest ready high queue, else the lowest FREE L context from the ready low queue of the
largest credit; the context then runs the handler of the message, its registers the parts of the message (the zero bits of its headers, R148,
R149, read as zero).
(The model's own choices and readings in it: log 10.) -/
def Sys2Proof.Claims.DispatchRules : Prop :=
  ∀ (s : State) (n : Nat),
    let x := s.tile n
    let loads (y : Tile) (c q : Nat) : Prop := ∀ sl rest, (y.queue q).waiting = sl :: rest →
      ∃ t, exec (.dispatch n) s = .next t ∧ ((t.tile n).queue q).waiting = rest ∧ (t.tile n).sp = x.sp ∧ t.mem = s.mem ∧ t.net = s.net
        ∧ (∀ e, e ≠ c → (t.tile n).ctx e = x.ctx e)
        ∧ let k := (t.tile n).ctx c
          k.status = .running ∧ k.tg = sl.msg.tag ∧ k.mh0 = sl.msg.h0 &&& 0xFFFFFFFFFFFFFC00 ∧ k.mh1 = sl.msg.h1 &&& 0xFFFFFFFFFFFFFF00 ∧ k.icount = 0 ∧ k.issueFrom = s.beat + 3
            ∧ k.g 1 = BitVec.ofNat 64 sl.msg.pay.length ∧ k.g 2 = BitVec.ofNat 64 (h1Of sl.msg.h1).src ∧ k.g 3 = BitVec.ofNat 64 q
            ∧ (∀ r, r ∉ [(1 : Reg), 2, 3] → k.g r = (x.ctx c).g r) ∧ k.vs = (x.ctx c).vs ∧ k.pendBit = false ∧ bits k.st 12 8 = 0 ∧ k.pend = []
            ∧ (∀ e, s.handler n x.dom (h0Of sl.msg.h0).hid = some e → k.pc = BitVec.ofNat 64 e.entry)
            ∧ (∀ j < 16, sl.rightPay = none → k.m j = sl.msg.pay.getD j 0) ∧ ∃ a, k.act = some a ∧ a.slot = sl ∧ a.queue = q
    let high (q : Nat) : Prop := q < 16 ∧ x.ready q = true ∧ (x.queue q).cls.isHigh = true
    let low (q : Nat) : Prop := q < 16 ∧ x.ready q = true ∧ (x.queue q).cls.isHigh = false
    let earned (q : Nat) : Int := (x.queue q).credit + (x.queue q).weight
    (x.dispatches = false → exec (.dispatch n) s = .next s)
      ∧ (x.dispatches = true → (x.ctx 4).status = .free → ∀ q, high q → (∀ p, high p → q ≤ p) → loads x 4 q)
      ∧ (x.dispatches = true → ((x.ctx 4).status ≠ .free ∨ ∀ q, ¬ high q) →
        (∀ c q, c < 4 → (x.ctx c).status = .free → (∀ e < c, (x.ctx e).status ≠ .free) → low q →
          (∀ p, low p → earned p < earned q ∨ (earned p = earned q ∧ q ≤ p)) → loads x c q)
        ∧ ((∀ c < 4, (x.ctx c).status ≠ .free) ∨ (∀ q, ¬ low q) → exec (.dispatch n) s = .next s))

/-- R194, R140: the colour allocator answers a request with a free colour, which it registers, or with 0 where none is free; that of another
module, for a domain of a federation with a lower member (R428), answers so or with 0.
(The model's own choices and readings in it: logs 5, 21.) -/
def Sys2Proof.Claims.ColourRules : Prop :=
  ∀ (s : State) (n c : Nat) (r : GReq) (d : Domain), c < 6 → (s.ctxAt n c).wait = some (.sent r) → r.kind = .tgNew → s.domain r.x.toNat = some d →
    ∃ t a, exec (.colourAllocatorAnswer n c) s = .next t ∧ (t.ctxAt n c).wait = some (.answered r (BitVec.ofNat 1024 a)) ∧ (t.ctxAt n c).status = .running
      ∧ (t.ctxAt n c).gs = (s.ctxAt n c).gs
      ∧ ((∃ b, 1 ≤ b ∧ b < 4096 ∧ s.colourFree d b = true) → (a = 0 ∧ ∃ m ∈ d.federation, m < s.modNo) ∨ (1 ≤ a ∧ a < 4096
        ∧ s.colourFree d a = true ∧ ∃ d' k, t.domain d.dom = some d' ∧ k ∈ d'.colours ∧ k.col = a))
      ∧ ((∀ b, 1 ≤ b → b < 4096 → s.colourFree d b = false) → a = 0)

/-- R157, R161, R164 to R166, R194, R384: the other steps of the network interface. -/
def Obligations.InterfaceSteps : Prop := VoteRules ∧ RefillRules ∧ OverflowRules ∧ TimerRules ∧ DispatchRules ∧ ColourRules

/-! ### Barriers (R203 to R207) -/

/-- R203 to R206: a join counts in the episode of its group, which the first join opens; the last completes it.  None leaves a viral die (R385). -/
def Sys2Proof.Claims.JoinRules : Prop :=
  ∀ (s : State) (n : Nat) j rest d, (s.tile n).joins = j :: rest → s.domain (domOf j.tag) = some d →
    (s.viralAt n = true → exec (.barrierJoinArrival n) s = .next s) ∧ (s.viralAt n = false →
    let u := s.onTile n fun x => { x with joins := rest }
    ∀ e : Episode, (match d.episodes.find? (·.g == j.g) with
        | none => e = ⟨j.g, j.n, j.op, j.hid, j.place, j.val, 1, false, j.evc, [(j.tile, j.tag)]⟩
        | some o => e.g = o.g ∧ e.n = o.n ∧ e.op = o.op ∧ e.hid = o.hid ∧ e.place = o.place ∧ e.count = o.count + 1
          ∧ e.acc = (match o.op with
            | 0 => o.acc + j.val
            | 1 => if o.acc.toInt < j.val.toInt then j.val else o.acc
            | _ => if j.val.toInt < o.acc.toInt then j.val else o.acc)
          ∧ (e.mismatch = true ↔ o.mismatch = true ∨ o.n ≠ j.n ∨ o.op ≠ j.op ∨ o.hid ≠ j.hid ∨ o.place ≠ j.place)
          ∧ e.evc.length = 16 ∧ (∀ i < 16, e.evc.getD i 0 = min (o.evc.getD i 0 + j.evc.getD i 0) (2 ^ 32 - 1))
          ∧ e.joiners = o.joiners ++ [(j.tile, j.tag)]) →
      (e.count ≠ e.n → exec (.barrierJoinArrival n) s = .next (u.onDomain d.dom fun d => { d with episodes := e :: d.episodes.filter (·.g != j.g) }))
        ∧ (e.count = e.n → ∃ t k, exec (.barrierJoinArrival n) s = .next t ∧ (t.tile n).joins = rest
          ∧ (∀ p ∈ e.joiners, ∃ m, (m, e.g, e.acc) ∈ (t.tile p.1).completions ∧ m.tag = p.2 ∧ .barrierCompletion p.1 ∈ t.later
            ∧ (h0Of m.h0).hid = e.hid % 4096 ∧ (h0Of m.h0).len = 2 ∧ m.pay = [e.acc, BitVec.ofNat 64 (k + if e.mismatch then 2 ^ 32 else 0)])
          ∧ (∀ r, t.domain d.dom = some r → r.episodes = d.episodes.filter (·.g != j.g))
          ∧ (e.place + 128 ≤ 2 ^ 40 → e.place % 128 = 0 → s.mem.wf = true → s.groupAt e.place = none → s.failedAt e.place = false →
            t.memLe e.place 8 = e.acc.toNat ∧ t.memLe (e.place + 8) 4 = k % 2 ^ 32 ∧ t.memLe (e.place + 12) 4 = e.n % 2 ^ 32
              ∧ t.memLe (e.place + 16) 4 = (if e.mismatch then 1 else 0)
              ∧ ∀ i < 16, t.memLe (e.place + 64 + 4 * i) 4 = e.evc.getD i 0 % 2 ^ 32)))

/-- R205: a completion writes BARVAL of its group and its message, with the tile's next number, arrives.
(The model's own choices and readings in it: log 10.) -/
def Sys2Proof.Claims.CompletionRules : Prop :=
  ∀ (s : State) (n : Nat),
    ((s.tile n).completions = [] → exec (.barrierCompletion n) s = .next s)
      ∧ ∀ m g w rest, (s.tile n).completions = (m, g, w) :: rest →
        let x := s.tile n
        exec (.barrierCompletion n) s = .next ((s.setTile n { x with completions := rest, barval := vset x.barval g w, seq := x.seq + 1 }).arrive n
          { m with h1 := ({ h1Of m.h1 with seq := x.seq.toNat } : H1).word } .barrier)

/-- R203 to R207: the Carillon. -/
def Obligations.BarrierSteps : Prop := JoinRules ∧ CompletionRules

/-! ### A context's own accesses (R21, R252 to R270) -/

/-- A physical address whose writes go to one memory target of the module that keeps them. -/
def Sys2Proof.Claims.Solo (s : State) (pa : Nat) : Prop := inWindow pa = false ∧ s.groupAt pa = none ∧ s.failedAt pa = false

/-- R235, R252, R253, R268: the oldest store of a queue is performed: uncached, its bytes reach memory, and a line of the die's cache that
holds them, and no other byte changes; cached, the die's cache holds the bytes, and memory stays while the line or its set has room; on a
tile that replays, it is dropped (R394); a viral die's stores are held (R385).
(The model's own choices and readings in it: logs 6, 7, 13.) -/
def Sys2Proof.Claims.StoreRules : Prop :=
  ∀ (s : State) (n c : Nat), c < 6 →
    (s.viralAt n = true → exec (.storeQueuePerform n c) s = .next { s with later := s.later ++ [.storeQueuePerform n c] })
      ∧ (s.viralAt n = false → (s.ctxAt n c).storeQ = [] → exec (.storeQueuePerform n c) s = .next s)
      ∧ ∀ q rest, s.viralAt n = false → (s.ctxAt n c).storeQ = q :: rest →
        let u := s.onCtx n c fun k => { k with storeQ := rest }
        ((s.tile n).replay = true → exec (.storeQueuePerform n c) s = .next u)
          ∧ ((s.tile n).replay = false → s.targetDown n q.pa = false → ∃ t, exec (.storeQueuePerform n c) s = .next t
            ∧ (t.ctxAt n c).storeQ = rest ∧ (t.ctxAt n c).gs = (s.ctxAt n c).gs ∧ (t.ctxAt n c).pc = (s.ctxAt n c).pc ∧ (t.tile n).sp = (s.tile n).sp
            ∧ (q.cached = false → Solo s q.pa → s.mem.wf = true →
              (∀ j < q.size, t.mem.get (q.pa + j) = BitVec.ofNat 8 (q.val.toNat / 256 ^ j))
                ∧ (∀ a, (a < q.pa ∨ q.pa + q.size ≤ a) → t.mem.get a = s.mem.get a) ∧ t.hostMem = s.hostMem
                ∧ (s.line? (dieOf n) (q.pa / 128) = none → t.caches = s.caches)
                ∧ ((s.line? (dieOf n) (q.pa / 128)).isSome = true → q.pa % 128 + q.size ≤ 128 → (∀ x, (s.tile x).armed 5 = false) →
                  ∃ l, t.line? (dieOf n) (q.pa / 128) = some l ∧ ∀ j < q.size,
                    l.data.toNat / 256 ^ (q.pa % 128 + j) % 256 = q.val.toNat / 256 ^ j % 256 ∧ l.dirty.getLsbD (q.pa % 128 + j) = false))
            ∧ (q.cached = true → q.pa % 128 + q.size ≤ 128 → q.size ≤ 8 → (∀ x, (s.tile x).armed 5 = false) →
              ((s.line? (dieOf n) (q.pa / 128)).isSome = true
                  ∨ (s.caches.filter fun l => l.die == dieOf n && cacheSetOf l.line == cacheSetOf (q.pa / 128)).length < 16 →
                t.mem = s.mem ∧ t.hostMem = s.hostMem)
                ∧ q.pa / 128 ∈ (t.ctxAt n c).dirtied ∧ ∃ l, t.line? (dieOf n) (q.pa / 128) = some l ∧ ∀ j < q.size,
                  l.data.toNat / 256 ^ (q.pa % 128 + j) % 256 = q.val.toNat / 256 ^ j % 256 ∧ l.dirty.getLsbD (q.pa % 128 + j) = true))
          ∧ ((s.tile n).replay = false → s.targetDown n q.pa = true → ∃ t, exec (.storeQueuePerform n c) s = .next t
            ∧ ∃ va, (t.ctxAt n c).failedStore = some va ∧ ((s.ctxAt n c).failedStore = none → va = q.va))

/-- R235, R252 to R254, R257, R260, R266, R270, R273, R450: the answer to a request: an uncached load's bytes from memory, with those of the
context's own queued stores first and then those its die's cache holds dirty; a cached load's from the die's cache, which then holds the line, and
from memory where the line lacks them; an atomic's old operand, its operand changed, after the context's queued stores; ACQ's comparison with its
exchange, and if it succeeds the die's lines of the object are clean no more: the clean ones dropped, and the bytes that are not dirty read again;
a poisoned operand fails UNCORRECTABLE_DATA, a link that is down TARGET_GONE; a viral die's requests are held.
(The model's own choices and readings in it: logs 7, 13, 62.) -/
def Sys2Proof.Claims.AnswerRules : Prop :=
  ∀ (s : State) (n c : Nat) (r : GReq), c < 6 → (s.ctxAt n c).wait = some (.sent r) →
    let answers (t : State) (w : Wait) : Prop := exec (.globalAnswerReturn n c) s = .next t ∧ (t.ctxAt n c).wait = some w
      ∧ (t.ctxAt n c).status = .running ∧ (t.ctxAt n c).gs = (s.ctxAt n c).gs
    let line := s.line? (dieOf n) (r.pa / 128)
    let stored := (s.ctxAt n c).storeQ
    let again : Prop := exec (.globalAnswerReturn n c) s = .next { s with later := s.later ++ [.globalAnswerReturn n c] }
    (r.kind.served = false → s.viralAt n = true → again)
      ∧ (r.kind.isAtomic = true → stored ≠ [] → again)
      ∧ (r.kind = .load → r.cached = false → s.viralAt n = false → s.targetDown n r.pa = false → r.size ∈ [1, 2, 4, 8, 128] → r.pa % r.size = 0 →
        (line = none → stored = [] → s.memPoisoned r.pa r.size = true →
            ∃ t, answers t (.failed r .uncorrectableData (BitVec.ofNat 64 r.va)) ∧ t.mem = s.mem)
          ∧ (s.memPoisoned (r.pa / 128 * 128) 128 = false → (∀ l, line = some l → l.poison = 0) →
            ∃ t v, answers t (.answered r v) ∧ t.mem = s.mem ∧ ∀ j < r.size,
            ((∀ q ∈ stored, r.pa + j < q.pa ∨ q.pa + q.size ≤ r.pa + j) → v.toNat / 256 ^ j % 256 = match line with
                | some l => if l.dirty.getLsbD (r.pa % 128 + j) then l.data.toNat / 256 ^ (r.pa % 128 + j) % 256 else ((s.memRead r.pa r.size).getD j 0).toNat
                | none => ((s.memRead r.pa r.size).getD j 0).toNat)
              ∧ ∀ a q b, stored = a ++ q :: b → q.pa ≤ r.pa + j → r.pa + j < q.pa + q.size →
                (∀ p ∈ b, r.pa + j < p.pa ∨ p.pa + p.size ≤ r.pa + j) → v.toNat / 256 ^ j % 256 = q.val.toNat / 256 ^ (r.pa + j - q.pa) % 256))
      ∧ (r.kind.isAtomic = true → stored = [] → s.viralAt n = false → (s.tile n).replay = false → s.targetDown n r.pa = false →
        s.mustRetry n r = false → line = none →
        let w := s.memLe r.pa r.size
        (s.memPoisoned r.pa r.size = true → ∃ t, answers t (.failed r .uncorrectableData (BitVec.ofNat 64 r.va)) ∧ t.mem = s.mem)
          ∧ (s.memPoisoned r.pa r.size = false → ∃ t, answers t (.answered r (atomResult r.kind w r.y))
            ∧ (Solo s r.pa → s.mem.wf = true → t.memLe r.pa r.size = atomNew r.kind w r.x r.y % 256 ^ r.size
              ∧ ∀ a, (a < r.pa ∨ r.pa + r.size ≤ a) → t.mem.get a = s.mem.get a)))
      ∧ (r.kind = .load → r.cached = true → s.viralAt n = false → s.targetDown n r.pa = false → r.size ∈ [1, 2, 4, 8, 128] → r.pa % r.size = 0 →
        s.memPoisoned (r.pa / 128 * 128) 128 = false → (∀ l, line = some l → l.poison = 0) →
        (line.isSome = true ∨ (s.caches.filter fun l => l.die == dieOf n && cacheSetOf l.line == cacheSetOf (r.pa / 128)).length < 16) →
        ∃ t v, answers t (.answered r v) ∧ t.mem = s.mem ∧ (t.line? (dieOf n) (r.pa / 128)).isSome = true ∧ ∀ j < r.size,
          (∀ q ∈ stored, r.pa + j < q.pa ∨ q.pa + q.size ≤ r.pa + j) → v.toNat / 256 ^ j % 256 = match line with
            | some l => if l.held.getLsbD (r.pa % 128 + j) then l.data.toNat / 256 ^ (r.pa % 128 + j) % 256 else ((s.memRead r.pa r.size).getD j 0).toNat
            | none => ((s.memRead r.pa r.size).getD j 0).toNat)
      ∧ (r.kind = .acq → s.viralAt n = false → (s.tile n).replay = false → s.targetDown n r.pa = false →
        let dom := if c = 5 then domOf (s.ctxAt n c).tg else (s.tile n).dom
        let mine (l : CacheLine) : Prop := l.die = dieOf n ∧ l.dom = dom ∧ l.sync = r.sync
        let barred := s.denied (if c = 5 then .firmware else .context) dom r.pa (needOf true true false).atTable
        let w := BitVec.ofNat 64 (s.memLe r.pa 8)
        (barred = true → ∃ t, answers t (.failed r .protection (BitVec.ofNat 64 r.pa)) ∧ t.mem = s.mem)
          ∧ (barred = false → s.memPoisoned r.pa 8 = true → ∃ t, answers t (.failed r .uncorrectableData (BitVec.ofNat 64 r.pa)) ∧ t.mem = s.mem)
          ∧ (barred = false → s.memPoisoned r.pa 8 = false → ∃ t, answers t (.answered r (if w = r.x then 1 else 0))
            ∧ (w ≠ r.x → t.mem = s.mem ∧ t.caches = s.caches)
            ∧ (w = r.x → (Solo s r.pa → s.mem.wf = true → t.memLe r.pa 8 = r.y.toNat) ∧ (∀ l ∈ s.caches, ¬ mine l → l ∈ t.caches)
              ∧ ∀ l ∈ t.caches, mine l → l.dirty ≠ 0
                ∧ ∀ j < 128, l.dirty.getLsbD j = false → l.data.toNat / 256 ^ j % 256 = ((t.memRead (l.line * 128) 128).getD j 0).toNat)))
      ∧ (r.kind.served = false → s.viralAt n = false → (r.kind.isAtomic = false ∨ stored = []) → r.kind = .load ∨ (s.tile n).replay = false →
        s.targetDown n r.pa = true → ∃ t, answers t (.failed r .targetGone (BitVec.ofNat 64 r.va)))
      ∧ (r.kind.served = false → s.viralAt n = false → (r.kind.isAtomic = false ∨ stored = []) → r.kind = .load ∨ (s.tile n).replay = false →
        s.targetDown n r.pa = false → s.mustRetry n r = true →
        exec (.globalAnswerReturn n c) s = .next (s.onCtx n c fun k => { k with status := .running, wait := none, word := none }))

/-- R21, R100: a fetch that brings no word: MISALIGNED for a pc that is no multiple of 4, the trap of its translation, or a park. -/
def Sys2Proof.Claims.FetchRules : Prop :=
  ∀ s : State,
    (s.pc.toNat % 4 ≠ 0 → exec .instructionFetch s = .next (s.takeTrap s.cur s.who .misaligned s.pc 0))
      ∧ (s.pc.toNat % 4 = 0 → ∀ c, s.fetchAt s.cur s.who = .trap c → exec .instructionFetch s = .next (s.takeTrap s.cur s.who c s.pc 0))
      ∧ (s.pc.toNat % 4 = 0 → s.fetchAt s.cur s.who = .miss → ∃ t, exec .instructionFetch s = .next t ∧ t.me.status = .parked
        ∧ t.me.parkedVa = some s.pc.toNat ∧ t.me.pc = s.pc ∧ t.me.gs = s.me.gs ∧ t.later = s.later ++ [.translationRequest s.cur s.who])
      ∧ ∀ w, exec (.notAnInstruction w) s = .next (s.trapMe .illegalInstruction 0)

/-- R21, R100, R252 to R257, R266, R268, R270, R273: performing stores, answering requests and fetching. -/
def Obligations.MemorySteps : Prop := StoreRules ∧ AnswerRules ∧ FetchRules

/-! ### Block tables (R237 to R242, R277 to R280) -/

/-- R277 to R280: what the service makes of BTLD with WRITE, of BTSWAP and of BTREF: entries that its access table denies it (R450), poisoned (R374)
and invalid ones, FULL, MIG and REF, and a BTSWAP that matches. -/
def Sys2Proof.Claims.TableRules : Prop :=
  ∀ (s : State) (dom : Nat) (a x y : Word),
    (s.btPlace dom a = none → s.btWrite dom a = .trap .pageFault a ∧ s.btSwap dom a x y = .trap .pageFault a ∧ s.btRef dom a 0 y = .trap .pageFault a)
      ∧ ∀ p, s.btPlace dom a = some p →
        let e := s.entryAt p.entry
        let ok := e.getLsbD 0 = true ∧ bits e 11 4 = 0
        let barred (w : Bool) : Bool := s.denied .firmware dom p.entry ⟨true, w, false, false⟩
        (barred false = true → s.btWrite dom a = .trap .protection a)
          ∧ (barred true = true → s.btSwap dom a x y = .trap .protection a ∧ s.btRef dom a 0 y = .trap .protection a)
          ∧ (barred false = false → barred true = false → (s.memPoisoned p.entry 8 = true → s.btWrite dom a = .trap .uncorrectableData a ∧ s.btSwap dom a x y = .trap .uncorrectableData a
          ∧ s.btRef dom a 0 y = .trap .uncorrectableData a) ∧ (s.memPoisoned p.entry 8 = false → (¬ ok → s.btWrite dom a = .trap .pageFault a ∧ s.btSwap dom a x y = .trap .pageFault a ∧ s.btRef dom a 0 y = .trap .pageFault a)
          ∧ (ok → (e.getLsbD 3 = true → s.btWrite dom a = .trap .protection a)
            ∧ (e.getLsbD 3 = false → e.getLsbD 2 = true → s.btWrite dom a = .held)
            ∧ (e.getLsbD 3 = false → e.getLsbD 2 = false → 1 < bits e 63 52 → s.btWrite dom a = .copy)
            ∧ (e.getLsbD 3 = false → e.getLsbD 2 = false → bits e 63 52 ≤ 1 → s.btWrite dom a = .done s e))
          ∧ (ok → y.getLsbD 0 = true → bits y 11 4 = 0 → bits y 51 12 * 4096 % p.bt.blkSize = 0 →
            bits y 51 12 = bits e 51 12 ∨ (bits y 51 12, y.getLsbD 1) ∈ p.bt.reserved →
            (e ≠ x → s.btSwap dom a x y = .done s e)
              ∧ (e = x → ∃ t, s.btSwap dom a x y = .done t e ∧ (Solo s p.entry → s.mem.wf = true → s.groups = [] → s.failedStacks = [] →
                t.memLe p.entry 8 = (setBits (setBits e 51 12 (bits y 51 12)) 3 1 (bits y 3 1)).toNat)))
          ∧ (ok → y.getLsbD 0 = false ∨ bits y 11 4 ≠ 0 → s.btSwap dom a x y = .trap .illegalInstruction 0)
          ∧ (x = 2 → e.getLsbD 0 = true → s.btRef dom a x y = .done s 0)
          ∧ (x = 2 → e.getLsbD 0 = false → p.bt.freeHbm = [] → s.btRef dom a x y = .done s 0)
          ∧ (x = 2 → e.getLsbD 0 = false → ∀ f l, p.bt.freeHbm = f :: l → ∃ t, s.btRef dom a x y = .done t (BitVec.ofNat 64 (2 ^ 52 + f * 2 ^ 12 + 1))
            ∧ (Solo s p.entry → s.mem.wf = true → t.memLe p.entry 8 = (2 ^ 52 + f * 2 ^ 12 + 1) % 2 ^ 64)
            ∧ (∀ b, t.blockTable dom (btidOf a) = some b → b.freeHbm = l))))

/-- R277, R240: the service's answer reaches the context that waits: a word, a trap, a wait while MIG is set, or a copy on write first.  On a
tile that replays it is a word, and no table changes (R394).
(The model's own choices and readings in it: log 5.) -/
def Sys2Proof.Claims.ServiceRules : Prop :=
  ∀ (s : State) (n c : Nat) (r : GReq), c < 6 → (s.ctxAt n c).wait = some (.sent r) → r.kind ∈ [.btWrite, .btSwap, .btRef] →
    let dom := (s.tile n).dom
    let a := BitVec.ofNat 64 r.va
    let step (ans : BtAnswer) (i : Instr) : Prop := match ans with
      | .done u w => ∃ t, exec i s = .next t ∧ (t.ctxAt n c).wait = some (.answered r (w.setWidth 1024)) ∧ (t.ctxAt n c).status = .running ∧ t.mem = u.mem
      | .trap cause va => ∃ t, exec i s = .next t ∧ (t.ctxAt n c).wait = some (.failed r cause va) ∧ (t.ctxAt n c).status = .running ∧ t.mem = s.mem
      | .held => exec i s = .next { s with later := s.later ++ [.btServiceAnswer n c] }
      | .copy => exec i s = .next { s with later := s.later ++ [.btCopyOnWrite n c] }
    ((s.tile n).replay = false → (r.kind = .btWrite → step (s.btWrite dom a) (.btServiceAnswer n c))
        ∧ (r.kind = .btSwap → step (s.btSwap dom a r.x r.y) (.btServiceAnswer n c)) ∧ (r.kind = .btRef → step (s.btRef dom a r.x r.y) (.btServiceAnswer n c)))
      ∧ ((s.tile n).replay = true → ∃ w, step (.done s w) (.btServiceAnswer n c))
      ∧ (r.kind = .btWrite → s.btWrite dom a ≠ .copy → step (s.btWrite dom a) (.btCopyOnWrite n c))
      ∧ (r.kind = .btWrite → s.btWrite dom a = .copy → ∀ p, s.btPlace dom a = some p →
        let e := s.entryAt p.entry
        e.getLsbD 1 = false → (p.bt.freeHbm = [] → step (.trap .protection a) (.btCopyOnWrite n c))
          ∧ ∀ f l, p.bt.freeHbm = f :: l → ∃ t, exec (.btCopyOnWrite n c) s = .next t ∧ (t.ctxAt n c).status = .running
            ∧ (t.ctxAt n c).wait = some (.answered r (BitVec.ofNat 1024 ((2 ^ 52 + f * 2 ^ 12 + 1) % 2 ^ 64))))

/-- R265, R270, R271, R277 to R280: BTLD, BTSWAP, BTREF and a GATOM that pass their checks send their requests.  BTLD and BTSWAP trap PAGE_FAULT for
an address that no table has, BTLD and BTREF ILLEGAL_INSTRUCTION for a malformed control word; a GATOM traps PROTECTION in a host window or a
multicast group, and one that will write needs its page as a writer does.
(The model's own choices and readings in it: log 63, for the order of the checks of BTLD.) -/
def Sys2Proof.Claims.RequestRules : Prop :=
  ∀ d a b p s, Clear s → s.me.wait = none →
    let va := s.me.g a
    let ctl := s.me.g b
    let parks (i : Instr) (k : ReqKind) (x y : Word) : Prop := exec i s = .next { s.onMe fun c => { c with
      status := .parked, wait := some (.sent ⟨k, va.toNat, 0, 8, false, 0, x, y⟩) } with later := s.later ++ [.btServiceAnswer s.cur s.who] }
    let atomic (i : Instr) (k : ReqKind) (n : Nat) (wr : Bool) (x y : Word) : Prop := ∀ pa cached sync, Mapped s va.toNat n true wr false pa cached sync →
      let u := s.touched s.cur va.toNat
      let asks (v : State) : Prop := Asks i s v ⟨k, va.toNat, pa, n, cached, sync, x, y⟩ (.globalAnswerReturn s.cur s.who)
      let writes := atomWrites k (u.atomPeek s.cur pa n) x y
      let found := u.access s.myClass s.cur s.me.refilled va.toNat true true false true
      let barred : Prop := inWindow pa = true ∨ (s.groupAt pa).isSome = true
      (writes = false → (barred → Traps i s .protection va) ∧ (¬ barred → asks u))
        ∧ (writes = true → (∀ c, found = .trap c → Traps i s c va)
          ∧ (found = .miss → exec i s = .next (u.parkFor s.cur s.who va.toNat (needOf true true false) true))
          ∧ ((∃ q c n, found = .ok q c n) → (barred → Traps i s .protection va) ∧ (¬ barred → asks (u.touched s.cur va.toNat))))
    (ctl.toNat < 3 → s.btPlace s.my.dom va = none → Traps (.btld d a b) s .pageFault va)
      ∧ (3 ≤ ctl.toNat → Traps (.btld d a b) s .illegalInstruction 0)
      ∧ (s.btPlace s.my.dom va = none → Traps (.btswap d a b) s .pageFault va)
      ∧ (∀ q, s.btPlace s.my.dom va = some q →
        (ctl = 0 → Asks (.btld d a b) s s ⟨.btRead, va.toNat, q.entry, 8, false, 0, va, 0⟩ (.globalAnswerReturn s.cur s.who))
          ∧ (ctl = 1 → q.off % 8 = 0 → Asks (.btld d a b) s s ⟨.btData, va.toNat, q.entry, 8, false, 0, va, 0⟩ (.globalAnswerReturn s.cur s.who))
          ∧ (ctl = 1 → q.off % 8 ≠ 0 → Traps (.btld d a b) s .misaligned va)
          ∧ (ctl = 2 → parks (.btld d a b) .btWrite 0 0) ∧ parks (.btswap d a b) .btSwap (s.me.g d) ctl)
      ∧ ((bits ctl 63 5 ≠ 0 ∨ 4 < bits ctl 2 0) → Traps (.btref d a b) s .illegalInstruction 0)
      ∧ (bits ctl 63 5 = 0 → bits ctl 2 0 ≤ 4 → parks (.btref d a b) .btRef ctl (s.me.g d))
      ∧ atomic (.gatomAdd d a b) .atomAdd 8 true ctl (s.me.g d) ∧ atomic (.gatomCas d a b) .atomCas 8 true ctl (s.me.g d)
      ∧ atomic (.gatomSwap d a b) .atomSwap 8 true ctl (s.me.g d) ∧ atomic (.gatomMax d a b) .atomMax 8 true ctl (s.me.g d)
      ∧ atomic (.gatomMin d a b) .atomMin 8 true ctl (s.me.g d) ∧ atomic (.gatomFxadd a b) .fxadd 16 true ctl 0
      ∧ atomic (.gatomFxrd d a p) .fxrd 16 false 0 (match p with | .s => 0 | .d => 1)

/-- R237 to R242, R265, R277 to R280: the block tables. -/
def Obligations.BlockTables : Prop := TableRules ∧ ServiceRules ∧ RequestRules

/-! ### Translation (R226 to R231, R245) -/

/-- R222 to R224: the page-table walk: from the root, the entry of each level named by 12 bits of the address; it ends at the leaf of level 2 or 3,
and has none beyond 2^52 or where an entry on the way is not valid or not well formed. -/
def Sys2Proof.Claims.WalkRules : Prop :=
  ∀ (s : State) (root va : Nat),
    let place (table level : Nat) : Nat := table + 8 * (va / 2 ^ (52 - 12 * level) % 4096)
    let entry (table level : Nat) : Word := BitVec.ofNat 64 (s.memLe (place table level) 8)
    let below (p : Word) : Nat := bits p 51 16 * 65536
    let good (level : Nat) (p : Word) : Prop := p.getLsbD 0 = true ∧ bits p 15 13 = 0
      ∧ (p.getLsbD 7 = true → level ≠ 1 ∧ (level = 2 → bits p 51 16 % 4096 = 0 ∧ p.getLsbD 5 = false)
        ∧ (p.getLsbD 12 = true → below p < 2 ^ 40 → bits p 11 8 ∈ s.stackList))
      ∧ (p.getLsbD 7 = false → level ≠ 3 ∧ bits p 63 52 = 0 ∧ bits p 12 1 = 0)
    let p1 := entry root 1
    let p2 := entry (below p1) 2
    let p3 := entry (below p2) 3
    (2 ^ 52 ≤ va → s.walk root va = none)
      ∧ (va < 2 ^ 52 → (¬ good 1 p1 → s.walk root va = none) ∧ (good 1 p1 → (¬ good 2 p2 → s.walk root va = none)
        ∧ (good 2 p2 → p2.getLsbD 7 = true → s.walk root va = some (2, place (below p1) 2, p2))
        ∧ (good 2 p2 → p2.getLsbD 7 = false → (¬ good 3 p3 → s.walk root va = none) ∧ (good 3 p3 → s.walk root va = some (3, place (below p2) 3, p3)))))

/-- R222 to R224, R228 to R231: what the walk of an access of a tile comes to; R245, R265: a request made for a stale entry that allows the access
ends TARGET_GONE where the walk fails or the target is down, every other request is answered with what the walk comes to.
(The model's own choices and readings in it: log 7.) -/
def Sys2Proof.Claims.ServedRules : Prop :=
  ∀ (s : State) (n va : Nat) (need : Rights) (write : Bool),
    let stale (e : TlbEntry) : Prop := (s.tile n).tlbFind va = some e ∧ s.stale n e va = true ∧ s.allows e need = true
    ((∀ e, ¬ stale e) → s.served n va need write = s.walked n va write)
      ∧ (∀ e, stale e → (∀ p, s.walked n va write = .fault p → s.served n va need write = .gone)
        ∧ (∀ f, s.walked n va write = .fill f → s.served n va need write = match s.memTarget f.dom (s.entryAddr f va) with
            | some g => if s.isDown n g then .gone else .fill f
            | none => .fill f)
        ∧ (s.walked n va write = .collapse → s.served n va need write = .collapse)
        ∧ (s.walked n va write = .copy → s.served n va need write = .copy))
      ∧ (s.domain (s.tile n).dom = none → s.walked n va write = .fault false)
      ∧ ∀ d, s.domain (s.tile n).dom = some d →
        (s.walk d.root va = none → s.walked n va write = .fault false)
          ∧ ∀ level at' pte, s.walk d.root va = some (level, at', pte) → 1 < level ∧ level ≤ 3 ∧ pte.getLsbD 0 = true ∧ pte.getLsbD 7 = true
            ∧ pte = BitVec.ofNat 64 (s.memLe at' 8)
            ∧ (write = true → pte.getLsbD 4 = true → ∀ p, d.dups.find? (·.vpn == leafVpn level va) = some p →
              s.walked n va write = if p.w then .collapse else .fault true)
            ∧ (write = true → pte.getLsbD 4 = false → pte.getLsbD 5 = true → s.walked n va write = .copy)
            ∧ (write = false → pte.getLsbD 4 = true → ∀ p f k, d.dups.find? (·.vpn == leafVpn level va) = some p →
              p.copies[nearestEdge n - 24]? = some (f, k) → ∃ e, s.walked n va write = .fill e
              ∧ bits e.pte 51 16 = f % 2 ^ 36 ∧ e.pte.getLsbD 12 = true ∧ bits e.pte 11 8 = k % 16 ∧ e.vpn = leafVpn level va)
            ∧ ((write = false ∨ pte.getLsbD 5 = false) → pte.getLsbD 4 = false →
              let e : TlbEntry := ⟨0, d.dom, leafVpn level va, level == 2, 0, pte⟩
              s.walked n va write = .fill (match s.memTarget d.dom (s.entryAddr e va) with
                | none => e
                | some g => { e with luc := upCount s.linkCount g.link % 256 }))

/-- R159, R226 to R228, R400: a request of a parked context goes to a fill, a fault, a collapse or a copy (it joins the fill of its page that
is on its way, and waits while no tile of the cluster can run the service); a fill of the bound domain enters the service buffer and wakes S, which installs it first in the TLB, after the entries
it overlaps go, and the contexts parked on its page run again. -/
def Sys2Proof.Claims.FillRules : Prop :=
  ∀ (s : State) (n c : Nat), c < 6 →
    ((s.ctxAt n c).status ≠ .parked → exec (.translationRequest n c) s = .next s)
      ∧ (∀ va, (s.ctxAt n c).status = .parked → (s.ctxAt n c).parkedVa = some va → s.fillComes n va = true → exec (.translationRequest n c) s = .next s)
      ∧ (∀ va, (s.ctxAt n c).status = .parked → (s.ctxAt n c).parkedVa = some va → s.fillComes n va = false → s.gone (s.serviceTile n) = true →
        exec (.translationRequest n c) s = .next { s with later := s.later ++ [.translationRequest n c] })
      ∧ (∀ va, (s.ctxAt n c).status = .parked → (s.ctxAt n c).parkedVa = some va → s.fillComes n va = false → s.gone (s.serviceTile n) = false →
        match s.served n va (s.ctxAt n c).parkedNeed (s.ctxAt n c).parkedWrite with
        | .fill e => exec (.translationRequest n c) s = .next { s with later := s.later ++ [.tlbFill n (e.hi ++ e.pte)] }
        | .fault p => exec (.translationRequest n c) s = .next { s with later := s.later ++ [.tlbFaultAnswer n (BitVec.ofNat 64 va) p] }
        | .gone => exec (.translationRequest n c) s = .next (s.takeTrap n c .targetGone (BitVec.ofNat 64 va) ((s.ctxAt n c).word.getD 0))
        | .collapse => exec (.translationRequest n c) s = .next { s with later := s.later ++ [.dupCollapse n c] }
        | .copy => exec (.translationRequest n c) s = .next { s with later := s.later ++ [.copyOnWrite n c] })
      ∧ ∀ w : BitVec 128, let e := tlbOf (w.extractLsb' 64 64) (w.extractLsb' 0 64)
        (e.dom ≠ (s.tile n).dom → ∃ t, exec (.tlbFill n w) s = .next t ∧ (t.tile n).tlb = (s.tile n).tlb
            ∧ (t.tile n).ctxs = (s.tile n).ctxs ∧ (t.tile n).svc = (s.tile n).svc.erase (.fill w) ∧ t.mem = s.mem)
          ∧ (e.dom = (s.tile n).dom → SvcItem.fill w ∉ (s.tile n).svc → (s.tile n).svc.length < 8 → ∃ t, exec (.tlbFill n w) s = .next t
            ∧ (t.tile n).svc = (s.tile n).svc ++ [.fill w] ∧ (t.tile n).sEvents = (s.tile n).sEvents ++ [.serviceBuffer]
            ∧ t.later = s.later ++ [.tlbFill n w] ∧ (t.tile n).tlb = (s.tile n).tlb ∧ (t.tile n).ctxs = (s.tile n).ctxs ∧ t.mem = s.mem)
          ∧ (e.dom = (s.tile n).dom → SvcItem.fill w ∈ (s.tile n).svc → (s.tile n).armed 4 = false → ∃ t k, exec (.tlbFill n w) s = .next t
            ∧ (t.tile n).svc = (s.tile n).svc.erase (.fill w)
            ∧ (t.tile n).tlb = ({ e with slot := k } :: (s.tile n).tlb.filter fun o => !o.overlaps e).take 64
            ∧ ((t.ctxAt n c).gs = (s.ctxAt n c).gs ∧ (t.ctxAt n c).pc = (s.ctxAt n c).pc)
            ∧ (∀ va, (s.ctxAt n c).status = .parked → (s.ctxAt n c).parkedVa = some va →
              (t.ctxAt n c).status = if e.maps va then .running else .parked)
            ∧ ((s.ctxAt n c).status ≠ .parked → t.ctxAt n c = s.ctxAt n c) ∧ t.mem = s.mem)

/-- R228, R230: a fault answer traps the contexts parked on the page: PAGE_FAULT, or PROTECTION for those that write; the others run again. -/
def Sys2Proof.Claims.FaultRules : Prop :=
  ∀ (s : State) (n c : Nat) (va : Word) (prot : Bool), c < 5 →
    ∃ t, exec (.tlbFaultAnswer n va prot) s = .next t
      ∧ (∀ a, (s.ctxAt n c).status = .parked → (s.ctxAt n c).parkedVa = some a → a < 2 ^ 64 →
        (a / 65536 = va.toNat / 65536 → prot = false ∨ (s.ctxAt n c).parkedWrite = true →
          (t.ctxAt n c).status = .trapped ∧ bits (t.ctxAt n c).trapc 4 0 = (if prot then 0x09 else 0x08) ∧ (t.ctxAt n c).trapva = BitVec.ofNat 64 a)
        ∧ (a / 65536 = va.toNat / 65536 → prot = true → (s.ctxAt n c).parkedWrite = false → (t.ctxAt n c).status = .running)
        ∧ (a / 65536 ≠ va.toNat / 65536 → t.ctxAt n c = s.ctxAt n c))
      ∧ ((s.ctxAt n c).status ≠ .parked → t.ctxAt n c = s.ctxAt n c)

/-- R230, R231: a collapse is held while an access to the page is in flight, and otherwise clears DUP and gives W as the region declares; a
copy on write takes a frame of the pool of its tier, or traps PAGE_FAULT where there is none; the request is then made again.
(The model's own choices and readings in it: logs 5, 55.) -/
def Sys2Proof.Claims.CopyRules : Prop :=
  ∀ (s : State) (n c va : Nat) (d : Domain) (level at' : Nat) (pte : Word), c < 6 → (s.ctxAt n c).status = .parked →
    (s.ctxAt n c).parkedVa = some va → s.domain (s.tile n).dom = some d → s.walk d.root va = some (level, at', pte) →
    (∀ u w, Event.tlbFill u w ∉ s.later) →
    let again : State := { s with later := s.later ++ [.translationRequest n c] }
    (pte.getLsbD 4 = false → exec (.dupCollapse n c) s = .next again) ∧ (pte.getLsbD 5 = false → exec (.copyOnWrite n c) s = .next again)
      ∧ (pte.getLsbD 4 = true → (s.pageBusy d fun a => leafVpn level a == leafVpn level va) = true →
        exec (.dupCollapse n c) s = .next { s with later := s.later ++ [.dupCollapse n c] })
      ∧ (pte.getLsbD 4 = true → (s.pageBusy d fun a => leafVpn level a == leafVpn level va) = false → s.caches = [] →
        ∃ t, exec (.dupCollapse n c) s = .next t ∧ t.later = s.later ++ [.translationRequest n c] ∧ (∀ e, (t.ctxAt n e) = (s.ctxAt n e))
          ∧ (∀ p, d.dups.find? (·.vpn == leafVpn level va) = some p → Solo s at' → s.mem.wf = true → at' % 8 = 0 →
            ∃ new : Word, t.memLe at' 8 = new.toNat ∧ new.getLsbD 4 = false ∧ new.getLsbD 2 = p.w ∧ ∀ j, j ≠ 4 → j ≠ 2 → new.getLsbD j = pte.getLsbD j)
          ∧ ∀ r, t.domain d.dom = some r → ∀ p ∈ r.dups, p.vpn ≠ leafVpn level va)
      ∧ (pte.getLsbD 5 = true → (s.pageBusy d fun a => a / 65536 == va / 65536) = true →
        exec (.copyOnWrite n c) s = .next { s with later := s.later ++ [.copyOnWrite n c] })
      ∧ (pte.getLsbD 5 = true → (s.pageBusy d fun a => a / 65536 == va / 65536) = false → ptePfn pte * 65536 < 2 ^ 40 →
        (d.freeHbm = [] → exec (.copyOnWrite n c) s = .next (s.takeTrap n c .pageFault (BitVec.ofNat 64 va) ((s.ctxAt n c).word.getD 0)))
        ∧ ∀ f rest, d.freeHbm = f :: rest → s.caches = [] → ∃ t, exec (.copyOnWrite n c) s = .next t
          ∧ t.later = s.later ++ [.translationRequest n c] ∧ (∀ e, t.ctxAt n e = s.ctxAt n e)
          ∧ (Solo s at' → s.mem.wf = true → at' % 8 = 0 → f < 2 ^ 36 →
            ∃ new : Word, t.memLe at' 8 = new.toNat ∧ bits new 51 16 = f ∧ new.getLsbD 12 = false ∧ new.getLsbD 5 = false ∧ new.getLsbD 2 = true))

/-- R222 to R231, R245, R400: the translation service. -/
def Obligations.TranslationSteps : Prop := WalkRules ∧ ServedRules ∧ FillRules ∧ FaultRules ∧ CopyRules

/-! ### Asynchronous operations (R287 to R294, R305 to R313, R329 to R343) -/

/-- The token of an operation of context `c` written: its register, where the context waits for it, takes the code and is pending no more, and
no other register of the context changes. -/
def Sys2Proof.Claims.Token (s t : State) (n c : Nat) (tok : Reg) (code : Nat) : Prop :=
  c < 6 → (t.ctxAt n c).vs = (s.ctxAt n c).vs ∧ (t.ctxAt n c).pc = (s.ctxAt n c).pc ∧ (∀ r, r ≠ tok → (t.ctxAt n c).g r = (s.ctxAt n c).g r)
    ∧ (tok ≠ 0 → (s.ctxAt n c).awaits tok = true → (t.ctxAt n c).g tok = BitVec.ofNat 64 code ∧ (t.ctxAt n c).awaits tok = false)
    ∧ ((s.ctxAt n c).awaits tok = false → t.ctxAt n c = s.ctxAt n c)

/-- An operation of tile `n` over with its code, its token still to be written, after what else it set to follow. -/
def Sys2Proof.Claims.Done (s t : State) (n : Nat) (r : AsyncReq) (code : Nat) (first : List Event := []) : Prop :=
  (∃ o, (t.tile n).rmaDone = (s.tile n).rmaDone ++ [o] ∧ o.op = r.op ∧ o.ctx = r.ctx ∧ o.tok = r.tok ∧ o.code = code ∧ o.dropped = none)
    ∧ t.later = s.later ++ first ++ [.rmaCompletion n (r.ctx * 32 + r.tok.toNat)]

/-- No byte of a scratchpad or of memory changed. -/
def Sys2Proof.Claims.BytesStay (s t : State) : Prop := (∀ p, (t.tile p).sp = (s.tile p).sp) ∧ t.mem = s.mem

/-- R233, R250, R289, R292, R331, R332: the oldest request of a tile's issue queue that the RMA engine serves leaves it: refused with the code of the first
check of its own panes that fails and no byte moved, or accepted with what it reads of CORE panes: the list of a GETX or PUTX, the record of a
RATOM, which R332 must allow; a PUT or PUTX of a tile that replays is over at once.
A stopped tile accepts none.
(The model's own choices and readings in it: logs 24, 38.) -/
def Sys2Proof.Claims.RmaAccepts : Prop :=
  ∀ (s : State) (n : Nat) (a : List AsyncReq) (r : AsyncReq) (b : List AsyncReq),
    (s.tile n).asyncQ = a ++ r :: b → (∀ o ∈ a, o.op.isRma = false) → r.op.isRma = true →
    let x := s.tile n
    let own := (bits r.y 18 0, r.z.toNat)
    let src := bits r.y 50 32
    let list := bits r.z 18 0
    let ends (code : Nat) : Prop := ∃ t, exec (.rmaPortOperation n) s = .next t ∧ Done s t n r code ∧ (t.tile n).asyncQ = a ++ b
      ∧ (t.tile n).rmaOps = x.rmaOps ∧ BytesStay s t
    let accepted (words : List Nat) : Prop := ∃ t h, exec (.rmaPortOperation n) s = .next t ∧ (t.tile n).asyncQ = a ++ b
      ∧ (t.tile n).rmaOps = x.rmaOps ++ [⟨r, words, h, 0, [], 0⟩] ∧ t.later = s.later ++ [.rmaPortOperation n]
      ∧ (t.tile n).rmaDone = x.rmaDone ∧ BytesStay s t
    (x.frozen = true → x.rmaOps = [] → exec (.rmaPortOperation n) s = .next { s with later := s.later ++ [.rmaPortOperation n] })
      ∧ (x.frozen = false → Config.pick s.fv % (x.rmaOps.length + 1) = x.rmaOps.length →
        ((r.op = .get ∨ r.op = .put) →
          (∀ code, s.portCheck n r.dom .rma [own] = some code → ends code)
          ∧ (s.portCheck n r.dom .rma [own] = none → x.replay = true → r.op = .put → ends 0)
          ∧ (s.portCheck n r.dom .rma [own] = none → (x.replay = true → r.op = .get) → accepted []))
        ∧ ((r.op = .getx ∨ r.op = .putx) →
          let size := 4 * bits r.z 44 32
          let ranges := [(bits r.y 18 0, bits r.z 44 32 * 2 ^ (bits r.z 50 48 + 3))]
          (s.coreStill n list size = false → ends 1) ∧ (s.coreStill n list size = true → x.spPoisoned list size = true → ends 4)
          ∧ (s.coreStill n list size = true → x.spPoisoned list size = false →
            (∀ code, s.portCheck n r.dom .rma ranges = some code → ends code)
            ∧ (s.portCheck n r.dom .rma ranges = none → x.replay = true → r.op = .putx → ends 0)
            ∧ (s.portCheck n r.dom .rma ranges = none → (x.replay = true → r.op = .getx) →
              accepted ((List.range (bits r.z 44 32)).map fun j => x.sp.le (list + 4 * j) 4))))
        ∧ ∀ k, r.op = .ratom k →
          let size := if k = 1 then 16 else 8
          let w : Word := BitVec.ofNat 64 (x.sp.le src 8)
          let legal := (k = 6 → bits w 63 1 = 0) ∧ (k = 7 → bits w 7 4 = 0 ∧ bits w 63 12 = 0 ∧ bits w 11 9 < if w.getLsbD 8 then 2 else 4)
          let ranges := if r.y.getLsbD 62 then [(bits r.y 18 0, 8)] else []
          (s.coreStill n src size = false → ends 1)
          ∧ (s.coreStill n src size = true → x.spPoisoned src size = true ∨ ¬ legal → ends 4)
          ∧ (s.coreStill n src size = true → x.spPoisoned src size = false → legal →
            (∀ code, s.portCheck n r.dom .rma ranges = some code → ends code)
            ∧ (s.portCheck n r.dom .rma ranges = none → x.replay = false → accepted [x.sp.le src 8, x.sp.le (src + 8) 8])))

/-- An accepted operation of tile `n`, between those before and those after it, that its engine turns to next: R251 leaves free which it is. -/
def Sys2Proof.Claims.Picked (s : State) (n : Nat) (a : List RmaOp) (o : RmaOp) (b : List RmaOp) : Prop :=
  (s.tile n).rmaOps = a ++ o :: b ∧
    Config.pick s.fv % ((s.tile n).rmaOps.length
      + if (s.tile n).frozen = false ∧ ((s.tile n).asyncQ.any fun r => r.op.isRma) = true then 1 else 0) = a.length

/-- One that no viral die holds, so that it is performed. -/
def Sys2Proof.Claims.Performs (s : State) (n : Nat) (a : List RmaOp) (o : RmaOp) (b : List RmaOp) : Prop :=
  Picked s n a o b ∧ s.rmaHeld n o.req = false

/-- R385: an operation that would leave a viral die, or wait for the answer of one that is not fenced, is held: nothing of it is performed. -/
def Sys2Proof.Claims.HeldPorts : Prop :=
  ∀ (s : State) (n : Nat) (a : List RmaOp) (o : RmaOp) (b : List RmaOp), Picked s n a o b →
    (s.rmaHeld n o.req = true → ∃ t, exec (.rmaPortOperation n) s = .next t ∧ (t.tile n).rmaOps = a ++ b ++ [o]
        ∧ t.later = s.later ++ [.rmaPortOperation n] ∧ (t.tile n).rmaDone = (s.tile n).rmaDone ∧ BytesStay s t)
      ∧ (o.req.y.getLsbD 63 = true → s.viralAt n = true → s.rmaHeld n o.req = true)
      ∧ (o.req.y.getLsbD 63 = false → bits o.req.x 63 40 / 32768 = s.modNo → dieAt (bits o.req.x 63 40 % 32768) ≠ dieAt n → s.viralAt n = true →
        s.rmaHeld n o.req = true)
      ∧ (o.req.y.getLsbD 63 = false → bits o.req.x 63 40 / 32768 = s.modNo → dieAt (bits o.req.x 63 40 % 32768) = dieAt n → s.rmaHeld n o.req = false)

/-- R251, R289, R292, R293, R329, R330: an accepted GET or PUT between the panes of two tiles of the module, whichever of the tile's outstanding
ones it is: refused by the checks of R292 at the target's port, with its code and no byte moved, or performed: the bytes move, and a PUT bumps
the counter it names.
(The model's own choices and readings in it: logs 21, 24, 38.) -/
def Sys2Proof.Claims.CopyPorts : Prop :=
  ∀ (s : State) (n : Nat) (a : List RmaOp) (o : RmaOp) (b : List RmaOp), Performs s n a o b → o.moved = 0 → (o.req.op = .get ∨ o.req.op = .put) →
    let r := o.req
    let x := s.tile n
    let q := bits r.x 63 40 % 32768
    let far := bits r.x 18 0
    let own := bits r.y 18 0
    let len := r.z.toNat
    r.y.getLsbD 63 = false →
      (s.targetGone n r.dom (bits r.x 63 40) = true → ∃ t, exec (.rmaPortOperation n) s = .next t ∧ Done s t n r 6 ∧ (t.tile n).rmaOps = a ++ b
        ∧ BytesStay s t)
      ∧ (s.targetGone n r.dom (bits r.x 63 40) = false → bits r.x 63 40 / 32768 = s.modNo →
        (∀ code, s.portCheck q r.dom .rma [(far, len)] = some code → ∃ t, exec (.rmaPortOperation n) s = .next t ∧ Done s t n r code
          ∧ (t.tile n).rmaOps = a ++ b ∧ BytesStay s t)
        ∧ (s.portCheck q r.dom .rma [(far, len)] = none → q ≠ n % 32768 → len % 8 = 0 → x.armed 0 = false → (s.tile q).armed 0 = false →
          x.sp.wf = true → (s.tile q).sp.wf = true →
          (r.op = .get → (s.tile q).spPoisoned far len = false → len ≠ 0 → ∃ t, exec (.rmaPortOperation n) s = .next t ∧ Done s t n r 0
            ∧ (t.tile n).rmaOps = a ++ b ∧ (∀ j < len, (t.tile n).sp.get (own + j) = (s.tile q).sp.get (far + j))
            ∧ (∀ c, (c < own ∨ own + len ≤ c) → (t.tile n).sp.get c = x.sp.get c) ∧ (t.tile q).sp = (s.tile q).sp ∧ t.mem = s.mem)
          ∧ (r.op = .put → x.spPoisoned own len = false → let k := (s.tile q).counter (bits r.x 37 32)
            (bits r.x 37 32 = 0 ∨ k.armed = false ∨ min (k.value + 1) (2 ^ 32 - 1) < k.threshold) →
            ∃ t, exec (.rmaPortOperation n) s = .next t ∧ Done s t n r 0 ∧ (t.tile n).rmaOps = a ++ b
            ∧ (1 ≤ bits r.x 37 32 → (t.tile q).counter (bits r.x 37 32) = if k.armed then { k with value := min (k.value + 1) (2 ^ 32 - 1) } else k)
            ∧ (∀ j < len, (t.tile q).sp.get (far + j) = x.sp.get (own + j))
            ∧ (∀ c, (c < far ∨ far + len ≤ c) → (t.tile q).sp.get c = (s.tile q).sp.get c) ∧ (t.tile n).sp = x.sp ∧ t.mem = s.mem)))

/-- R251, R289, R292, R293, R331: an accepted GETX or PUTX between the panes of two tiles of the module, with the indexes of its list: refused by the
checks of R292 at the target's port, or performed: element j of the list's own run and the element that index j names are copied.
(The model's own choices and readings in it: logs 21, 24, 38.) -/
def Sys2Proof.Claims.IndexedPorts : Prop :=
  ∀ (s : State) (n : Nat) (a : List RmaOp) (o : RmaOp) (b : List RmaOp), Performs s n a o b → o.moved = 0 → (o.req.op = .getx ∨ o.req.op = .putx) →
    let r := o.req
    let x := s.tile n
    let q := bits r.x 63 40 % 32768
    let own := bits r.y 18 0
    let size := 2 ^ (bits r.z 50 48 + 3)
    let len := bits r.z 44 32
    let far (j : Nat) : Nat := bits r.x 18 0 + o.words.getD j 0 * size
    let ranges := (List.range len).map fun j => (far j, size)
    r.y.getLsbD 63 = false → s.targetGone n r.dom (bits r.x 63 40) = false → bits r.x 63 40 / 32768 = s.modNo →
      (∀ code, s.portCheck q r.dom .rma ranges = some code → ∃ t, exec (.rmaPortOperation n) s = .next t ∧ Done s t n r code
        ∧ (t.tile n).rmaOps = a ++ b ∧ BytesStay s t)
      ∧ (s.portCheck q r.dom .rma ranges = none → q ≠ n % 32768 → x.armed 0 = false → (s.tile q).armed 0 = false →
        x.sp.wf = true → (s.tile q).sp.wf = true →
        (r.op = .getx → (∀ j < len, (s.tile q).spPoisoned (far j) size = false) → ∃ t, exec (.rmaPortOperation n) s = .next t ∧ Done s t n r 0
          ∧ (t.tile n).rmaOps = a ++ b ∧ (∀ j < len, ∀ k < size, (t.tile n).sp.get (own + j * size + k) = (s.tile q).sp.get (far j + k))
          ∧ (∀ c, (c < own ∨ own + len * size ≤ c) → (t.tile n).sp.get c = x.sp.get c) ∧ (t.tile q).sp = (s.tile q).sp ∧ t.mem = s.mem)
        ∧ (r.op = .putx → x.spPoisoned own (len * size) = false → let k := (s.tile q).counter (bits r.x 37 32)
          (bits r.x 37 32 = 0 ∨ k.armed = false ∨ min (k.value + 1) (2 ^ 32 - 1) < k.threshold) → (∀ i j, i < j → j < len → o.words.getD i 0 ≠ o.words.getD j 0) →
          ∃ t, exec (.rmaPortOperation n) s = .next t ∧ Done s t n r 0 ∧ (t.tile n).rmaOps = a ++ b
          ∧ (∀ j < len, ∀ k < size, (t.tile q).sp.get (far j + k) = x.sp.get (own + j * size + k))
          ∧ (∀ c, (∀ j < len, c < far j ∨ far j + size ≤ c) → (t.tile q).sp.get c = (s.tile q).sp.get c) ∧ (t.tile n).sp = x.sp ∧ t.mem = s.mem))

/-- R226, R227, R289, R329: an accepted GET of one doubleword of global memory: performed where the tile's TLB has the page; on a miss EVC13
counts, the fill is on its way to the tile, and the operation waits for it with nothing moved; a translation that is not allowed ends it with
its code, and its fill is on its way all the same (R228).
(The model's own choices and readings in it: log 38.) -/
def Sys2Proof.Claims.VirtualPorts : Prop :=
  ∀ (s : State) (n : Nat) (a : List RmaOp) (o : RmaOp) (b : List RmaOp), Performs s n a o b → o.moved = 0 → o.req.op = .get →
    let r := o.req
    let x := s.tile n
    let va := r.x.toNat
    let own := bits r.y 18 0
    r.y.getLsbD 63 = true → r.z.toNat = 8 → va < 2 ^ 52 →
      (∀ pa c y, s.access .engine n false va true false false false = .ok pa c y → s.memPoisoned pa 8 = false → x.armed 0 = false → x.sp.wf = true →
        ∃ t, exec (.rmaPortOperation n) s = .next t ∧ Done s t n r 0 ∧ (t.tile n).rmaOps = a ++ b
          ∧ (∀ j < 8, (t.tile n).sp.get (own + j) = (s.memRead pa 8).getD j 0)
          ∧ (∀ c, (c < own ∨ own + 8 ≤ c) → (t.tile n).sp.get c = x.sp.get c) ∧ t.mem = s.mem)
      ∧ (x.tlbFind va = none → s.fillComes n va = true → ∃ t, exec (.rmaPortOperation n) s = .next t ∧ (t.tile n).rmaOps = a ++ b ++ [o]
        ∧ t.later = s.later ++ [.rmaPortOperation n] ∧ BytesStay s t)
      ∧ (x.tlbFind va = none → s.fillComes n va = false → s.parkedOn n va = false → ∀ e, s.walked n va false = .fill e →
        (∀ pa, s.engineEntry n n va true false e = .at pa → ∃ t, exec (.rmaPortOperation n) s = .next t ∧ (t.tile n).rmaOps = a ++ b ++ [o]
          ∧ t.later = s.later ++ [.tlbFill n e.word, .rmaPortOperation n] ∧ BytesStay s t
          ∧ vget (t.tile n).evc 13 0 = satAdd32 (vget x.evc 13 0) 1)
        ∧ ∀ code, s.engineEntry n n va true false e = .code code → ∃ t, exec (.rmaPortOperation n) s = .next t ∧ Done s t n r code [.tlbFill n e.word]
          ∧ BytesStay s t)

/-- R58, R59, R270, R292, R332: an accepted RATOM at a pane of another tile of the module: the operand there becomes what R270, or for SUBST R332, makes
of it, and no other byte changes; with RES set the old operand (or FXRD's result) reaches the doubleword that the operation names in its own panes;
a poisoned operand ends it with token 4.
(The model's own choices and readings in it: logs 24, 38.) -/
def Sys2Proof.Claims.AtomicPorts : Prop :=
  ∀ (s : State) (n : Nat) (a : List RmaOp) (o : RmaOp) (b : List RmaOp) (w w2 k : Nat), Performs s n a o b → k < 8 → o.req.op = .ratom k → o.words = [w, w2] →
    let r := o.req
    let x := s.tile n
    let q := bits r.x 63 40 % 32768
    let far := bits r.x 18 0
    let res := bits r.y 18 0
    let size := if k = 7 then 1 else if k = 5 ∨ k = 6 then 16 else 8
    let old := (s.tile q).sp.le far size
    let u : Word := BitVec.ofNat 64 w
    let wide := if u.getLsbD 8 then 4 else 2
    let lo := wide * bits u 11 9
    let new : Nat := match k with
      | 0 => atomNew .atomAdd old u 0
      | 1 => atomNew .atomCas old (BitVec.ofNat 64 w2) u
      | 2 => u.toNat
      | 3 => atomNew .atomMax old u 0
      | 4 => atomNew .atomMin old u 0
      | 5 => fxAdd old (w % 2 ^ 32)
      | 6 => old
      | _ => old - old / 2 ^ lo % 2 ^ wide * 2 ^ lo + bits u 3 0 % 2 ^ wide * 2 ^ lo
    let answer : Word := if k = 6 then (atomResult .fxrd old u).setWidth 64 else BitVec.ofNat 64 old
    r.y.getLsbD 63 = false → s.targetGone n r.dom (bits r.x 63 40) = false → bits r.x 63 40 / 32768 = s.modNo →
      (∀ code, s.portCheck q r.dom .rma [(far, size)] = some code → ∃ t, exec (.rmaPortOperation n) s = .next t ∧ Done s t n r code
        ∧ (t.tile n).rmaOps = a ++ b ∧ BytesStay s t)
      ∧ (s.portCheck q r.dom .rma [(far, size)] = none → (s.tile q).spPoisoned far size = true →
        ∃ t, exec (.rmaPortOperation n) s = .next t ∧ Done s t n r 4 ∧ (t.tile n).rmaOps = a ++ b ∧ BytesStay s t)
      ∧ (s.portCheck q r.dom .rma [(far, size)] = none → (s.tile q).spPoisoned far size = false → q ≠ n % 32768 → x.armed 0 = false →
        (s.tile q).armed 0 = false → x.sp.wf = true → (s.tile q).sp.wf = true →
        ∃ t, exec (.rmaPortOperation n) s = .next t ∧ Done s t n r 0 ∧ (t.tile n).rmaOps = a ++ b ∧ t.mem = s.mem
          ∧ (t.tile q).sp.le far size = new % 256 ^ size ∧ (∀ c, (c < far ∨ far + size ≤ c) → (t.tile q).sp.get c = (s.tile q).sp.get c)
          ∧ (r.y.getLsbD 62 = false → (t.tile n).sp = x.sp)
          ∧ (r.y.getLsbD 62 = true → (t.tile n).sp.le res 8 = answer.toNat ∧ ∀ c, (c < res ∨ res + 8 ≤ c) → (t.tile n).sp.get c = x.sp.get c))

/-- R287, R293, R434: a completion writes the token of the first performed operation of its context and register, and lets its panes go; one
whose packet was dropped waits for the reservation under which it is sent again, or ends TARGET_GONE where the path there has gone down (R432).
(The model's own choices and readings in it: log 38.) -/
def Sys2Proof.Claims.Completions : Prop :=
  ∀ (s : State) (n k : Nat),
    let mine (o : DoneOp) : Prop := o.ctx * 32 + o.tok.toNat = k
    ((∀ o ∈ (s.tile n).rmaDone, ¬ mine o) → exec (.rmaCompletion n k) s = .next s)
      ∧ ∀ a o b, (s.tile n).rmaDone = a ++ o :: b → (∀ u ∈ a, ¬ mine u) → mine o →
        let waits : Prop := ∃ m, o.dropped = some m ∧ s.pathUp m = true ∧ s.granted m (.rma n) o.bytes = false
        let lost : Bool := match o.dropped with | some m => !s.pathUp m | none => false
        (waits → exec (.rmaCompletion n k) s = .next { s with later := s.later ++ [.rmaCompletion n k] })
        ∧ (¬ waits → ∃ t, exec (.rmaCompletion n k) s = .next t ∧ (t.tile n).rmaDone = a ++ b
          ∧ Token s t n o.ctx o.tok (if lost = true ∧ o.code = 0 then 6 else o.code)
          ∧ ((∀ p ∈ o.holds, ((s.tile p.1).pane p.2).releasing = false) → t.mem = s.mem)
          ∧ (o.holds = [] → ∀ p, (t.tile n).pane p = (s.tile n).pane p)
          ∧ ∀ p < 128, o.holds = [(n, p)] → ((s.tile n).pane p).releasing = false →
            (t.tile n).pane p = { (s.tile n).pane p with holds := ((s.tile n).pane p).holds - 1 })

/-- R226 to R228, R287 to R294, R329 to R332, R385: the RMA engine. -/
def Obligations.RmaSteps : Prop :=
  RmaAccepts ∧ HeldPorts ∧ CopyPorts ∧ IndexedPorts ∧ VirtualPorts ∧ AtomicPorts ∧ Completions

/-- R305, R312, R339, R342, R343: the oldest MMRUN request is looked at when the sequencer has room: refused with its code, which is LAST and its
token, or accepted, with each pane that its areas touch held once more.
(The model's own choices and readings in it: logs 38, 39.) -/
def Sys2Proof.Claims.RunAccept : Prop :=
  ∀ (s : State) (n : Nat),
    let x := s.tile n
    (x.running.isSome = true → x.queued.isSome = true → exec (.mmrunAccept n) s = .next s)
      ∧ ∀ a q b, (x.running = none ∨ x.queued = none) → x.asyncQ = a ++ q :: b → (∀ o ∈ a, o.op ≠ .mmrun) → q.op = .mmrun →
        let refused (code : Nat) : Prop := ∃ t, exec (.mmrunAccept n) s = .next t ∧ (t.tile n).last = code ∧ (t.tile n).asyncQ = a ++ b
          ∧ Token s t n q.ctx q.tok code ∧ (t.tile n).running = x.running ∧ (t.tile n).sp = x.sp
        let dws := mmPrefixed ((List.range 8).map fun i => BitVec.ofNat 64 (x.sp.le (q.x.toNat + 8 * i) 8)) q.pfx
        let r : Run := ⟨q, dws, q.y.setWidth 32, (q.y >>> 32).setWidth 32, (dws.getD 2 0).toNat, 0, 0, false, none, x.armed 1,
          if dws.getD 7 0 = 0 then 1 else dws.getD 7 0, []⟩
        let holds := (panesOf r.areas).map fun p => (n, p)
        (x.frozen = true → exec (.mmrunAccept n) s = .next { s with later := s.later ++ [.mmrunAccept n] })
          ∧ (x.frozen = false →
            (s.coreStill n q.x.toNat 64 = false → refused 1)
            ∧ (s.coreStill n q.x.toNat 64 = true → x.spPoisoned q.x.toNat 64 = true → refused 4)
            ∧ (s.coreStill n q.x.toNat 64 = true → x.spPoisoned q.x.toNat 64 = false →
              (r.ok = false ∨ r.timely x s.beat = false → refused 4)
              ∧ (r.ok = true → r.timely x s.beat = true →
                (∀ code, s.portCheck n q.dom .mm r.areas = some code → refused code)
                ∧ (s.portCheck n q.dom .mm r.areas = none → ∃ t, exec (.mmrunAccept n) s = .next t ∧ (t.tile n).asyncQ = a ++ b
                  ∧ (x.running = none → (t.tile n).running = some { r with holds := holds } ∧ (t.tile n).queued = x.queued)
                  ∧ (x.running ≠ none → (t.tile n).running = x.running ∧ (t.tile n).queued = some { r with holds := holds })
                  ∧ (∀ p < 128, (t.tile n).pane p = if p ∈ panesOf r.areas then { x.pane p with holds := (x.pane p).holds + 1 } else x.pane p)
                  ∧ (t.tile n).sp = x.sp ∧ ∀ c, (t.ctxAt n c) = s.ctxAt n c))))

/-- R309, R310, R341: one block update of an integer run on one tile: every cell of VR rows and VC columns gains the sum of the 32 products of
its row's and its column's elements, mod 2^32; elements beyond KV are zero.  Outside its beat nothing happens; a killed run ends at its
boundary with token 7.
(The model's own choices and readings in it: log 39.) -/
def Sys2Proof.Claims.RunBlocks : Prop :=
  ∀ (s : State) (n : Nat),
    let x := s.tile n
    (x.running = none → exec (.marimbaBlockAccumulate n) s = .next s)
      ∧ ∀ r, x.running = some r →
        (r.endsKilled s.beat = false → r.blockBeat r.prog ≠ s.beat → exec (.marimbaBlockAccumulate n) s = .next s)
          ∧ (r.endsKilled s.beat = true → ∃ t, exec (.marimbaBlockAccumulate n) s = .next t ∧ (t.tile n).last = 7 ∧ (t.tile n).running = x.queued
            ∧ (t.tile n).queued = none ∧ Token s t n r.req.ctx r.req.tok 7)
          ∧ (r.endsKilled s.beat = false → r.atStop = false → r.base ≤ r.prog → r.prog < r.blocks → r.blockBeat r.prog = s.beat → r.i = 0 → r.j = 0 →
            r.west = true → r.north = true → r.acc = 3 → x.injected = [] → r.vr ≤ 32 → r.vc ≤ 32 → x.spPoison = [] → x.armed 1 = false →
            x.sp.wf = true → (∀ c ∈ [r.afmt, r.bfmt], 8 ≤ c ∧ c ≤ 10) → r.scale = 0 →
            let b := r.prog
            let elem (fmt base stride i k : Nat) : Int :=
              if r.kv ≤ 32 * b + k then 0
              else mmInt fmt 0 (leNat (x.sp.getList (base + (32 * b + k) * stride) (4 * elemWidth fmt)) / 2 ^ (elemWidth fmt * i) % 2 ^ elemWidth fmt)
            let sum (i j : Nat) : Int := ((List.range 32).map fun k =>
              elem r.afmt (dwf r.dws 3 18 0) (dwf r.dws 3 63 32) i k * elem r.bfmt (dwf r.dws 4 18 0) (dwf r.dws 4 63 32) j k).sum
            ∃ t, exec (.marimbaBlockAccumulate n) s = .next t ∧ (t.tile n).running = some { r with prog := b + 1 }
              ∧ (∀ i < r.vr, ∀ j < r.vc, (((t.tile n).sp.le (r.accp + 128 * i + 4 * j) 4 : Nat) : Int) =
                  ((if b = 0 ∧ r.zero = true then 0 else ((x.sp.le (r.accp + 128 * i + 4 * j) 4 : Nat) : Int)) + sum i j) % 2 ^ 32)
              ∧ (∀ a, (a < r.accp ∨ r.accp + 4096 ≤ a) → (t.tile n).sp.get a = x.sp.get a) ∧ ∀ c, t.ctxAt n c = s.ctxAt n c)

/-- R311, R343: a run ends in its token's beat: LAST and the token take its code, and the queued run takes its place.
(The model's own choices and readings in it: logs 38, 39.) -/
def Sys2Proof.Claims.RunEnds : Prop :=
  ∀ (s : State) (n : Nat),
    let x := s.tile n
    (x.running = none → exec (.marimbaRunComplete n) s = .next s)
      ∧ ∀ r, x.running = some r →
        let ends (code : Nat) : Prop := ∃ t, exec (.marimbaRunComplete n) s = .next t ∧ (t.tile n).last = code ∧ (t.tile n).running = x.queued
          ∧ (t.tile n).queued = none ∧ (t.tile n).prog = r.prog ∧ Token s t n r.req.ctx r.req.tok code
        (r.prog < r.blocks ∨ r.tokenBeat ≠ s.beat → exec (.marimbaRunComplete n) s = .next s)
          ∧ (r.blocks ≤ r.prog → r.tokenBeat = s.beat →
            (r.killed = true → ends 7) ∧ (r.killed = false → r.ofmt = 0 → ends 0) ∧ (r.killed = false → r.ofmt ≠ 0 → x.spPoison = [] → ends 0))

/-- R180, R338: at a beat that is a multiple of 256 a pending phase becomes the active one, and the table of the phase it replaces stands for the
beats before.
(The model's own choices and readings in it: log 39.) -/
def Sys2Proof.Claims.PhaseSwitch : Prop :=
  ∀ (s : State) (n : Nat),
    (s.beat % 256 ≠ 0 → exec (.slotPhaseSwitch n) s = .next s)
      ∧ (s.beat % 256 = 0 → ∃ t, exec (.slotPhaseSwitch n) s = .next t ∧ (t.tile n).pending = none
        ∧ (t.tile n).active = (s.tile n).pending.getD (s.tile n).active ∧ (t.tile n).phases = (s.tile n).phases ∧ (t.tile n).ctxs = (s.tile n).ctxs
        ∧ ((s.tile n).pending ≠ none → (t.tile n).past.head? = some (s.beat, (s.tile n).activeTable))
        ∧ (t.tile n).sp = (s.tile n).sp)

/-- R305 to R313, R338 to R343: the Marimba sequencer and the slot tables. -/
def Obligations.MarimbaSteps : Prop := RunAccept ∧ RunBlocks ∧ RunEnds ∧ PhaseSwitch

/-! ### Stream engines and the step activation cache (R295 to R304, R320 to R325, R344 to R351) -/

/-- R295, R344, R348: the oldest SEGO request of a tile leaves its issue queue for its engine, with SESTAT's record of it; it is refused with its
code (4 where the engine's access table does not let its domain start one, R450), or waits at the engine while no slot is free, or is
accepted.  One of a stopped tile stays, and one of a viral die (R385).
(The model's own choices and readings in it: logs 38, 44.) -/
def Sys2Proof.Claims.StreamStarts : Prop :=
  ∀ (s : State) (n : Nat),
    let x := s.tile n
    ((∀ o ∈ x.asyncQ, o.op ≠ .sego) → exec (.streamProgramStart n) s = .next s)
      ∧ ∀ a r b, x.asyncQ = a ++ r :: b → (∀ o ∈ a, o.op ≠ .sego) → r.op = .sego →
        let e := r.y.toNat
        let num := ((x.seStat.find? (·.engine == e)).map (·.num)).getD 0 + 1
        let p := newProgram ⟨n, num, r⟩ ((List.range 8).map fun i => BitVec.ofNat 64 (x.sp.le (r.x.toNat + 8 * i) 8))
        let recorded (t : State) (last : Nat) : Prop := (t.tile n).seStat.find? (·.engine == e) = some ⟨e, num, 0, last, false⟩
        let refused (code : Nat) : Prop := ∃ t, exec (.streamProgramStart n) s = .next t ∧ (t.tile n).asyncQ = a ++ b ∧ Token s t n r.ctx r.tok code
          ∧ recorded t code ∧ (t.engine e).slots = (s.engine e).slots ∧ (t.engine e).waits = (s.engine e).waits ∧ (t.tile n).sp = x.sp
        let taken (t : State) : Prop := exec (.streamProgramStart n) s = .next t ∧ (t.tile n).asyncQ = a ++ b ∧ recorded t 0xFF
          ∧ (∀ c, t.ctxAt n c = s.ctxAt n c) ∧ (t.tile n).sp = x.sp ∧ t.mem = s.mem
        (x.frozen = true ∨ s.viralAt n = true → exec (.streamProgramStart n) s = .next { s with later := s.later ++ [.streamProgramStart n] })
          ∧ (x.frozen = false → s.viralAt n = false → (s.engineGone n e = true → refused 6)
            ∧ (s.engineGone n e = false → (4 ≤ (s.engine e).slots.length ∨ (s.engine e).back ≠ []) → ∃ t, taken t ∧ (t.engine e).slots = (s.engine e).slots
              ∧ (t.engine e).waits = (s.engine e).waits ++ [⟨n, num, r⟩])
            ∧ (s.engineGone n e = false → (s.engine e).slots.length < 4 → (s.engine e).back = [] → (s.engine e).waits = [] →
              (s.rightsAt .engines r.dom .context).x = false → refused 4)
            ∧ (s.engineGone n e = false → (s.engine e).slots.length < 4 → (s.engine e).back = [] → (s.engine e).waits = [] →
              (s.rightsAt .engines r.dom .context).x = true →
              (s.coreStill n r.x.toNat 64 = false → refused 1)
              ∧ (s.coreStill n r.x.toNat 64 = true → x.spPoisoned r.x.toNat 64 = true → refused 4)
              ∧ (s.coreStill n r.x.toNat 64 = true → x.spPoisoned r.x.toNat 64 = false → (s.engine e).slots ≠ [] →
                ∃ t, taken t ∧ (t.engine e).slots = (s.engine e).slots ++ [p] ∧ (t.engine e).waits = [])
              ∧ (s.coreStill n r.x.toNat 64 = true → x.spPoisoned r.x.toNat 64 = false → (s.engine e).slots = [] → p.formOk = false → refused 4)))

/-- R296 to R299, R348, R434: the running program of an engine that copies `len` bytes between the panes of two tiles, in ascending order: the
bytes move, no other byte of either changes, the token takes code 0 and SESTAT, if it is of that program, the count.  An engine that runs none
does nothing; a program of a stopped tile waits, and one at panes of a viral die, and one whose packet was dropped until the reservation under which
it is sent again, or ends TARGET_GONE where the path there has gone down (R432).
(The model's own choices and readings in it: logs 24, 38, 40.) -/
def Sys2Proof.Claims.StreamCopies : Prop :=
  ∀ (s : State) (e : Nat),
    ((s.engine e).slots = [] → exec (.streamProgramEnd e) s = .next s)
      ∧ ∀ p rest, (s.engine e).slots = p :: rest →
        let answers : Prop := s.sideMute p.src = false ∧ s.sideMute p.dst = false
        let alone : Prop := rest = [] ∧ (s.engine e).waits = [] ∧ (s.engine e).back = []
        (p.started = false → exec (.streamProgramEnd e) s = .next s)
          ∧ (p.started = true → (s.tile p.tile).frozen = true →
            exec (.streamProgramEnd e) s = .next { s with later := s.later ++ [.streamProgramEnd e] })
          ∧ (p.started = true → s.sideMute p.src = true ∨ s.sideMute p.dst = true ∨
              (∃ m, p.dropped = some m ∧ s.pathUp m = true ∧ s.granted m (.engine e) p.sent = false) →
            exec (.streamProgramEnd e) s = .next { s with later := s.later ++ [.streamProgramEnd e] })
          ∧ (∀ m, p.started = true → (s.tile p.tile).frozen = false → answers → p.fork = false → p.dropped = some m → s.pathUp m = false → alone →
            p.promo = none → ∃ t, exec (.streamProgramEnd e) s = .next t ∧ (t.engine e).slots = [] ∧ Token s t p.tile p.req.ctx p.req.tok 6 ∧ BytesStay s t)
          ∧ (p.started = true → (s.tile p.tile).frozen = false → (s.tile p.tile).replay = false → alone → answers →
            p.dropped = none → p.promo = none →
            p.srcFmt = 8 → p.dstFmt = 8 → p.sMode = 3 → p.dMode = 3 →
            p.sScale = 0 → p.dScale = 0 → p.fork = false → p.promote = false → p.compact = false → p.dcnt = 0 → p.pos = 0 → p.elems = 0 → p.iovf = false →
            (∀ l, 1 ≤ l → l < 6 → p.count l = 1) →
            let len := p.count 0
            let from' := bits (p.dws.getD 1 0) 63 40
            let to' := bits (p.dws.getD 2 0) 63 40
            let a := bits (p.dws.getD 1 0) 18 0
            let b := bits (p.dws.getD 2 0) 18 0
            1 ≤ len → bits (p.dws.getD 1 0) 39 19 = 0 → bits (p.dws.getD 2 0) 39 19 = 0 → from' / 32768 = s.modNo → to' / 32768 = s.modNo → from' ≠ to' →
            s.targetGone (engineTile e) p.req.dom from' = false → s.targetGone (engineTile e) p.req.dom to' = false →
            a + len ≤ 0x7C000 → b + len ≤ 0x7C000 → s.portCheck (from' % 32768) p.req.dom .rma [(a, len)] = none →
            s.portCheck (to' % 32768) p.req.dom .rma [(b, len)] = none → (s.tile (from' % 32768)).spPoisoned a len = false →
            (s.tile (to' % 32768)).armed 0 = false → (s.tile (to' % 32768)).sp.wf = true →
            ∃ t, exec (.streamProgramEnd e) s = .next t ∧ (t.engine e).slots = [] ∧ t.mem = s.mem
              ∧ (∀ j < len, (t.tile (to' % 32768)).sp.get (b + j) = (s.tile (from' % 32768)).sp.get (a + j))
              ∧ (∀ c, (c < b ∨ b + len ≤ c) → (t.tile (to' % 32768)).sp.get c = (s.tile (to' % 32768)).sp.get c)
              ∧ (t.tile (from' % 32768)).sp = (s.tile (from' % 32768)).sp ∧ Token s t p.tile p.req.ctx p.req.tok 0
              ∧ ∀ u, (s.tile p.tile).seStat.find? (·.engine == e) = some u →
                (t.tile p.tile).seStat.find? (·.engine == e) = some (if u.num = p.num then ⟨e, p.num, len, 0, false⟩ else u))

/-- R348: the answer to SESTAT: the programs in the engine's slots, and of the tile's last program there the elements, code and overflow.
(The model's own choices and readings in it: log 40.) -/
def Sys2Proof.Claims.StreamAnswers : Prop :=
  ∀ (s : State) (n c : Nat) (r : GReq), c < 6 → (s.ctxAt n c).wait = some (.sent r) → r.kind = .seStat → s.viralAt n = false →
    ∃ t w, exec (.engineAnswer n c) s = .next t ∧ (t.ctxAt n c).wait = some (.answered r (BitVec.setWidth 1024 (w : Word))) ∧ (t.ctxAt n c).status = .running
      ∧ (t.ctxAt n c).gs = (s.ctxAt n c).gs ∧ ((s.engine r.x.toNat).slots.length < 8 → bits w 7 0 = (s.engine r.x.toNat).slots.length)
      ∧ ((∀ q ∈ (s.tile n).seStat, q.engine ≠ r.x.toNat) → (s.engine r.x.toNat).slots.length < 8 → bits w 63 8 = 0)
      ∧ ∀ a q b, (s.tile n).seStat = a ++ q :: b → (∀ u ∈ a, u.engine ≠ r.x.toNat) → q.engine = r.x.toNat → q.last < 256 →
        (s.engine r.x.toNat).slots.length < 8 →
        bits w 63 32 = min q.elems (2 ^ 32 - 1) ∧ bits w 23 16 = q.last ∧ w.getLsbD 8 = q.iovf

/-- R295 to R304, R344 to R348: stream engines. -/
def Obligations.StreamSteps : Prop := StreamStarts ∧ StreamCopies ∧ StreamAnswers

/-- R320, R322, R323, R349: the unit takes the oldest request when it serves none, and decides it: a miss, a step out of sequence, a reuse limit, a
comparison that fails, or a hit, which reads the stored output, is to write the descriptor with LAST_STEP the step and RCOUNT one more, and in the
PREV mode the stored input with the present one.
(The model's own choices and readings in it: logs 24, 42.) -/
def Sys2Proof.Claims.CacheDecides : Prop :=
  ∀ (s : State) (n : Nat),
    let x := s.tile n
    (x.sac.isSome = true → exec (.sacAccept n) s = .next s)
      ∧ (x.sac = none → (∀ o ∈ x.asyncQ, o.op ≠ .sacp ∧ o.op ≠ .sacc) → exec (.sacAccept n) s = .next s)
      ∧ (∀ a r b, x.sac = none → x.asyncQ = a ++ r :: b → (∀ o ∈ a, o.op ≠ .sacp ∧ o.op ≠ .sacc) → r.op = .sacp ∨ r.op = .sacc →
        (x.frozen = true ∨ s.viralAt n = true → exec (.sacAccept n) s = .next { s with later := s.later ++ [.sacAccept n] })
          ∧ (x.frozen = false → s.viralAt n = false →
            (∀ v, s.sacDecide n r = .hold v → exec (.sacAccept n) s = .next { v with later := v.later ++ [.sacAccept n] })
            ∧ ∀ v o, s.sacDecide n r = .op v o → ∃ t, exec (.sacAccept n) s = .next t ∧ (t.tile n).sac = some o
              ∧ t.later = v.later ++ [.sacComplete n] ∧ (∀ c, t.ctxAt n c = v.ctxAt n c) ∧ t.mem = v.mem))
      ∧ ∀ (r : AsyncReq) (p : SacPlan) (holds : List (Nat × Nat)),
        let decides (code : Nat) (evc : Option Nat) : Prop := s.sacp n r p holds = .op s ⟨r, code, [], [], evc, holds, []⟩
        let cur := x.sp.getList p.inAt p.inBytes
        let desc : List Word := [p.dws.getD 0 0, setBits (setBits (p.dws.getD 1 0) 63 32 p.step) 15 0 (p.rcount + 1), p.dws.getD 2 0,
          setBits (p.dws.getD 3 0) 63 63 1, p.dws.getD 4 0, p.dws.getD 5 0, p.dws.getD 6 0, p.dws.getD 7 0]
        let inOrder : Prop := if p.anchor then p.lastStep < p.step else p.step = (p.lastStep + 1) % 2 ^ 32
        (p.valid = false → decides 17 (some 6)) ∧ (p.valid = true → ¬ inOrder → decides 20 (some 6))
          ∧ (p.valid = true → inOrder → p.rlimit ≤ p.rcount → decides 19 (some 7))
          ∧ (p.valid = true → inOrder → p.rcount < p.rlimit → ∀ u old, s.tileRange n p.sin p.inBytes false = (u, .parts old) →
            u.partsPoisoned old = false → x.spPoisoned p.inAt p.inBytes = false →
            (∀ bad, p.compare cur (u.partsRead old) p.nin 0 = (bad, false) →
              s.sacp n r p holds = .op (u.onTile n (·.bumpEvc 4 bad)) ⟨r, 18, [], [], some 6, holds, (u.partsFar old).eraseDups⟩)
            ∧ (∀ bad v out v' w sin pa, p.compare cur (u.partsRead old) p.nin 0 = (bad, true) →
              u.tileRange n p.sout p.osize false = (v, .parts out) → v.partsPoisoned out = false →
              (if p.anchor = true then v' = v ∧ sin = [] else v.tileRange n p.sin p.inBytes true = (v', .parts sin)) →
              v'.tileRange n r.x.toNat 64 true = (w, .parts pa) →
              ∃ o, s.sacp n r p holds = .op (w.onTile n (·.bumpEvc 4 bad)) o ∧ o.code = 16 ∧ o.evc = some 5 ∧ o.pane = [(p.outAt, w.partsRead out)]
                ∧ o.mem = partsWrite sin cur ++ partsWrite pa (desc.flatMap fun w => leBytes 8 w.toNat)))

/-- R320, R323, R324: an operation completes: its writes, its event, its token; that of a tile that replays writes no memory (R394), and what one
of a viral die would write is held (R385).
(The model's own choices and readings in it: log 24.) -/
def Sys2Proof.Claims.CacheCompletes : Prop :=
  ∀ (s : State) (n : Nat),
    ((s.tile n).sac = none → exec (.sacComplete n) s = .next s)
      ∧ ∀ o, (s.tile n).sac = some o →
        let still : Prop := ∀ p ∈ o.holds, ((s.tile p.1).pane p.2).releasing = false
        (s.viralAt n = true → (s.tile n).replay = false → o.mem ≠ [] → exec (.sacComplete n) s = .next { s with later := s.later ++ [.sacComplete n] })
        ∧ (s.viralAt n = false ∨ (s.tile n).replay = true ∨ o.mem = [] → ∃ t, exec (.sacComplete n) s = .next t ∧ (t.tile n).sac = none ∧ Token s t n o.req.ctx o.req.tok o.code
          ∧ (still → o.mem = [] ∨ (s.tile n).replay = true → t.mem = s.mem) ∧ (∀ i, o.evc = some i → i < 16 → vget (t.tile n).evc i 0 = satAdd32 (vget (s.tile n).evc i 0) 1)
          ∧ (∀ pa bs, still → (s.tile n).replay = false → o.mem = [(pa, bs)] → Solo s pa → s.mem.wf = true → t.mem.getList pa bs.length = bs
            ∧ ∀ a, (a < pa ∨ pa + bs.length ≤ a) → t.mem.get a = s.mem.get a)
          ∧ ((s.tile n).replay = false → (s.tile n).armed 0 = false → (s.tile n).sp.wf = true →
            (o.pane = [] → (t.tile n).sp = (s.tile n).sp)
            ∧ ∀ a bs, o.pane = [(a, bs)] → (t.tile n).sp.getList a bs.length = bs
              ∧ ∀ c, (c < a ∨ a + bs.length ≤ c) → (t.tile n).sp.get c = (s.tile n).sp.get c))

/-- R320 to R325, R349 to R351: the step activation cache. -/
def Obligations.CacheSteps : Prop := CacheDecides ∧ CacheCompletes

/-! ### Faults and kills (R366 to R381, R317, R460) -/

/-- R375, R379, R381, R402, R436: a domain kill is started once; a colour kill of a domain that is not being switched starts once for every tile
of the domain and acts as a domain kill where the colour is 0 or a tile's kill list is full; a domain switched out keeps it for the resume; and
that of a federated domain goes to its other modules.
(The model's own choices and readings in it: log 45.) -/
def Sys2Proof.Claims.KillStarts : Prop :=
  ∀ (s : State) (start dom col cause : Nat),
    ((∃ c, .domainKill dom c ∈ s.later) → s.killDomain dom cause = s)
      ∧ ((∀ c, .domainKill dom c ∉ s.later) → s.killDomain dom cause = { s with later := s.later ++ [.domainKill dom cause] })
      ∧ s.killColour start dom 0 cause = s.killDomain dom cause
      ∧ (col ≠ 0 → (∃ k ∈ s.gong, k.dom = dom ∧ k.col = col) → s.killColour start dom col cause = s)
      ∧ ∀ d, s.domain dom = some d → col ≠ 0 → (∀ k ∈ s.gong, ¬ (k.dom = dom ∧ k.col = col)) →
        (d.moving = true → (∃ k ∈ d.heldKills, k.1 = col) → s.killColour start dom col cause = s)
          ∧ (d.moving = true → (∀ k ∈ d.heldKills, k.1 ≠ col) →
            ∃ d', (s.killColour start dom col cause).domain dom = some d' ∧ d'.heldKills = d.heldKills ++ [(col, cause, start)])
          ∧ ((∀ k ∈ d.heldKills, k.1 ≠ col) → (s.killColour start dom col cause).outKills =
            s.outKills ++ (d.federation.filter fun m => decide (m ≠ s.modNo)).map fun m => (m, ⟨dom, col, cause, start⟩))
          ∧ (d.moving = false → (∃ t ∈ d.tiles, 64 ≤ (s.tile t).kills.length) →
            { s.killColour start dom col cause with outKills := s.outKills } = s.killDomain dom 0x26)
          ∧ (d.moving = false → (∀ t ∈ d.tiles, (s.tile t).kills.length < 64) →
            (⟨dom, col, cause, start⟩ : GongKill) ∈ (s.killColour start dom col cause).gong
              ∧ (∀ t ∈ d.tiles, .colourKillArrival t dom col cause start ∈ (s.killColour start dom col cause).later)
              ∧ (s.killColour start dom col cause).tiles = s.tiles)

/-- R366, R368, R369: the disposition of a trapped context's cause: kill its colour or its domain, stop the gang, or send the trap record to the
domain's trap handler; a trap of the trap handler itself kills the domain, and one of a stopped tile, or one behind a trap that the tile took
before it, waits.
(The model's own choices and readings in it: log 25.) -/
def Sys2Proof.Claims.TrapDispositions : Prop :=
  ∀ (s : State) (n c : Nat) (d : Domain), s.domain (s.tile n).dom = some d →
    let x := s.tile n
    let k := x.ctx c
    let code := bits k.trapc 4 0
    (k.status ≠ .trapped → exec (.trapDelivery n c) s = .next s)
      ∧ (k.status = .trapped → s.domainDying d.dom = true → exec (.trapDelivery n c) s = .next s)
      ∧ (k.status = .trapped → s.domainDying d.dom = false →
        (x.frozen = true ∨ ∃ before b rest, x.trapQ = before ++ b :: rest ∧ c ∉ before ∧ b ≠ c ∧ .trapDelivery n b ∈ s.later) →
        exec (.trapDelivery n c) s = .next { s with later := s.later ++ [.trapDelivery n c] })
      ∧ (k.status = .trapped → s.domainDying d.dom = false → x.frozen = false →
        (∀ before b rest, x.trapQ = before ++ b :: rest → c ∉ before → b ≠ c → .trapDelivery n b ∉ s.later) →
        (∀ a, k.act = some a → a.hid = d.trapHid → exec (.trapDelivery n c) s = .next (s.killDomain x.dom code))
        ∧ (∀ a, k.act = some a → a.hid ≠ d.trapHid →
          (d.disp.getD code 0 = 0 → exec (.trapDelivery n c) s = .next (s.killColour (s.addr n) x.dom k.colour code))
          ∧ (d.disp.getD code 0 = 1 → exec (.trapDelivery n c) s = .next (s.killDomain x.dom code))
          ∧ (d.disp.getD code 0 = 2 → .gongStop d.dom ∉ s.later → exec (.trapDelivery n c) s = .next { s with later := s.later ++ [.gongStop d.dom] })
          ∧ (d.disp.getD code 0 = 3 → x.replay = false → ∃ t m, exec (.trapDelivery n c) s = .next t ∧ (t.tile n).loopIn = x.loopIn ++ [.msg m false]
            ∧ m.tag = a.slot.msg.tag ∧ m.pay = [k.trapc, k.trappc, k.trapva, k.trapiw, BitVec.ofNat 64 c] ∧ (h0Of m.h0).hid = d.trapHid % 4096
            ∧ (h0Of m.h0).len = 5 ∧ (t.tile n).seq = x.seq + 1 ∧ t.ctxAt n c = s.ctxAt n c)))

/-- R370: the oldest verdict: of no word, or ill formed for a trapped context, it kills the domain with cause 0x27; for a context that is not
trapped it is discarded; otherwise the context resumes at its TRAPPC or at the address given, or its colour or its domain is killed.
(The model's own choices and readings in it: log 25.) -/
def Sys2Proof.Claims.Verdicts : Prop :=
  ∀ (s : State) (n : Nat),
    let x := s.tile n
    ((∀ i ∈ x.svc, ∀ q, i ≠ .verdict q) → exec (.serviceVerdict n) s = .next s)
      ∧ ∀ a m b, x.svc = a ++ .verdict m :: b → (∀ i ∈ a, ∀ q, i ≠ .verdict q) →
        let u := s.setTile n { x with svc := a ++ b }
        let len := (h0Of m.h0).len
        let c := (m.pay.getD 0 0).toNat
        let action := (m.pay.getD 1 0).toNat
        let at' := m.pay.getD 2 0
        (len = 0 → exec (.serviceVerdict n) s = .next (u.killDomain x.dom 0x27))
          ∧ (len ≠ 0 → 4 < c ∨ (s.ctxAt n c).status ≠ .trapped → exec (.serviceVerdict n) s = .next u)
          ∧ (len ≠ 0 → c ≤ 4 → (s.ctxAt n c).status = .trapped →
            (len = 1 ∨ 3 < action ∨ (action = 1 ∧ (len < 3 ∨ at'.toNat % 4 ≠ 0)) → exec (.serviceVerdict n) s = .next (u.killDomain x.dom 0x27))
            ∧ (2 ≤ len → (action = 0 ∨ (action = 1 ∧ 3 ≤ len ∧ at'.toNat % 4 = 0)) → ∃ t, exec (.serviceVerdict n) s = .next t
              ∧ (t.ctxAt n c).status = .running ∧ (t.ctxAt n c).pc = (if action = 0 then (s.ctxAt n c).trappc else at')
              ∧ (t.ctxAt n c).gs = (s.ctxAt n c).gs ∧ (t.ctxAt n c).st = (s.ctxAt n c).st ∧ (t.tile n).svc = a ++ b)
            ∧ (2 ≤ len → action = 2 → exec (.serviceVerdict n) s =
              .next (u.killColour (s.addr n) x.dom (s.ctxAt n c).colour (bits (s.ctxAt n c).trapc 4 0)))
            ∧ (2 ≤ len → action = 3 → exec (.serviceVerdict n) s = .next (u.killDomain x.dom (bits (s.ctxAt n c).trapc 4 0))))

/-- R371, R372: a double fault withdraws its tile: its contexts are FREE, its queues empty, its panes as at reset and their bytes zero but those that an
operation it still has under way holds, and it stays withdrawn; the records count it.  The lowest surviving tile of its domain gets DOMAIN_LOST, and
with no survivor the domain is killed with cause 0x25.
(The model's own choices and readings in it: log 25.) -/
def Sys2Proof.Claims.Withdrawals : Prop :=
  ∀ (s : State) (n : Nat),
    let held (p : Nat) : Bool := (s.tile n).rmaOps.any fun o => o.holds.contains (n, p)
    ((s.tile n).withdrawn = true → exec (.doubleFault n) s = .next s)
      ∧ ((s.tile n).withdrawn = false → (s.tile n).dom = 0 → ∃ t, exec (.doubleFault n) s = .next t ∧ (t.tile n).withdrawn = true
        ∧ (∀ c < 6, (t.ctxAt n c).status = .free ∧ (t.ctxAt n c).act = none) ∧ (∀ q, ((t.tile n).queue q).waiting = [])
        ∧ (t.tile n).asyncQ = [] ∧ (t.tile n).running = none ∧ (t.tile n).sac = none
        ∧ ((∀ c < 6, ∀ r, (s.ctxAt n c).wait ≠ some (.sent r)) → t.mem = s.mem)
        ∧ (∀ p < 128, held p = true → (t.tile n).pane p = (s.tile n).pane p)
        ∧ (∀ p < 128, held p = false → (t.tile n).pane p = ⟨if p < 124 then .core else .firmware, false, 0, 0⟩)
        ∧ (∀ a, held (a / 4096) = false → (t.tile n).sp.get a = 0)
        ∧ t.life.withdrawals = min (s.life.withdrawals + 1) (2 ^ 64 - 1))
      ∧ (∀ d, (s.tile n).withdrawn = false → (s.tile n).dom ≠ 0 → s.domain (s.tile n).dom = some d → d.gang = .running →
        (∀ u ∈ d.tiles, u % 32768 = n % 32768 ∨ (s.tile u).dom ≠ d.dom) →
        ∃ t, exec (.doubleFault n) s = .next t ∧ (t.tile n).withdrawn = true ∧ ∃ cause, .domainKill d.dom cause ∈ t.later
          ∧ ((∀ c, .domainKill d.dom c ∉ s.later) → cause = 0x25))
      ∧ (∀ d a u b, (s.tile n).withdrawn = false → (s.tile n).dom ≠ 0 → s.domain (s.tile n).dom = some d → d.gang = .running → d.tiles = a ++ u :: b →
        (∀ v ∈ a, v % 32768 = n % 32768 ∨ (s.tile v).dom ≠ d.dom) → u % 32768 ≠ n % 32768 → (s.tile u).dom = d.dom → s.gone u = false →
        (s.tile u).replay = false → ∃ t m, exec (.doubleFault n) s = .next t ∧ (t.tile n).withdrawn = true
          ∧ (t.tile u).loopIn = (s.tile u).loopIn ++ [.msg m false] ∧ m.tag = setDom 0 d.dom
          ∧ m.pay = [1, BitVec.ofNat 64 (s.addr n), BitVec.ofNat 64 s.beat] ∧ (h0Of m.h0).hid = d.trapHid % 4096 ∧ (h0Of m.h0).len = 3)

/-- R373, R374, R392, R454: what an uncorrectable error does in each kind of structure, a fabric buffer and the save areas of a domain that is out
among them, and what a corrected one counts.
(The model's own choices and readings in it: logs 45, 49.) -/
def Sys2Proof.Claims.Errors : Prop :=
  ∀ (s : State) (n i : Nat),
    let x := s.tile n
    let does (u : ErrUnit) (t : State) : Prop := exec (.uncorrectableError u) s = .next t
    let kills (u : ErrUnit) (tag : Word) : Prop := does u (s.killColour (s.addr n) (domOf tag) (colOf tag) 0x20)
    (∀ q sl, (x.queue q).waiting[i]? = some sl → kills (.queueSlot n q i) sl.msg.tag)
      ∧ (∀ sl, x.store[i]? = some sl → kills (.matchEntry n i) sl.msg.tag)
      ∧ (∀ v, x.store[i]? = none → (x.votes.filter fun v => !v.overflowed)[i - x.store.length]? = some v → kills (.matchEntry n i) v.tag)
      ∧ (∀ p o, (x.fifoAt p)[i]? = some o → does (.fifoEntry n p i) (s.killColour (s.addr n) o.dom o.col 0x20))
      ∧ (domOf (x.counter i).tag ≠ 0 → kills (.counter n i) (x.counter i).tag) ∧ (domOf (x.counter i).tag = 0 → does (.counter n i) s)
      ∧ (∀ c a, c < 5 → (x.ctx c).act = some a → kills (.context n c) a.slot.msg.tag) ∧ does (.context n 5) { s with later := s.later ++ [.doubleFault n] }
      ∧ (∀ r, x.running = some r → does (.sequencer n false) (s.killColour (s.addr n) r.req.dom r.req.col 0x20))
      ∧ (∀ r, x.queued = some r → does (.sequencer n true) (s.killColour (s.addr n) r.req.dom r.req.col 0x20))
      ∧ (∀ e p, (s.engine e).slots[i]? = some p → does (.streamState e i) (s.killColour (s.addr p.tile) p.req.dom p.req.col 0x20))
      ∧ (∀ o, x.sac = some o → does (.sacOperation n) (s.killColour (s.addr n) o.req.dom o.req.col 0x20))
      ∧ (∀ dom col, x.kills[i]? = some (dom, col) → does (.killEntry n i) (s.killDomain dom 0x20))
      ∧ (x.dom ≠ 0 → does (.barval n) (s.killDomain x.dom 0x20))
      ∧ (∀ p, (x.pane p).dom ≠ 0 → does (.paneRecord n p) (s.killDomain (x.pane p).dom 0x20)) ∧ does (.damagedCol i) (s.killDomain i 0x20)
      ∧ (∀ q < 16, ∃ t, does (.spillEntry n q i) t
        ∧ ∀ j : Nat, ((t.tile n).queue q).ring[j]? = ((x.queue q).ring[j]?).map fun sl => if j = i then { sl with bad := true } else sl)
      ∧ (∃ t, does (.areaEntry n i) t ∧ ∀ j : Nat, (t.tile n).area[j]? = (x.area[j]?).map fun sl => if j = i then { sl with bad := true } else sl)
      ∧ (∀ a, a < 0x7C000 → ∃ t, does (.paneData n a) t ∧ (t.tile n).sp = x.sp ∧ (t.tile n).spPoisoned a 1 = true
        ∧ ∀ b, b / 8 ≠ a / 8 → (t.tile n).spPoisoned b 1 = x.spPoisoned b 1)
      ∧ (∀ a, 0x7C000 ≤ a → does (.paneData n a) { s with later := s.later ++ [.doubleFault n] })
      ∧ (∃ t, does (.tlbEntry n i) t ∧ (t.tile n).tlb = x.tlb.eraseIdx i) ∧ (∃ t, does (.handlerEntry n i) t ∧ (t.tile n).hcache = x.hcache.eraseIdx i)
      ∧ (∃ t, does (.memoryData i) t ∧ t.mem = s.mem ∧ t.memPoisoned i 1 = true)
      ∧ does (.sState n) { s with later := s.later ++ [.doubleFault n] } ∧ does (.serviceBuffer n) { s with later := s.later ++ [.doubleFault n] }
      ∧ does (.dieState n) { s with later := s.later ++ [.dieViral n] }
      ∧ (∀ f dom col, (vget s.ports n Port.reset).inbox[i]? = some f → f.owner = some (dom, col) →
        does (.fabricFrame n i) (s.killColour (s.addr (portTile n)) dom col 0x20))
      ∧ (∀ dom y q sl, s.savedTile dom n = some y → (y.queue q).ring[i]? = some sl → kills (.saved dom (.spillEntry n q i)) sl.msg.tag)
      ∧ (∀ dom y c a, c < 5 → s.savedTile dom n = some y → (y.ctx c).act = some a → kills (.saved dom (.context n c)) a.slot.msg.tag)
      ∧ (∀ dom y q sl, s.savedTile dom n = some y → (y.queue q).waiting[i]? = some sl → kills (.saved dom (.queueSlot n q i)) sl.msg.tag)
      ∧ (∀ dom y sl, s.savedTile dom n = some y → y.store[i]? = some sl → kills (.saved dom (.matchEntry n i)) sl.msg.tag)
      ∧ (∀ dom y, s.savedTile dom n = some y → domOf (y.counter i).tag ≠ 0 → kills (.saved dom (.counter n i)) (y.counter i).tag)
      ∧ (∀ dom y p o, s.savedTile dom n = some y → (y.fifoAt p)[i]? = some o → does (.saved dom (.fifoEntry n p i)) (s.killColour (s.addr n) o.dom o.col 0x20))
      ∧ (i < 8 → ∃ t, exec (.correctedError ⟨n, i⟩) s = .next t ∧ t.life.corrected.getD i 0 = min (s.life.corrected.getD i 0 + 1) (2 ^ 64 - 1)
        ∧ (∀ j < 8, j ≠ i → t.life.corrected.getD j 0 = min (s.life.corrected.getD j 0) (2 ^ 64 - 1)) ∧ t.tiles = s.tiles ∧ t.mem = s.mem
        ∧ (n < 28 → (t.die n).errors.getD i 0 = min ((s.die n).errors.getD i 0 + 1) (2 ^ 64 - 1)))
      ∧ (8 ≤ i → exec (.correctedError ⟨n, i⟩) s = .next s)

/-- R366 to R374: traps delivered, verdicts, errors and withdrawn tiles. -/
def Obligations.FaultSteps : Prop := KillStarts ∧ TrapDispositions ∧ Verdicts ∧ Withdrawals ∧ Errors

/-- R374 to R376, R379: a colour kill on a tile: it enters the kill list, the contexts of the colour are freed, no waiting slot and no operand of
the colour stays, and the other contexts run on; a poisoned entry of a spill ring, whose colour S cannot tell, stays, and S that meets one kills the
domain; one that finds the kill list of a tile of the domain full kills the domain, and one that brings it to 48 starts a sweep of the tile's domain.
(The model's own choices and readings in it: log 45.) -/
def Sys2Proof.Claims.ColourKills : Prop :=
  ∀ (s : State) (n dom col cause start : Nat), col ≠ 0 →
    let mine (tag : Word) : Prop := domOf tag = dom ∧ colOf tag = col
    (dom ≠ 0 → (s.tile n).dom = dom → (s.tile n).withdrawn = false → 64 ≤ (s.tile n).kills.length → (dom, col) ∉ (s.tile n).kills →
      exec (.colourKillArrival n dom col cause start) s = .next (s.killDomain dom 0x26))
    ∧ ((s.tile n).kills.length < 64 →
    ∃ t, exec (.colourKillArrival n dom col cause start) s = .next t ∧ (dom, col) ∈ (t.tile n).kills
      ∧ (∀ c < 5, ∀ a, (s.ctxAt n c).act = some a → mine a.slot.msg.tag → (t.ctxAt n c).status = .free ∧ (t.ctxAt n c).act = none)
      ∧ (∀ c < 6, (c = 5 ∨ ∀ a, (s.ctxAt n c).act = some a → ¬ mine a.slot.msg.tag) →
        ((s.ctxAt n c).status ≠ .stalled → (t.ctxAt n c).status = (s.ctxAt n c).status)
          ∧ (t.ctxAt n c).pc = (s.ctxAt n c).pc ∧ (t.ctxAt n c).vs = (s.ctxAt n c).vs)
      ∧ (∀ q < 16, ∀ sl ∈ ((t.tile n).queue q).waiting ++ (t.tile n).store, ¬ mine sl.msg.tag)
      ∧ (∀ q < 16, ((t.tile n).queue q).ring = ((s.tile n).queue q).ring.filter fun sl => !(domOf sl.msg.tag == dom && colOf sl.msg.tag == col) || sl.bad)
      ∧ ((s.tile n).dom = dom → (∃ q < 16, ∃ sl ∈ ((s.tile n).queue q).ring, sl.bad = true) → ∃ c, .domainKill dom c ∈ t.later)
      ∧ ((s.tile n).dom ≠ 0 → 48 ≤ (t.tile n).kills.length → .colourReclaimSweep (s.tile n).dom ∈ t.later)
      ∧ (∀ q < 16, ((t.tile n).queue q).waiting = ((s.tile n).queue q).waiting.filter fun sl => !(domOf sl.msg.tag == dom && colOf sl.msg.tag == col))
      ∧ (∀ r ∈ (t.tile n).asyncQ, ¬ (r.dom = dom ∧ r.col = col)) ∧ (t.tile n).dom = (s.tile n).dom)

/-- R83, R379: the reclaim sweep of a domain: the pulse marks its flits, those in the fabric buffers among them, and notes the colours that may come back; when no marked flit is left,
they leave the kill lists and the register, and a tile of the domain whose list held one is reinstated.  A domain being switched waits.
(The model's own choices and readings in it: log 46.) -/
def Sys2Proof.Claims.Sweeps : Prop :=
  ∀ (s : State) (d : Domain), s.domain d.dom = some d →
    let again : State := { s with later := s.later ++ [.colourReclaimSweep d.dom] }
    (d.moving = true → exec (.colourReclaimSweep d.dom) s = .next again)
      ∧ (d.moving = false → d.sweep = none → ∃ t d' back, exec (.colourReclaimSweep d.dom) s = .next t ∧ t.later = again.later
        ∧ t.domain d.dom = some d' ∧ d'.sweep = some back ∧ (∀ p ∈ t.net, domOf p.msg.tag = d.dom → p.marked = true) ∧ t.tiles = s.tiles
        ∧ (∀ n, (vget t.ports n Port.reset).marksOf d.dom = (vget s.ports n Port.reset).inbox.length)
        ∧ ∀ c ∈ back, ∀ k ∈ s.gong, ¬ (k.dom = d.dom ∧ k.col = c) ∨ c ∈ d.colours.map (·.col))
      ∧ (∀ back, d.moving = false → d.sweep = some back → s.markedLeft d.dom = true → exec (.colourReclaimSweep d.dom) s = .next again)
      ∧ (∀ back, d.moving = false → d.sweep = some back → s.markedLeft d.dom = false → ∃ t d', exec (.colourReclaimSweep d.dom) s = .next t
        ∧ t.domain d.dom = some d' ∧ d'.sweep = none ∧ (∀ c ∈ back, ∀ n, (d.dom, c) ∉ (t.tile n).kills)
        ∧ (∀ n k, k ∈ (s.tile n).kills → k.1 ≠ d.dom ∨ k.2 ∉ back → k ∈ (t.tile n).kills) ∧ (∀ c ∈ d'.colours, c.col ∉ back)
        ∧ ∀ n, let x : Tile := { s.tile n with kills := (s.tile n).kills.filter fun k => !(k.1 == d.dom && back.contains k.2) }
          t.tile n = if (s.tile n).dom = d.dom ∧ (∃ k ∈ (s.tile n).kills, k.1 = d.dom ∧ k.2 ∈ back) then x.reinstated else x)

/-- R139, R381: a killed domain, and one whose job leaves, is no more on the module: no tile is bound to it, and none of its kills, stops, switches
and sweeps is pending, but the sweep of the kill.
(The model's own choices and readings in it: log 45.) -/
def Sys2Proof.Claims.DomainKills : Prop :=
  ∀ (s : State) (dom cause : Nat), dom ≠ 0 →
    (s.domain dom = none → exec (.domainKill dom cause) s = .next s ∧ exec (.jobLeaves dom) s = .next s)
      ∧ (s.domain dom ≠ none → ∃ t u, exec (.domainKill dom cause) s = .next t ∧ exec (.jobLeaves dom) s = .next u
        ∧ t.domain dom = none ∧ u.domain dom = none ∧ (∀ n, (t.tile n).dom ≠ dom ∧ (u.tile n).dom ≠ dom)
        ∧ dom ∈ t.unswept ∧ .colourReclaimSweep dom ∈ t.later ∧ (∀ k ∈ u.gong, k.dom ≠ dom)
        ∧ (∀ e ∈ t.later, eventOfDomain dom e = true → e = .colourReclaimSweep dom) ∧ (∀ e ∈ u.later, eventOfDomain dom e = false)
        ∧ (∀ n, (s.tile n).dom ≠ dom → (u.tile n).ctxs = (s.tile n).ctxs ∧ (u.tile n).sp = (s.tile n).sp))

/-- R317: a channel failure: with no remap table nothing; with no spare rectangle a notice of 0; else, once its tiles are idle, the spare
rectangle takes its place in the table and in the records, and a notice says so.
(The model's own choices and readings in it: log 25.) -/
def Sys2Proof.Claims.Remaps : Prop :=
  ∀ (s : State) (n u : Nat) (d : Domain), s.domain (s.tile n).dom = some d → (s.tile n).dom ≠ 0 →
    let x := s.tile n
    let ea := x.rnsmap.toNat + 8 * u
    let w : Word := BitVec.ofNat 64 (x.sp.le ea 8)
    let old := bits w 23 0
    let p := bits w 29 24
    let q := bits w 37 32
    let told (t : State) (new : Nat) : Prop := x.replay = false → ∃ m, .msg m false ∈ (t.tile n).loopIn
      ∧ m.pay = [BitVec.ofNat 64 u, BitVec.ofNat 64 old, BitVec.ofNat 64 new] ∧ (h0Of m.h0).hid = d.trapHid % 4096
    (x.rnsmap = 0 → exec (.channelRemap n u) s = .next s)
      ∧ (x.rnsmap ≠ 0 → (p = 0 ∨ q = 0 ∨ spareRect d.spares (dieAt (old % 32768)) p q = none) → ∃ t, exec (.channelRemap n u) s = .next t ∧ told t 0
        ∧ t.domains = s.domains ∧ t.mem = s.mem)
      ∧ (∀ o, x.rnsmap ≠ 0 → p ≠ 0 → q ≠ 0 → spareRect d.spares (dieAt (old % 32768)) p q = some o →
        let from' := rectTiles (old % 32768) p q
        ((∃ f ∈ from', (s.tile f).idleForRemap = false) → exec (.channelRemap n u) s = .next { s with later := s.later ++ [.channelRemap n u] })
        ∧ ((∀ f ∈ from', (s.tile f).idleForRemap = true) → n < 32768 → n ∉ from' → n ∉ rectTiles o p q → x.sp.wf = true → ∃ t, exec (.channelRemap n u) s = .next t
          ∧ told t (s.addr o) ∧ t.life.remaps = min (s.life.remaps + 1) (2 ^ 64 - 1) ∧ (t.tile n).sp.le ea 8 = (setBits w 23 0 (s.addr o)).toNat
          ∧ ∀ c, (c < ea ∨ ea + 8 ≤ c) → (t.tile n).sp.get c = x.sp.get c))

/-- R139, R317, R375 to R381: kills, the reclaim of colours, and remaps. -/
def Obligations.KillSteps : Prop := ColourKills ∧ Sweeps ∧ DomainKills ∧ Remaps

/-! ### The Gong stop, the gang switch and replay (R387 to R394, R403, R439) -/

/-- R387: a Gong stop freezes every tile of a running domain, and when all are at their boundaries records each, at offset 0x40 of its save area.
(The model's own choices and readings in it: log 48.) -/
def Sys2Proof.Claims.GongStops : Prop :=
  ∀ (s : State) (d : Domain), s.domain d.dom = some d →
    (d.gang = .running → ∃ t d', exec (.gongStop d.dom) s = .next t ∧ t.domain d.dom = some d' ∧ d'.gang = .stopping
        ∧ (∀ n ∈ d.tiles, (t.tile n).frozen = true) ∧ .gongStop d.dom ∈ t.later ∧ t.mem = s.mem)
      ∧ (d.gang = .stopping → (∀ n ∈ d.tiles, (s.tile n).stopped = true) → ∃ t d', exec (.gongStop d.dom) s = .next t ∧ t.domain d.dom = some d' ∧ d'.gang = .stopped
        ∧ ∀ n ∈ d.tiles, ∃ r, (t.tile n).stopRec = some r ∧ r.beat = s.beat ∧ (t.tile n).ctxs = (s.tile n).ctxs
          ∧ (∀ c < 5, r.pcs.getD c 0 = if (s.ctxAt n c).status = .free then BitVec.allOnes 64 else (s.ctxAt n c).pc)
          ∧ let at' := d.saveBase + 0xC0000 * d.tiles.findIdx (· == n) + 0x40
            (d.tiles = [n] → Solo s at' → s.mem.wf = true → t.mem.le at' 8 = s.beat % 2 ^ 64
              ∧ (∀ c < 5, t.mem.le (at' + 8 + 8 * c) 8 = (r.pcs.getD c 0).toNat)
              ∧ ∀ a, (a < at' ∨ at' + 64 ≤ a) → t.mem.get a = s.mem.get a))
      ∧ (d.gang = .stopping → (∃ n ∈ d.tiles, (s.tile n).stopped = false) → ∃ t, exec (.gongStop d.dom) s = .next t ∧ .gongStop d.dom ∈ t.later
        ∧ t.mem = s.mem ∧ ∀ n, (t.tile n).ctxs = (s.tile n).ctxs)

/-- R388, R389, R392, R403: a switch waits for its beat and the kills before it; when every tile is stopped and empty, the domain is out, its
tiles are saved, with the bytes of their save areas, and bound to no domain, and S of the tile that asked is woken.
(The model's own choices and readings in it: log 12.) -/
def Sys2Proof.Claims.GangSwitches : Prop :=
  ∀ (s : State) (d : Domain) (b : Nat), s.domain d.dom = some d → d.gang = .switching b →
    (s.beat < b ∨ (∃ x y z w, .colourKillArrival x d.dom y z w ∈ s.later) → exec (.gangSwitch d.dom) s = .next { s with later := s.later ++ [.gangSwitch d.dom] })
      ∧ (∀ n, b ≤ s.beat → (∀ x y z w, .colourKillArrival x d.dom y z w ∉ s.later) → d.tiles = [n] → d.dom ≠ 0 → (s.tile n).withdrawn = false → (s.tile n).frozen = true →
        (s.tile n).dom = d.dom → s.switchReady n = true → (s.tile n).running = none → (s.tile n).queued = none → s.engines = [] → s.net = [] →
        ∃ t d' x, exec (.gangSwitch d.dom) s = .next t ∧ t.domain d.dom = some d' ∧ d'.gang = .out ∧ d'.saved = [(n, x)] ∧ (t.tile n).dom = 0
          ∧ x.ctxs = (s.tile n).ctxs ∧ x.sp = (s.tile n).sp ∧ x.queues = (s.tile n).queues ∧ x.counters = (s.tile n).counters ∧ x.panes = (s.tile n).panes
          ∧ x.store = (s.tile n).store ∧ x.asyncQ = (s.tile n).asyncQ ∧ x.rnsmap = (s.tile n).rnsmap ∧ x.fifo = (s.tile n).fifo
          ∧ ((d.gangTile = some n) → .switchDone d.dom ∈ (t.tile n).sEvents)
          ∧ let at' := d.saveBase
            ((∀ a, at' ≤ a → a < at' + 0xC0000 → Solo s a) → s.mem.wf = true → t.mem.le at' 8 = (d.dom + s.addr n * 2 ^ 24) % 2 ^ 64
              ∧ t.mem.le (at' + 0x10) 8 = s.beat % 2 ^ 64 ∧ ((∀ q < 16, ((s.tile n).queue q).waiting = []) →
                (∀ c < 5, ((s.tile n).ctx c).act = none) → ∀ j < 507904, t.mem.get (at' + 0x40000 + j) = (s.tile n).sp.get j)
              ∧ ((s.tile n).storeUsed ≤ 512 → (s.tile n).asyncQ.length ≤ 16 → (s.tile n).kills.length ≤ 64 →
                (∀ p, ((s.tile n).fifoAt p).length ≤ 8) → ∀ a, (a < at' ∨ at' + 0xC0000 ≤ a) → t.mem.get a = s.mem.get a)))

/-- R391, R392: a resume waits for its beat and for its tiles to be free; then each saved tile is as it was saved, but for S, its own panes, the
TLB and what stays with the tile, and it runs.
(The model's own choices and readings in it: logs 12, 47.) -/
def Sys2Proof.Claims.GangResumes : Prop :=
  ∀ (s : State) (d : Domain) (b : Nat), s.domain d.dom = some d → d.gang = .resuming b →
    (s.beat < b ∨ (∃ p ∈ d.saved, (s.tile p.1).dom ≠ 0) → exec (.gangResume d.dom) s = .next { s with later := s.later ++ [.gangResume d.dom] })
      ∧ (∀ n x, b ≤ s.beat → d.saved = [(n, x)] → (s.tile n).dom = 0 → d.heldKills = [] → x.queued = none →
        (∀ p ∈ d.saved, p.1 < 32768) → d.gangTile = none →
        d.savedPrograms = [] → d.savedWaits = [] → (∀ e ∈ s.engines, e.2.slots = [] ∧ e.2.back = [] ∧ e.2.waits = []) →
        ∃ t d', exec (.gangResume d.dom) s = .next t ∧ t.domain d.dom = some d' ∧ d'.gang = .running ∧ d'.resumedAt = some s.beat
          ∧ (t.tile n).running = x.running.map (fun r => if r.atStop then { r with base := r.prog, start := s.beat + 4096, stopAt := none }
            else { r with stopAt := none })
          ∧ (∀ c < 5, t.ctxAt n c = x.ctx c) ∧ t.ctxAt n 5 = s.ctxAt n 5 ∧ (t.tile n).dom = x.dom ∧ (t.tile n).frozen = false ∧ (t.tile n).tlb = []
          ∧ (t.tile n).queues = x.queues ∧ (t.tile n).counters = x.counters ∧ (t.tile n).panes = x.panes ∧ t.net = d.fallout ++ s.net
          ∧ (x.sp.wf = true → (s.tile n).sp.wf = true → ∀ a, (t.tile n).sp.get a = if a < 0x7C000 then x.sp.get a else (s.tile n).sp.get a))

/-- R403: the root refuses a switch of a domain that is not running and a resume of one that is not out, with 1; it answers the others 0 and
carries them out. -/
def Sys2Proof.Claims.RootAnswers : Prop :=
  ∀ (s : State) (n c : Nat) (r : GReq), c < 6 → (s.ctxAt n c).wait = some (.sent r) → r.kind = .gangSw →
    let dom := bits r.x 11 0
    let resume := r.x.getLsbD 12
    let good : Prop := ∃ d, s.domain dom = some d ∧ s.domainDying dom = false ∧ d.gang = (if resume then .out else .running)
      ∧ (resume = false → .gongStop dom ∉ s.later)
    (¬ good → ∃ t, exec (.gongRootAnswer n c) s = .next t ∧ (t.ctxAt n c).wait = some (.answered r 1) ∧ (t.ctxAt n c).status = .running ∧ t.domains = s.domains
        ∧ t.later = s.later)
      ∧ (good → ∃ t d, exec (.gongRootAnswer n c) s = .next t ∧ (t.ctxAt n c).wait = some (.answered r 0) ∧ (t.ctxAt n c).status = .running
        ∧ t.domain dom = some d ∧ d.gang = (if resume then .resuming r.y.toNat else .switching r.y.toNat) ∧ d.gangTile = some n
        ∧ t.later = s.later ++ [if resume then .gangResume dom else .gangSwitch dom])

/-- R387, R439: DEBUG stops the function's running domain, resumes a stopped one, and kills it with cause 0; a function bound to none does
nothing.
(The model's own choices and readings in it: log 54; and log 64, by which a stop of a domain that is being switched, is out or is resumed has no
effect.) -/
def Sys2Proof.Claims.Debugs : Prop :=
  ∀ (s : State) (f : Nat),
    ((s.fn f).dom = none → exec (.debugStop f) s = .next s ∧ exec (.debugResume f) s = .next s ∧ exec (.debugKill f) s = .next s)
      ∧ ∀ d, (s.fn f).dom = some d.dom → s.domain d.dom = some d →
        exec (.debugKill f) s = .next (s.killDomain d.dom 0)
          ∧ (d.gang = .running → .gongStop d.dom ∉ s.later → exec (.debugStop f) s = .next { s with later := s.later ++ [.gongStop d.dom] })
          ∧ (d.gang ≠ .running → exec (.debugStop f) s = .next s) ∧ (d.gang ≠ .stopped → exec (.debugResume f) s = .next s)
          ∧ (d.gang = .stopped → ∃ t d', exec (.debugResume f) s = .next t ∧ t.domain d.dom = some d' ∧ d'.gang = .running
            ∧ (∀ n ∈ d.tiles, (t.tile n).frozen = false) ∧ t.mem = s.mem ∧ ((∀ n ∈ d.tiles, (s.tile n).queued = none) → ∀ n, (t.tile n).sp = (s.tile n).sp ∧ (t.tile n).ctxs = (s.tile n).ctxs))

/-- R394: the checkpoint of a tile in domain `dom` is restored on a tile bound to another domain, which then is its domain; the inputs that the
log of the checkpoint's tile holds since then are laid up, and its arrivals come by LOOPB.  A tile bound to no other domain, and a domain without a
checkpoint, replays nothing.
(The model's own choices and readings in it: logs 22, 28.) -/
def Sys2Proof.Claims.Replays : Prop :=
  ∀ (s : State) (n dom : Nat),
    let own := (s.tile n).dom
    (own = 0 ∨ own = dom ∨ s.domain dom = none → exec (.singleTileReplay n dom) s = .next s)
      ∧ (∀ d, s.domain dom = some d → d.saved = [] → exec (.singleTileReplay n dom) s = .next s)
      ∧ ∀ d, own ≠ 0 → own ≠ dom → s.domain dom = some d → d.saved ≠ [] →
        ∃ u x, (u, x) ∈ d.saved ∧ (x.queued = none →
        ∃ t, exec (.singleTileReplay n dom) s = .next t ∧ (t.tile n).replay = true ∧ (x.dom = dom → (t.tile n).dom = own)
        ∧ (∀ c < 5, (t.ctxAt n c).status = (x.ctx c).status ∧ (t.ctxAt n c).pc = (x.ctx c).pc ∧ (t.ctxAt n c).gs = (x.ctx c).gs
          ∧ (t.ctxAt n c).vs = (x.ctx c).vs ∧ domOf (t.ctxAt n c).tg = if domOf (x.ctx c).tg = dom then own % 4096 else domOf (x.ctx c).tg)
        ∧ t.ctxAt n 5 = s.ctxAt n 5
        ∧ (∀ q < 16, ((t.tile n).queue q).waiting.map (·.msg.pay) = (x.queue q).waiting.map (·.msg.pay) ∧ ((t.tile n).queue q).depth = (x.queue q).depth)
        ∧ (t.tile n).feed = (((s.tile u).log.drop x.log.length).filter fun r => r.kind == 4).map (·.data)
        ∧ (t.tile n).loopIn.length = (((s.tile u).log.drop x.log.length).filter fun r => decide (r.kind ≤ 3)).length ∧ t.mem = s.mem)

/-- R387 to R394, R403, R439: the Gong. -/
def Obligations.GongSteps : Prop := GongStops ∧ GangSwitches ∧ GangResumes ∧ RootAnswers ∧ Debugs ∧ Replays

/-! ### Dies, power and service life (R385, R386, R427, R444 to R457) -/

/-- R385, R427: an error that cannot be confined makes a die viral: it sends nothing more, its die cache is lost, it will be fenced.  A fence counts in the lifetime records, ends the die's RMA operations and empties the die of packets: the neighbour that keeps one bound
elsewhere sends it again (log 30), and the colour of one bound for the die is killed with cause 0x24. -/
def Sys2Proof.Claims.DieLosses : Prop :=
  ∀ (s : State) (d : Nat), d < 28 →
    ((s.die d).viral = true → exec (.dieViral d) s = .next s) ∧ (s.fenced d = true → exec (.dieFence d) s = .next s)
      ∧ ((s.die d).viral = false → ∃ t, exec (.dieViral d) s = .next t ∧ (t.die d).viral = true ∧ .dieFence d ∈ t.later
        ∧ ((∀ n c r, dieAt n = d → (s.ctxAt n c).wait ≠ some (.sent r)) → t.mem = s.mem ∧ t.caches = s.caches.filter (·.die != d))
        ∧ (∀ e, e ≠ d → t.die e = s.die e) ∧ (24 ≤ d → .edgeDie d ∈ t.downTargets))
      ∧ (s.fenced d = false → ∃ t, exec (.dieFence d) s = .next t ∧ t.fenced d = true ∧ (∀ e, e ≠ d → t.fenced e = s.fenced e)
        ∧ t.life.fenced = min (s.life.fenced + 1) (2 ^ 64 - 1) ∧ (∀ p ∈ t.net, dieAt p.place ≠ d)
        ∧ ∀ p ∈ s.net, dieAt p.place ≠ d → p ∈ t.net)
      ∧ (s.fenced d = false → ∃ t, exec (.dieFence d) s = .next t
        ∧ ∀ n < 32768, (t.tile n).rmaOps = if dieAt n = d ∧ n ∈ s.tiles.map (·.1) then [] else (s.tile n).rmaOps)
      ∧ ∀ p, s.fenced d = false → s.tilesOn d = [] → (s.net.filter fun q => dieAt q.place == d) = [p] →
        let u : State := { s.onDie d fun x => { x with fenced := true } with
          life := { s.life with fenced := min (s.life.fenced + 1) (2 ^ 64 - 1) }, net := s.net.filter fun q => dieAt q.place != d }
        (p.hold = none ∨ p.ejected = true → exec (.dieFence d) s = .next u)
        ∧ ∀ h, p.hold = some h → p.ejected = false → dieAt h ≠ d → s.fenced (dieAt h) = false →
          (s.leaves p = false ∧ dieAt (p.dst % 32768) = d →
            exec (.dieFence d) s = .next (u.killColour (s.addr h) (domOf p.msg.tag) (colOf p.msg.tag) 0x24))
          ∧ (¬ (s.leaves p = false ∧ dieAt (p.dst % 32768) = d) → exec (.dieFence d) s =
            .next { u with net := u.net ++ [{ p with place := h, prev := h, wrapped := false, hold := none }] })

/-- R386, R444, R445, R446, R451, R457: a reset die that passes every check, its two images signed under the root key and of no version below the
fused minimum, rejoins with its tiles reset, unbound and holding the S image, its rail at nominal, and its measurement registers extended from
zero with the digests of the images; one that fails stays fenced, an edge die down with it.  Die 24 derives the identity key from the register 0
of its first check.  A module reset boots every die; the fused minima, the stacks marked failed, the lifetime records, the route table, the
link-up counts and the memory of the host and of other modules outlast it (logs 31, 32). -/
def Sys2Proof.Claims.DieBoots : Prop :=
  (∀ (v : Nat) (b : Boot), bootOk v b = true ↔ Config.sigValid 2 Config.rootKey b.dmcSig b.dmcImage = true ∧ v ≤ b.dmcVersion
      ∧ Config.sigValid 2 Config.rootKey b.sSig b.sImage = true ∧ v ≤ b.sVersion ∧ b.selfTest = true)
    ∧ (∀ (s : State) (d : Nat) (b : Boot), d < 28 →
      let v := (s.die d).minVersion
      let m0 : BitVec 256 := extend 0 (sha256 b.dmcImage)
      (s.fenced d = false → exec (.dieResetInPlace d b) s = .next s)
      ∧ (s.fenced d = true → ∃ t, exec (.dieResetInPlace d b) s = .next t ∧ t.fenced d = !bootOk v b ∧ (t.die d).railMv = 500 ∧ (t.die d).frozenRail = false
        ∧ (t.die d).minVersion = v ∧ (t.die d).viral = false ∧ (t.die d).window = s.beat / 2 ^ 32 ∧ ((t.die d).short = true ↔ s.beat % 2 ^ 32 ≠ 0)
        ∧ (∀ e, e ≠ d → t.die e = s.die e)
        ∧ (bootOk v b = false → (t.die d).meas = bootMeas v b ∧ t.tiles = s.tiles ∧ (24 ≤ d → .edgeDie d ∈ t.downTargets))
        ∧ (bootOk v b = true → (t.die d).meas =
          [m0, extend 0 (sha256 b.sImage), extend 0 (sha256 t.configRecord), 0])
        ∧ (d = 24 → t.identity = if dmcOk v b = true then some m0 else none) ∧ (d ≠ 24 → t.identity = s.identity)
        ∧ (bootOk v b = true → d < 24 → (∀ i < 1024, t.tile (d * 1024 + i) = bootTile b (d * 1024 + i) s.linkCount)
          ∧ ∀ n, dieAt n ≠ d → t.tile n = s.tile n)
        ∧ (bootOk v b = true → 24 ≤ d → upCount t.linkCount (.edgeDie d) = (upCount s.linkCount (.edgeDie d) + 1) % 256 ∧ .edgeDie d ∉ t.downTargets
          ∧ (s.hbmHeld = true → t.stackList = s.stackList
            ∧ ∀ k, k ∈ t.failedStacks ↔ k ∈ s.failedStacks ∨ (k ∈ s.stackList ∧ 24 + k / 4 = d ∧ k ∈ b.badStacks))
          ∧ (s.hbmHeld = false → t.failedStacks = s.failedStacks ∧ ∀ k, k ∈ t.stackList ↔
            k < 16 ∧ k ∉ s.failedStacks ∧ (24 + k / 4 = d → k ∉ b.badStacks) ∧ (24 + k / 4 ≠ d → k ∈ s.stackList)))))
    ∧ ∀ (s : State) (boots : List Boot), ∃ t, exec (.moduleReset boots) s = .next t
      ∧ t.beat = 0 ∧ t.domains = [] ∧ t.net = [] ∧ t.now = [] ∧ t.later = [] ∧ t.engines = [] ∧ t.caches = [] ∧ t.modSet = false
      ∧ t.life = { s.life.ran s.clockStep s.beat with stepSince := 0 } ∧ t.routes = s.routes
      ∧ ((∀ l ∈ s.caches, l.dirty = 0) → t.hostMem = s.hostMem) ∧ (∀ f < 64, t.fn f = { HostFn.reset with winBase := (s.fn f).winBase })
      ∧ (∀ d < 28, t.fenced d = !bootOk (s.die d).minVersion (boots.getD d noBoot) ∧ (t.die d).railMv = 500 ∧ (t.die d).frozenRail = false
        ∧ (t.die d).minVersion = (s.die d).minVersion ∧ (t.die d).window = 0 ∧ (t.die d).short = false
        ∧ (24 ≤ d → (.edgeDie d ∈ t.downTargets ↔ t.fenced d = true)))
      ∧ (t.identity = if dmcOk (s.die 24).minVersion (boots.getD 24 noBoot) = true then
          some (extend 0 (sha256 (boots.getD 24 noBoot).dmcImage)) else none)
      ∧ t.failedStacks = s.failedStacks
      ∧ (∀ k, k ∈ t.stackList ↔ k < 16 ∧ k ∉ s.failedStacks ∧ t.fenced (24 + k / 4) = false ∧ k ∉ (boots.getD (24 + k / 4) noBoot).badStacks)
      ∧ ∀ d < 24, bootOk (s.die d).minVersion (boots.getD d noBoot) = true → ∀ i < 1024,
        { t.tile (d * 1024 + i) with linkUp := [] } = bootTile (boots.getD d noBoot) (d * 1024 + i) []

/-- R451, R452, R455: at the end of a window of 2^32 beats of a die its rail falls one step of 5 mV where the corrected errors of every class
stay below the first threshold; a class above the second freezes undervolting and raises the rail 10 mV, up to nominal, where it is a predictive
failure.  The junction maximum and the rail are sampled.  One offered at another beat, or twice for a window, waits.  A window
that a boot cut short ends with its counts unjudged.
(The model's own choices and readings in it: log 53.) -/
def Sys2Proof.Claims.Windows : Prop :=
  ∀ (s : State) (d temp : Nat) (thresholds : List (Nat × Nat)), d < 28 →
    let x := s.die d
    let hot := (List.range 8).filter fun i => decide ((thresholds.getD i (0, 0)).2 < x.errors.getD i 0)
    let calm : Prop := ∀ i < 8, x.errors.getD i 0 < (thresholds.getD i (0, 0)).1
    let due : Prop := s.beat % 2 ^ 32 = 0 ∧ 2 ^ 32 * x.window < s.beat
    (¬ due → exec (.avsWindowEnd d temp thresholds) s = .next { s with later := s.later ++ [.avsWindowEnd d temp thresholds] })
    ∧ (due → x.short = true → ∃ t, exec (.avsWindowEnd d temp thresholds) s = .next t ∧ 2 ^ 32 * (t.die d).window = s.beat
      ∧ { t.die d with window := x.window, errors := x.errors, short := true } = x ∧ (t.die d).short = false
      ∧ (∀ i, (t.die d).errors.getD i 0 = 0) ∧ t.life = s.life ∧ ∀ e, e ≠ d → t.die e = s.die e)
    ∧ (due → x.short = false → ∃ t, exec (.avsWindowEnd d temp thresholds) s = .next t
      ∧ 2 ^ 32 * (t.die d).window = s.beat ∧ (∀ i, (t.die d).errors.getD i 0 = 0) ∧ (∀ e, e ≠ d → t.die e = s.die e)
      ∧ (hot ≠ [] → (t.die d).frozenRail = true ∧ (t.die d).railMv = min 500 (x.railMv + 10))
      ∧ (hot = [] → (t.die d).frozenRail = x.frozenRail)
      ∧ (hot = [] → calm → x.frozenRail = false → (t.die d).railMv = max 450 (x.railMv - 5))
      ∧ (hot = [] → ¬ calm ∨ x.frozenRail = true → (t.die d).railMv = x.railMv)
      ∧ t.life.tempPending = s.life.tempPending ++ [min 31 (temp / 4)]
      ∧ t.life.voltPending = s.life.voltPending ++ [min 31 ((x.railMv - 400) / 5)]
      ∧ (x.railMv ≠ 500 → t.life.predictive = s.life.predictive ∧ t.life.lastPredictive = s.life.lastPredictive)
      ∧ (x.railMv = 500 → t.life.predictive = min (s.life.predictive + hot.length) (2 ^ 64 - 1) ∧ t.life.lastPredictive.length ≤ 16
        ∧ ∃ old, old ++ t.life.lastPredictive = s.life.lastPredictive ++ hot.map fun c => (d, c, s.beat))
      ∧ { t.life with tempPending := s.life.tempPending, voltPending := s.life.voltPending, predictive := s.life.predictive
                      lastPredictive := s.life.lastPredictive } = s.life)

/-- R453, R454, R455, R457: at a boundary of 2^20 beats the power cap moves the clock by one step, and the beats run at the old step count
toward its hours; every 2^42 beats, and at an orderly power-down, what the histograms and hours have gathered is committed, and power that goes
without one loses it; power that goes is a power cycle.  A failed stack stays in the list; the entries
of the spill pools in it, which are free, are poisoned.
(The model's own choices and readings in it: logs 34, 53, 66.) -/
def Sys2Proof.Claims.Rails : Prop :=
  let ran (s : State) (i : Nat) : Nat := s.life.hoursPending.getD i 0 + if i = s.clockStep then s.beat - s.life.stepSince else 0
  (∀ (s : State) (watts : Nat),
      (s.beat % 2 ^ 20 ≠ 0 → exec (.powerCapStep watts) s = .next { s with later := s.later ++ [.powerCapStep watts] })
      ∧ (s.beat % 2 ^ 20 = 0 →
        let step := if 1000 * s.powerCap < watts then min 3 (s.clockStep + 1) else if watts < 950 * s.powerCap then s.clockStep - 1 else s.clockStep
        ∃ l, exec (.powerCapStep watts) s = .next { s with life := l, clockStep := step } ∧ l.stepSince = s.beat
          ∧ (∀ i < 4, l.hoursPending.getD i 0 = ran s i)
          ∧ { l with stepSince := s.life.stepSince, hoursPending := s.life.hoursPending } = s.life))
    ∧ (∀ (s : State) (down failed : Bool),
      let count (h : List Nat) (bins : List Nat) (i : Nat) : Nat := min (h.getD i 0 + (bins.filter (· == i)).length) (2 ^ 64 - 1)
      (down = false → failed = false → s.beat % 2 ^ 42 ≠ 0 →
        exec (.lifetimeCommit down failed) s = .next { s with later := s.later ++ [.lifetimeCommit down failed] })
      ∧ (down = true ∨ failed = true ∨ s.beat % 2 ^ 42 = 0 → ∃ l, exec (.lifetimeCommit down failed) s = .next { s with life := l }
        ∧ l.tempPending = [] ∧ l.voltPending = [] ∧ (∀ i, l.hoursPending.getD i 0 = 0) ∧ l.stepSince = s.beat
        ∧ l.powerCycles = (if down = true ∨ failed = true then min (s.life.powerCycles + 1) (2 ^ 64 - 1) else s.life.powerCycles)
        ∧ (failed = true → l.tempHist = s.life.tempHist ∧ l.voltHist = s.life.voltHist ∧ l.hours = s.life.hours)
        ∧ (failed = false → (∀ i < 32, l.tempHist.getD i 0 = count s.life.tempHist s.life.tempPending i
            ∧ l.voltHist.getD i 0 = count s.life.voltHist s.life.voltPending i)
          ∧ ∀ i < 4, l.hours.getD i 0 = min (s.life.hours.getD i 0 + ran s i) (2 ^ 64 - 1))
        ∧ { l with tempHist := s.life.tempHist, voltHist := s.life.voltHist, hours := s.life.hours, tempPending := s.life.tempPending
                   voltPending := s.life.voltPending, hoursPending := s.life.hoursPending, stepSince := s.life.stepSince
                   powerCycles := s.life.powerCycles } = s.life))
    ∧ ∀ (s : State) (k : Nat),
      (k ∉ s.stackList ∨ k ∈ s.failedStacks → exec (.stackFailure k) s = .next s)
      ∧ (k ∈ s.stackList → k ∉ s.failedStacks → ∃ t, exec (.stackFailure k) s = .next t ∧ (∀ j, j ∈ t.failedStacks ↔ j = k ∨ j ∈ s.failedStacks)
        ∧ t.stackList = s.stackList ∧ t.mem = s.mem ∧ t.memPoison = s.memPoison ∧ t.net = s.net
        ∧ ∀ n, (t.tile n).ctxs = (s.tile n).ctxs ∧ (t.tile n).sp = (s.tile n).sp ∧ (t.tile n).store = (s.tile n).store
          ∧ (t.tile n).area.map (·.msg) = (s.tile n).area.map (·.msg)
          ∧ ∀ (i : Nat) (sl : Slot), (s.tile n).area[i]? = some sl → sl.bad = true → ∃ sl', (t.tile n).area[i]? = some sl' ∧ sl'.bad = true)

/-- R385, R386, R427, R444 to R455, R457: dies, rails and the lifetime records. -/
def Obligations.DieSteps : Prop := DieLosses ∧ DieBoots ∧ Windows ∧ Rails

/-! ### The networks (R151, R170, R171, R244, R245, R423 to R435, R458, R459) -/

/-- Distance of two coordinates on a ring of 32. -/
def Sys2Proof.Claims.ringGap (a b : Nat) : Nat := min ((a + 32 - b) % 32) ((b + 32 - a) % 32)

/-- R170: inside a die a packet first closes its gap in X, the shorter way round, and then its gap in Y. -/
def Sys2Proof.Claims.TorusSteps : Prop :=
  ∀ p q, p < 32768 → q < 32768 → dieAt p = dieAt q → p ≠ q →
    dieAt (stepIn p q) = dieAt p
      ∧ (xOf p ≠ xOf q → yOf (stepIn p q) = yOf p ∧ ringGap (xOf (stepIn p q)) (xOf q) + 1 = ringGap (xOf p) (xOf q))
      ∧ (xOf p = xOf q → xOf (stepIn p q) = xOf p ∧ ringGap (yOf (stepIn p q)) (yOf q) + 1 = ringGap (yOf p) (yOf q))

/-- R151, R170, R171, R177, R385, R423, R425, R427, R429, R432, R442, R459: the hop of packet `n`.
(The model's own choices and readings in it: logs 16, 21, 30.) -/
def Sys2Proof.Claims.Hops : Prop :=
  ∀ (s : State) (n : Nat),
    (s.net[n]? = none → exec (.packetHop n) s = .next s)
      ∧ ∀ p, s.net[n]? = some p →
        (p.ejected = true ∨ p.link.isSome = true ∨ s.behind n p = true ∨ s.outranked p = true → exec (.packetHop n) s = .next s)
        ∧ (p.ejected = false → p.link = none → s.behind n p = false → s.outranked p = false → p.injected = true →
          let q := p.dst % 32768
          let gone : State := { s with net := dropAt s.net n }
          let moved (place : Nat) (cls : PClass) : Packet :=
            { p with place := place, cls := cls, wrapped := ringClass p.wrapped p.prev p.place place, prev := p.place }
          (∀ g, s.goal p = some g → p.place ≠ g → dieAt p.place = dieAt g →
            exec (.packetHop n) s = .next { s with net := s.net.set n (moved (stepIn p.place g) .dest) })
          ∧ (∀ g place cls, s.goal p = some g → p.place ≠ g → s.hop p.place g p.cls = some (place, cls) → dieAt place = dieAt p.place →
            exec (.packetHop n) s = .next { s with net := s.net.set n (moved place cls) })
          ∧ (∀ g place cls, s.goal p = some g → p.place ≠ g → s.hop p.place g p.cls = some (place, cls) → dieAt place ≠ dieAt p.place →
            exec (.packetHop n) s = .next (if (s.die (dieAt p.place)).viral = true then s
              else { s with net := s.net.set n { moved place cls with hold := some p.place } }))
          ∧ (s.leaves p = true → s.goal p = some p.place → exec (.packetHop n) s = .next (
            if s.pathUp (p.dst / 32768) = true then
              (if (s.die (dieAt p.place)).viral = true then s
                else { s with net := dropAt s.net n ++ [{ p with link := s.routePort (p.dst / 32768), hold := none }] })
            else if p.reply = true then gone.undelivered p.msg else gone.routerReturn p.place p.msg))
          ∧ (s.leaves p = true → s.goal p = none → exec (.packetHop n) s = .next (
            if p.reply = true then gone.undelivered p.msg else gone.routerReturn p.place p.msg))
          ∧ (∀ g, s.leaves p = true → s.goal p = some g → p.place ≠ g → s.hop p.place g p.cls = none → exec (.packetHop n) s = .next (
            if p.reply = true ∧ s.pathUp (p.dst / 32768) = false then gone.undelivered p.msg else gone.routerReturn p.place p.msg))
          ∧ (s.leaves p = false → p.place = q → q = endpoint →
            exec (.packetHop n) s = .next { s with net := dropAt s.net n ++ [{ p with ejected := true }], later := s.later ++ [.hostReturnRecord] })
          ∧ (s.leaves p = false → p.place = q → q ≠ endpoint → 24 ≤ dieAt q ∨ (s.tile q).enabled = false →
            exec (.packetHop n) s = .next (gone.routerReturn q p.msg))
          ∧ (s.leaves p = false → p.place = q → q ≠ endpoint → dieAt q < 24 → (s.tile q).enabled = true →
            ∃ t, exec (.packetHop n) s = .next t ∧ t.net = dropAt s.net n ++ [{ p with ejected := true }] ∧ ∀ x, t.tile x = s.tile x)
          ∧ (s.leaves p = false → p.place ≠ q → s.hop p.place q p.cls = none → exec (.packetHop n) s = .next (
            if s.fenced (dieAt q) = true then gone.killColour (s.addr p.place) (domOf p.msg.tag) (colOf p.msg.tag) 0x24
            else gone.routerReturn p.place p.msg)))

/-- R170, R434, R458, R459: an NI injects a message it holds, one under a reservation when that lets it; one for a DIE of 28 to 31, for a
module whose path is down, or without a route it returns, or discards when it is a REPLY message for a module whose path is down. -/
def Sys2Proof.Claims.Injects : Prop :=
  ∀ (s : State) (n : Nat) (p : Packet), s.net[n]? = some p → p.ejected = false → p.link = none → p.injected = false →
    s.behind n p = false → s.outranked p = false → (∀ f < 64, (s.fn f).queue = []) →
    let q := p.dst % 32768
    let m := p.dst / 32768
    let agent : Agent := .ni ((h1Of p.msg.h1).src % 32768)
    let size := 24 + 8 * (h0Of p.msg.h0).len
    let gone : State := { s with net := dropAt s.net n }
    let back : State := if 24 ≤ dieAt p.place then gone.routerReturn p.place p.msg else gone.returnOrDrop p.place p.msg
    let bad : Prop := 28 ≤ dieAt q ∨ s.routable p.place q = false
    let reserved : Prop := s.leaves p = true ∧ (h0Of p.msg.h0).drop = true ∧ (p.dropped = true ∨ (s.grantOf m agent).isSome = true)
    ((s.leaves p = true ∧ dieAt q < 28 ∧ s.modGone p.place m = false) ∨ (s.leaves p = false ∧ ¬ bad) →
        (¬ reserved → exec (.packetHop n) s = .next { s with net := s.net.set n { p with injected := true } })
        ∧ (reserved → s.granted m agent size = false → exec (.packetHop n) s = .next s)
        ∧ (reserved → s.granted m agent size = true →
          exec (.packetHop n) s = .next { s.useGrant m agent size with net := s.net.set n { p with injected := true, dropped := true } }))
      ∧ (s.leaves p = true → 28 ≤ dieAt q → exec (.packetHop n) s = .next back)
      ∧ (s.leaves p = true → dieAt q < 28 → s.pathUp m = false →
        exec (.packetHop n) s = .next (if p.reply = true then gone.undelivered p.msg else back))
      ∧ (s.leaves p = true → s.pathUp m = true → s.modGone p.place m = true → exec (.packetHop n) s = .next back)
      ∧ (s.leaves p = false → bad → exec (.packetHop n) s = .next back)

/-- R244, R245, R428, R432, R435: a target that comes up takes traffic again, its count and every copy up by one; a wrap to 0 clears the TLB
entries that name it.  One that fails takes none: a module whose path is down leaves the groups rooted here and the links, and when the link was
its port's own (which is free) so does every module by that port.  Only the routes to those may then change.
(The model's own choices and readings in it: logs 21, 52.) -/
def Sys2Proof.Claims.LinkCounts : Prop :=
  ∀ (s : State) (x : LinkTarget),
    (∃ t, exec (.linkUp x) s = .next t
        ∧ upCount t.linkCount x = (upCount s.linkCount x + 1) % 256 ∧ (∀ y, y ≠ x → upCount t.linkCount y = upCount s.linkCount y)
        ∧ x ∉ t.downTargets ∧ (∀ y, y ≠ x → (y ∈ t.downTargets ↔ y ∈ s.downTargets)) ∧ (∀ m, x = .remote m → m ∉ t.downPaths)
        ∧ (∀ n, n % 32768 ∈ s.tiles.map (·.1) → upCount (t.tile n).linkUp x = upCount t.linkCount x)
        ∧ (upCount s.linkCount x % 256 ≠ 255 → ∀ n, (t.tile n).tlb = (s.tile n).tlb)
        ∧ (upCount s.linkCount x % 256 = 255 → ∀ n, ∀ e ∈ (t.tile n).tlb, ∀ i < 16, ∀ g,
          s.memTarget (t.tile n).dom (s.entryAddr e (4096 * i)) = some g → g.link ≠ x)
        ∧ (∀ m, x ≠ .remote m → t.routePort m = s.routePort m)
        ∧ (∀ m, x = .remote m → (∀ p, t.routePort m = some p → p < 32) → t.pathUp m = (t.modSet && (t.routePort m).isSome)))
      ∧ (∃ t, exec (.linkFailure x) s = .next t ∧ x ∈ t.downTargets ∧ (∀ y ∈ s.downTargets, y ∈ t.downTargets)
        ∧ (∀ y ∈ t.downTargets, y = x ∨ y ∈ s.downTargets ∨ ∃ m o p, x = .remote m ∧ y = .remote o ∧ s.routePort m = some p ∧ (o, p) ∈ s.routes)
        ∧ t.linkCount = s.linkCount ∧ t.tiles = s.tiles)
      ∧ ∀ m, exec (.pathDown m) s = exec (.linkFailure (.remote m)) s ∧ ∃ t, exec (.pathDown m) s = .next t ∧ t.pathUp m = false
        ∧ (∀ g ∈ t.groups, g.root = s.modNo → m ∉ g.members) ∧ (∀ p ∈ t.net, p.injected = true → p.dst / 32768 ≠ m)
        ∧ (∀ o, o ≠ m → (∀ r ∈ s.routes, r.1 = o → s.routePort m ≠ some r.2) → t.routePort o = s.routePort o)
        ∧ (s.routePort m = none ∨ Config.performed s.fv = false → t.ports = s.ports ∧ ∀ y, y ≠ .remote m → (y ∈ t.downTargets ↔ y ∈ s.downTargets))
        ∧ ∀ p, s.routePort m = some p → Config.performed s.fv = true → p < 32 → (vget t.ports p Port.reset).up = false
          ∧ ∀ o, (o, p) ∈ s.routes → t.pathUp o = false ∧ .remote o ∈ t.downTargets ∧ (∀ g ∈ t.groups, g.root = s.modNo → o ∉ g.members)
            ∧ ∀ q ∈ t.net, q.injected = true → q.dst / 32768 ≠ o

/-- R385, R429 to R432, R436, R448: what crosses a link that is up: the oldest frame that came in and, unless its edge die is viral, the oldest
packet of its replay buffer or a colour kill of a federation, once, or asked for again; after 16 replays in succession it retrains.
A message that comes in, not dropped, is a packet at the port.  A port that was down and retrains brings its paths up.
(The model's own choices and readings in it: logs 21, 36.) -/
def Sys2Proof.Claims.LinkFrames : Prop :=
  ∀ (s : State) (port : Nat), port < 32 →
    let v (s : State) : Port := vget s.ports port Port.reset
    let f := (s.frames port)[Config.pick s.fv % (s.frames port).length]?
    (∀ good, f = none → exec (.forzenFrame port good) s = .next s)
      ∧ (f = none ↔ s.frames port = [])
      ∧ (∀ n, Frame.go n ∈ s.frames port → (s.die (dieAt (portTile port))).viral = false ∧ ∃ a p b, s.net = a ++ p :: b ∧ a.length = n
        ∧ p.link = some port ∧ ∀ q ∈ a, q.link ≠ some port)
      ∧ ((s.modSet = false ∨ (v s).up = false) → s.frames port = [])
      ∧ (s.modSet = true → (v s).up = true → ∀ i, Frame.come i ∈ s.frames port ↔ (v s).inbox.head? = some i)
      ∧ (∀ n, Frame.kill n ∈ s.frames port → (s.die (dieAt (portTile port))).viral = false ∧ ∃ k, s.outKills[n]? = some k
        ∧ s.routePort k.1 = some port)
      ∧ (f ≠ none → ∃ t, exec (.forzenFrame port false) s = .next t ∧ t.net = s.net ∧ t.outKills = s.outKills
        ∧ v t = (if 16 ≤ (v s).replays then { v s with up := true, replays := 0 } else { v s with replays := (v s).replays + 1 })
        ∧ t.life.retrains = if 16 ≤ (v s).replays then min (s.life.retrains + 1) (2 ^ 64 - 1) else s.life.retrains)
      ∧ (∀ n, f = some (.go n) → ∃ t, exec (.forzenFrame port true) s = .next t ∧ t.net = dropAt s.net n ∧ v t = { v s with replays := 0 })
      ∧ (∀ n, f = some (.kill n) → ∃ t, exec (.forzenFrame port true) s = .next t ∧ t.net = s.net ∧ t.outKills = dropAt s.outKills n)
      ∧ (∀ i, f = some (.come i) → ∃ t l, exec (.forzenFrame port true) s = .next t ∧ (v t).inbox = (v s).inbox.drop 1 ++ l
        ∧ ∀ m reply, i = .message m reply false → ∃ p, t.net = s.net ++ [p] ∧ p.msg = m.normal ∧ p.reply = reply ∧ p.place = portTile port
          ∧ p.injected = true ∧ p.ejected = false ∧ p.link = none ∧ l = [])
      ∧ ∀ x4, ∃ t, exec (.linkRetrain port x4) s = .next t ∧ v t = { v s with up := true, x4 := x4, replays := 0 } ∧ t.net = s.net
        ∧ t.life.retrains = min (s.life.retrains + 1) (2 ^ 64 - 1) ∧ ((v s).up = true → t.linkCount = s.linkCount ∧ t.downPaths = s.downPaths)
        ∧ ((v s).up = false → ∀ m, (m, port) ∈ s.routes → m ∉ t.downPaths ∧ (m ∈ s.downPaths → s.routes.countP (· == (m, port)) = 1 →
          upCount t.linkCount (.remote m) = (upCount s.linkCount (.remote m) + 1) % 256))

/-- R433, R434: a dropped packet stands at its source again, one of an engine with it, until a reservation it asks for lets it be sent; a grant
answers the oldest request; a reservation idle for 65,536 beats ends, unless something dropped waits for it.
(The model's own choices and readings in it: log 36.) -/
def Sys2Proof.Claims.Reservations : Prop :=
  (∀ (s : State) (n : Nat),
      let asked (m : Nat) (a : Agent) : List (Nat × Agent) :=
        if (s.grantOf m a).isSome = true ∨ (m, a) ∈ s.asks then s.asks else s.asks ++ [(m, a)]
      (∀ p, s.net[n]? = some p → p.link.isSome = true → (h0Of p.msg.h0).drop = true → p.dropped = false →
        let at' := (h1Of p.msg.h1).src % 32768
        let p' : Packet :=
          { p with link := none, dropped := true, injected := false, place := at', prev := at', cls := .source, wrapped := false }
        exec (.dropNotice n) s = .next { s with net := dropAt s.net n ++ [p'], asks := asked (p.dst / 32768) (.ni at') })
      ∧ (∀ p, s.net[n]? = some p → (p.link = none ∨ (h0Of p.msg.h0).drop = false ∨ p.dropped = true) → exec (.dropNotice n) s = .next s)
      ∧ (s.net[n]? = none → s.bulks[n - s.net.length]? = none → exec (.dropNotice n) s = .next s)
      ∧ (∀ q i m, s.net[n]? = none → s.bulks[n - s.net.length]? = some (.rma q i m) → ∃ t, exec (.dropNotice n) s = .next t
        ∧ t.asks = asked m (.rma q) ∧ ∀ o, (s.tile q).rmaDone[i]? = some o → (t.tile q).rmaDone[i]? = some { o with dropped := some m })
      ∧ ∀ e m, s.net[n]? = none → s.bulks[n - s.net.length]? = some (.engine e m) → ∃ t, exec (.dropNotice n) s = .next t
        ∧ t.asks = asked m (.engine e)
        ∧ ∀ p l, (s.engine e).slots = p :: l → (t.engine e).slots = { p with dropped := some m } :: l)
    ∧ ∀ (s : State) (m : Nat),
      (∀ start rate, (rate = 0 ∨ ∀ q ∈ s.asks, q.1 ≠ m) → exec (.reservationGrant m start rate) s = .next s)
      ∧ (∀ start rate a g b, rate ≠ 0 → s.asks = a ++ (m, g) :: b → (∀ q ∈ a, q.1 ≠ m) →
        exec (.reservationGrant m start rate) s = .next { s with
          asks := a ++ b
          grants := (⟨m, g, s.beat + 256 * start, rate, 0, s.beat + 256 * start⟩ : Grant) :: s.grants.filter fun q => !(q.mod == m && q.agent == g) })
      ∧ ∃ l, exec (.reservationIdle m) s = .next { s with grants := l }
        ∧ ∀ g, g ∈ l ↔ g ∈ s.grants ∧ (g.mod ≠ m ∨ s.beat < g.last + 65536 ∨ s.owes m g.agent = true)

/-- R435: a group's record and stores: the root performs one at every member, a member what the root sends it. -/
def Sys2Proof.Claims.Multicast : Prop :=
  (∀ (s : State) (g root dom base size : Nat) (members : List Nat),
      let good : Prop := 1 ≤ g ∧ g ≤ 255 ∧ base % 65536 = 0 ∧ size % 65536 = 0 ∧ members.length ≤ 512 ∧ root ∈ members
      (¬ good → exec (.multicastGroupRegistration g root dom base size members) s = .next s)
      ∧ (good → ∃ l, exec (.multicastGroupRegistration g root dom base size members) s = .next { s with groups := l }
        ∧ ∀ r, r ∈ l ↔ r = (⟨g, root, dom, base, size, members⟩ : Group) ∨ (r ∈ s.groups ∧ r.g ≠ g)))
    ∧ ∀ (s : State) (g off : Nat) (data : List Byte),
      ((∀ r ∈ s.groups, r.g ≠ g) → exec (.multicastStore g off data) s = .next s)
      ∧ ∀ a r b, s.groups = a ++ r :: b → (∀ q ∈ a, q.g ≠ g) → r.g = g →
        (r.size < off + data.length → exec (.multicastStore g off data) s = .next s)
        ∧ (off + data.length ≤ r.size → r.root = s.modNo →
          exec (.multicastStore g off data) s = .next (r.members.foldl (fun t m => t.writeTarget (t.paOf m (r.base + off)) data) s))
        ∧ (off + data.length ≤ r.size → r.root ≠ s.modNo → s.modNo ∈ r.members →
          exec (.multicastStore g off data) s = .next (s.writeTarget (r.base + off) data))
        ∧ (off + data.length ≤ r.size → r.root ≠ s.modNo → s.modNo ∉ r.members → exec (.multicastStore g off data) s = .next s)

/-- R372, R428, R436, R437: a federation's set; a kill from another module is carried out here and goes to no other; the loss of a module tells the
surviving tile of the lowest logical index with kind 3, in its saved image while the domain is switched out, and dissolves the domain's groups.
(The model's own choices and readings in it: logs 12, 49.) -/
def Sys2Proof.Claims.Federations : Prop :=
  ∀ (s : State) (dom : Nat),
    (∀ col cause start, ∃ t, exec (.federatedColourKill dom col cause start) s = .next t ∧ t.outKills = s.outKills
        ∧ t = { s.killColour start dom col cause with outKills := s.outKills })
      ∧ (∀ mods, ∃ t, exec (.federationRegistration dom mods) s = .next t ∧ (dom, mods) ∈ t.federations
        ∧ (∀ x ∈ t.federations, x.1 = dom → x = (dom, mods)) ∧ (∀ x, x.1 ≠ dom → (x ∈ t.federations ↔ x ∈ s.federations))
        ∧ ∀ d, s.domain dom = some d → t.domain dom = some { d with federation := mods })
      ∧ ∀ m, (s.domain dom = none → exec (.federationModuleLoss dom m) s = .next s)
        ∧ ∀ d, s.domain dom = some d → ∃ t, exec (.federationModuleLoss dom m) s = .next t
          ∧ t.groups = s.groups.filter (·.dom != dom)
          ∧ (let told (x : Tile) : Prop := ∃ a q, x.loopIn = a ++ [.msg q false] ∧ (h0Of q.h0).hid = d.trapHid % 4096
              ∧ q.pay = [3, BitVec.ofNat 64 (m * 32768), BitVec.ofNat 64 s.beat] ∧ domOf q.tag = dom % 4096
            (∀ n l, s.survivors d = n :: l → d.isOut = false → (s.tile n).replay = false → told (t.tile n))
              ∧ ∀ n l x, s.survivors d = n :: l → d.isOut = true → d.imageOf n = some x → x.replay = false →
                ∃ y, (t.domain dom).bind (·.imageOf n) = some y ∧ told y)

/-- R151, R170, R171, R244, R245, R423 to R437, R458, R459: the networks, the links and the fabric. -/
def Obligations.FabricSteps : Prop := TorusSteps ∧ Hops ∧ Injects ∧ LinkCounts ∧ LinkFrames ∧ Reservations ∧ Multicast ∧ Federations

/-! ### The host (R432, R438 to R443) -/

/-- R442, R443: a record of function `f`: with room in the ring and none lost before, the header at RBASE + 160 (RPROD mod 2^RSIZE) carries
PHASE, KIND and CODE, RPROD rises, and what the manual lists of the record stands after the header, its payload beyond LEN zero; without room
RLOST rises.
(The model's own choices and readings in it: logs 3 (the canonical form that a clause assumes), 22.) -/
def Sys2Proof.Claims.Records : Prop :=
  ∀ (s : State) (f kind code : Nat) (l : List (Option Word)), f < 64 →
    let h := s.fn f
    (h.room = true → h.lostSince = 0 → ∃ t, s.fnRecord f kind code l = t ∧ t.fn f = { h with rprod := (h.rprod + 1) % 2 ^ 32 }
        ∧ (∀ g, g ≠ f → t.fn g = s.fn g)
        ∧ (s.hostMem.wf = true → t.hostMem.le (h.rbase + 160 * (h.rprod % 2 ^ h.rsize)) 8
          = (if h.rprod / 2 ^ h.rsize % 2 = 0 then 1 else 0) + 256 * (kind % 256) + 65536 * (code % 65536)
        ∧ (∀ i < 19, ∀ w, l[i]? = some (some w) → t.hostMem.le (h.rbase + 160 * (h.rprod % 2 ^ h.rsize) + 8 + 8 * i) 8 = w.toNat)
        ∧ (∀ w0, l[0]? = some (some w0) → ∀ i < 19, 3 + (h0Of w0).len ≤ i → (∀ w, l[i]? ≠ some (some w)) →
          t.hostMem.le (h.rbase + 160 * (h.rprod % 2 ^ h.rsize) + 8 + 8 * i) 8 = 0))
        ∧ ∀ a, (a < h.rbase + 160 * (h.rprod % 2 ^ h.rsize) ∨ h.rbase + 160 * (h.rprod % 2 ^ h.rsize) + 160 ≤ a) → t.hostMem.get a = s.hostMem.get a)
      ∧ (h.room = false → s.fnRecord f kind code l
        = s.onFn f fun h => { h with rlost := min (h.rlost + 1) (2 ^ 32 - 1), lostSince := h.lostSince + 1 })
      ∧ (h.room = true → h.lostSince ≠ 0 → ∃ t, s.settleLost f = t ∧ (t.fn f).lostSince = 0 ∧ (t.fn f).rprod = (h.rprod + 1) % 2 ^ 32
        ∧ (s.hostMem.wf = true → t.hostMem.le (h.rbase + 160 * (h.rprod % 2 ^ h.rsize)) 8 = (if h.rprod / 2 ^ h.rsize % 2 = 0 then 1 else 0) + 256 * 7
        ∧ t.hostMem.le (h.rbase + 160 * (h.rprod % 2 ^ h.rsize) + 32) 8 = h.lostSince % 2 ^ 64))

/-- R441, R442: the first message that has arrived at the endpoint becomes a record of the function bound to its domain, KIND 1 when it is
one returned; with none bound it is discarded. -/
def Sys2Proof.Claims.Returns : Prop :=
  ∀ (s : State),
    ((∀ p ∈ s.net, p.place ≠ endpoint ∨ p.ejected = false) → exec .hostReturnRecord s = .next s)
      ∧ ∀ a p b, s.net = a ++ p :: b → (∀ q ∈ a, q.place ≠ endpoint ∨ q.ejected = false) → p.place = endpoint → p.ejected = true →
        ((∀ f < 64, (s.fn f).dom ≠ some (domOf p.msg.tag)) → exec .hostReturnRecord s = .next { s with net := a ++ b })
        ∧ ∀ f, f < 64 → (s.fn f).dom = some (domOf p.msg.tag) → (∀ g < f, (s.fn g).dom ≠ some (domOf p.msg.tag)) →
          exec .hostReturnRecord s = .next (({ s with net := a ++ b }).fnRecord f (if (h1Of p.msg.h1).returned then 1 else 0) 0 p.msg.words)

/-- R439, R443: RSIZE clears RPROD, RCONS and RLOST, and a LOST record follows when the ring has room for one; any write of RLOST clears it;
RBASE is a multiple of 4096; RCONS is written by the host; the read-only registers DOM, RPROD and LSEQ are not. -/
def Sys2Proof.Claims.HostRegisters : Prop :=
  ∀ (s : State) (f : Nat) (v : Word), f < 64 →
    (∃ t, exec (.rsizeWrite f v) s = .next t ∧ (t.fn f).rsize = bits v 4 0 ∧ (t.fn f).rcons = 0 ∧ (t.fn f).rlost = 0
        ∧ (∀ g, g ≠ f → t.fn g = s.fn g)
        ∧ ((s.fn f).lostSince = 0 ∨ bits v 4 0 < 4 ∨ 16 < bits v 4 0 → (t.fn f).rprod = 0 ∧ t.hostMem = s.hostMem)
        ∧ ((s.fn f).lostSince ≠ 0 → 4 ≤ bits v 4 0 → bits v 4 0 ≤ 16 → (t.fn f).rprod = 1 ∧ (t.fn f).lostSince = 0
          ∧ (s.hostMem.wf = true → t.hostMem.le (s.fn f).rbase 8 = 1 + 256 * 7)))
      ∧ exec (.rlostWrite f) s = .next (s.onFn f fun h => { h with rlost := 0 })
      ∧ (∃ t, exec (.hostRegisterWrite f 0x1008 v) s = .next t ∧ t.readHostReg f 0x1008 = v &&& ~~~0xFFF
        ∧ { t.fn f with rbase := (s.fn f).rbase } = s.fn f ∧ (∀ g, g ≠ f → t.fn g = s.fn g) ∧ t.hostMem = s.hostMem)
      ∧ (∃ t, exec (.hostRegisterWrite f 0x1018 v) s = .next t ∧ t.readHostReg f 0x1018 = v &&& 0xFFFFFFFF ∧ (∀ g, g ≠ f → t.fn g = s.fn g)
        ∧ ((s.fn f).lostSince = 0 → t = s.onFn f fun h => { h with rcons := bits v 31 0 }))
      ∧ ∀ off, off = 0x1000 ∨ off = 0x1020 ∨ off = 0x1038 → exec (.hostRegisterWrite f off v) s = .next s

/-- R440, R441: the checks of a launch record in their order, each with its CODE; a record that passes becomes the message that R440 forms,
with the next number of its function, behind those already queued; while 64 wait the host has no credit to write it, and it waits, too.
(The model's own choices and readings in it: logs 22, 50.) -/
def Sys2Proof.Claims.Launches : Prop :=
  ∀ (s : State) (f : Nat) (r : LaunchRec), f < 64 →
    let h := h0Of (r.dws.getD 0 0)
    let q := h.dst % 32768
    let error (code : Nat) : State := s.fnRecord f 5 code [some (r.dws.getD 0 0), none, some (r.dws.getD 1 0)]
    let bad2 : Prop := h.vn = true ∨ h.triple = true ∨ h.copy ≠ 0 ∨ h.drop = true ∨ bits (r.dws.getD 0 0) 9 0 ≠ 0 ∨ r.dws.getD 7 0 ≠ 0
    let bad4 : Prop := h.dst / 32768 ≠ s.modNo ∨ 24 ≤ dieAt q ∨ (s.tile q).enabled = false ∨ (s.tile q).withdrawn = true
      ∨ s.fenced (dieAt q) = true
    (64 ≤ (s.fn f).queue.length → exec (.launchRecord f r) s = .next { s with later := s.later ++ [.launchRecord f r] })
      ∧ ((s.fn f).queue.length < 64 →
        (r.whole = false → exec (.launchRecord f r) s = .next (error 1))
        ∧ (r.whole = true → bad2 → exec (.launchRecord f r) s = .next (error 2))
        ∧ (r.whole = true → ¬ bad2 → 5 < h.len → exec (.launchRecord f r) s = .next (error 3))
        ∧ (r.whole = true → ¬ bad2 → h.len ≤ 5 → bad4 → exec (.launchRecord f r) s = .next (error 4))
        ∧ (r.whole = true → ¬ bad2 → h.len ≤ 5 → ¬ bad4 → (s.fn f).dom = none → exec (.launchRecord f r) s = .next (error 5))
        ∧ ∀ dom, r.whole = true → ¬ bad2 → h.len ≤ 5 → ¬ bad4 → (s.fn f).dom = some dom →
          ∃ t m, exec (.launchRecord f r) s = .next t ∧ (t.fn f).lseq = ((s.fn f).lseq + 1) % 2 ^ 32 ∧ (t.fn f).seq = (s.fn f).seq + 1
            ∧ t.hostMem = s.hostMem ∧ (h0Of m.h0).dst = h.dst ∧ (h0Of m.h0).pri = h.pri ∧ (h0Of m.h0).cnt = h.cnt
            ∧ (∀ d, s.domain dom = some d → (h0Of m.h0).hid = if h.hid = 0 then d.launch % 4096 else h.hid)
            ∧ m.pay = (List.range h.len).map (fun i => r.dws.getD (2 + i) 0) ∧ domOf m.tag = dom % 4096 ∧ colOf m.tag = 0
            ∧ m.tag &&& 0xFFFFFFFFFF = r.dws.getD 1 0 &&& 0xFFFFFFFFFF ∧ (h1Of m.h1).src = s.addr endpoint % 2 ^ 24
            ∧ (h1Of m.h1).sctx = 0 ∧ (h1Of m.h1).returned = false ∧ (h1Of m.h1).seq = (s.fn f).seq.toNat
            ∧ (s.outFree endpoint false = false → (t.fn f).queue = (s.fn f).queue ++ [m] ∧ t.net = s.net)
            ∧ (s.outFree endpoint false = true → (∀ g < 64, (s.fn g).queue = []) → (t.fn f).queue = []
              ∧ ∃ p, t.net = s.net ++ [p] ∧ p.msg = m ∧ p.reply = false ∧ p.place = endpoint ∧ p.injected = false ∧ p.ejected = false))

/-- R439 to R442: where the steps of the host endpoint complete: a launch record that passes the checks of R440 while its queue has room; a
message that has come for a bound function whose ring takes it; and every write of RSIZE, RLOST, RBASE and RCONS. -/
def Sys2Proof.Claims.HostCompletes : Prop :=
  ∀ (s : State) (f : Nat), f < 64 →
    (∀ (r : LaunchRec) (dom : Nat), (s.fn f).queue.length < 64 → (s.fn f).dom = some dom → s.launchCode f r = none →
      ∃ t, exec (.launchRecord f r) s = .next t ∧ (t.fn f).lseq = ((s.fn f).lseq + 1) % 2 ^ 32 ∧ (t.fn f).seq = (s.fn f).seq + 1)
    ∧ (∀ a p b, s.net = a ++ p :: b → (∀ q ∈ a, q.place ≠ endpoint ∨ q.ejected = false) → p.place = endpoint → p.ejected = true →
      s.fnOf (domOf p.msg.tag) = some f → (s.fn f).room = true → (s.fn f).lostSince = 0 → ∃ t, exec .hostReturnRecord s = .next t
        ∧ t.net = a ++ b ∧ (t.fn f).rprod = ((s.fn f).rprod + 1) % 2 ^ 32 ∧ (t.fn f).rlost = (s.fn f).rlost)
    ∧ (∀ v : Word, ∃ t, exec (.rsizeWrite f v) s = .next t ∧ (t.fn f).rsize = v.toNat % 32 ∧ (t.fn f).rcons = 0 ∧ (t.fn f).rlost = 0)
    ∧ (∃ t, exec (.rlostWrite f) s = .next t ∧ (t.fn f).rlost = 0 ∧ (t.fn f).rprod = (s.fn f).rprod ∧ (t.fn f).rcons = (s.fn f).rcons)
    ∧ (∀ v : Word, ∃ t, exec (.hostRegisterWrite f 0x1008 v) s = .next t ∧ (t.fn f).rbase = v.toNat / 4096 * 4096
      ∧ (t.fn f).rcons = (s.fn f).rcons)
    ∧ ∀ v : Word, ∃ t, exec (.hostRegisterWrite f 0x1018 v) s = .next t ∧ (t.fn f).rcons = v.toNat % 2 ^ 32 ∧ (t.fn f).rbase = (s.fn f).rbase

/-- R438 to R443: the host endpoint. -/
def Obligations.HostSteps : Prop := Records ∧ Returns ∧ HostRegisters ∧ Launches ∧ HostCompletes

/-! ### The management interface and the loader (R79 to R87, R438, R446 to R450, R453, R455) -/

/-- R438, R439, R446 to R450, R453, R455: the commands of the mailbox, while die 24 runs its firmware; without that (R444) each waits.  Each
leaves its completion word after its data, 1 done and 2 refused (log 33).  A function bound to a domain has the window base that its driver gives,
which is free, and a DEBUG of that domain.
(The model's own choices and readings in it: logs 34, 44, 50.) -/
def Sys2Proof.Claims.Mailbox : Prop :=
  (∀ (s : State) (e : Event) (i : Instr), s.identity = none →
      (e, i) ∈ ([(.readConfig, .readConfig), (.readCert, .readCert), (.readLifetime, .readLifetime)] : List (Event × Instr))
        ∨ (∃ m, e = .setMod m ∧ i = .setMod m) ∨ (∃ f dom, e = .bindFn f dom ∧ i = .bindFn f dom)
        ∨ (∃ dom keys req, e = .setKeys dom keys req ∧ i = .setKeys dom keys req) ∨ (∃ n, e = .quote n ∧ i = .quote n)
        ∨ (∃ kw, e = .setCap kw ∧ i = .setCap kw) →
      exec i s = .next { s with later := s.later ++ [e] })
  ∧ ∀ (s : State) (key : BitVec 256), s.identity = some key →
    let done (u : State) : State := { u with mbox := [], mboxDone := 1 }
    let refused : State := { s with mbox := [], mboxDone := 2 }
    (∃ t, exec .readConfig s = .next t ∧ { t with mbox := s.mbox, mboxDone := s.mboxDone } = s ∧ t.mboxDone = 1 ∧ t.mbox.length = 4096
        ∧ (∀ n < 24576, (t.mbox.getD (0x20 + n / 8) 0).getLsbD (n % 8) = (s.tile n).enabled)
        ∧ (∀ d < 28, leNat ((t.mbox.drop 0x18).take 8) / 2 ^ d % 2 = if s.fenced d then 1 else 0)
        ∧ (s.modSet = false → leNat ((t.mbox.drop 0x10).take 8) = 0))
      ∧ (∀ m, exec (.setMod m) s = .next (if s.domains ≠ [] ∨ 511 < m then refused else done { s with modNo := m, modSet := true }))
      ∧ (∀ f, f < 64 → exec (.bindFn f none) s = .next (done (s.onFn f fun h => { h with dom := none, debug := 0 })))
      ∧ (∀ f d, f < 64 →
        let taken : Prop := (∃ e, (s.fn f).dom = some e ∧ e ≠ d) ∨ ∃ g, g < 64 ∧ g ≠ f ∧ (s.fn g).dom = some d
        (d = 0 ∨ 0xFFF ≤ d ∨ taken → exec (.bindFn f (some d)) s = .next refused)
          ∧ (d ≠ 0 → d < 0xFFF → ¬ taken → ∃ g, exec (.bindFn f (some d)) s = .next (done { s.onFn f fun h =>
              { h with dom := some d, winBase := (Config.openWord s.fv 0).toNat, debug := g } with fv := s.fv + 1 })
            ∧ (s.domain d = none → g = 0)
            ∧ ∀ x, s.domain d = some x → g = if x.gang = .stopping then 1 else if x.gang = .stopped then 2 else 0))
      ∧ (∀ dom keys req, (8 < keys.length → exec (.setKeys dom keys req) s = .next refused)
        ∧ (keys.length ≤ 8 → ∃ t, exec (.setKeys dom keys req) s = .next (done t) ∧ t.keysOf dom = (keys, req)
          ∧ (∀ e, e ≠ dom → t.keysOf e = s.keysOf e) ∧ { t with keys := s.keys } = s))
      ∧ (∀ nonce, ∃ t, exec (.quote nonce) s = .next t ∧ { t with mbox := s.mbox, mboxDone := s.mboxDone } = s ∧ t.mboxDone = 1
        ∧ t.mbox.length = 11488 ∧ leNat (t.mbox.take 8) = 0x41353134324B485A
        ∧ leNat ((t.mbox.drop 8).take 8) = 0xA1 + s.modNo % 2 ^ 16 * 2 ^ 48 ∧ leNat ((t.mbox.drop 16).take 32) = nonce.toNat
        ∧ (∀ d < 28, ∀ i < 4, (t.mbox.drop (48 + 128 * d + 32 * i)).take 32
          = if s.fenced d then List.replicate 32 0xFF else leBytes 32 ((s.die d).meas.getD i 0).toNat)
        ∧ t.mbox.drop 3632 = (List.range 7856).map fun i => (Config.quoteSignature key (t.mbox.take 3632)).getD i 0)
      ∧ exec .readCert s = .next { s with mbox := Config.certificate, mboxDone := 1 }
      ∧ exec .readLifetime s = .next { s with mbox := s.life.bytes, mboxDone := 1 }
      ∧ ∀ kw, exec (.setCap kw) s = .next (if 5 ≤ kw ∧ kw ≤ 15 then done { s with powerCap := kw } else refused)

/-- R83, R87, R442: the checks of a container in their order, each with its code; of one refused nothing is placed.  One that passes leaves its
domain present, every tile of it bound with its contexts free, and its initial messages in the networks in record order.
(The model's own choices and readings in it: logs 9, 11, 35, 47, 50.) -/
def Sys2Proof.Claims.Containers : Prop :=
  ∀ (s : State) (f dom : Nat) (z : Container),
    let refused (code : Nat) : Prop := exec (.containerLoad f dom z) s = .next (s.fnRecord f 2 code [])
    (z.magic ≠ 0x1A434F5A ∨ z.version ≠ 0x0100 → refused 1)
      ∧ (check1 z = true → check2 z = false → refused 2)
      ∧ (check1 z = true → check2 z = true → z.digest ≠ sha256 z.body → refused 3)
      ∧ (check1 z = true → check2 z = true → check3 z = true → s.check4 dom z = false → refused 4)
      ∧ (check1 z = true → check2 z = true → check3 z = true → s.check4 dom z = true →
        (check5 z = false → refused 5) ∧ (check5 z = true → check6 z = false → refused 6)
        ∧ (check5 z = true → check6 z = true → s.placeJob dom z = none → refused 7)
        ∧ ∀ s' d, check5 z = true → check6 z = true → s.placeJob dom z = some (s', d) →
          (relocsOk z (d.tiles.map s.addr) = false → refused 8)
          ∧ (relocsOk z (d.tiles.map s.addr) = true → ∃ t u, exec (.containerLoad f dom z) s = .next t ∧ t.domain dom = some u ∧ u.tiles = d.tiles
            ∧ u.tiles.length = z.width * z.height ∧ (∀ n ∈ u.tiles, s.tileFree n = true ∧ (t.tile n).dom = dom
              ∧ ∀ c < 5, (t.ctxAt n c).status = .free ∧ (t.ctxAt n c).rnsch = z.rnsch.getD 0x00140300 &&& 0x00000000001FFF7F)
            ∧ t.net.take s.net.length = s.net ∧ t.net.length = s.net.length + (initRecords z).length))

/-- R83 to R87, R438, R446 to R450, R453, R455: management and loading. -/
def Obligations.ManagementSteps : Prop := Mailbox ∧ Containers

/-! ### Statements of several parts -/

/-- R68 steps 1 to 4: words that name no instruction, and the checks of every instruction word. -/
def Obligations.ChecksInOrder : Prop := UnassignedWordsTrap ∧ PrefixAndBudget

/-- R366, R367, R371: taking a trap in L0 to L3, H and S. -/
def Obligations.TrapEntry : Prop := TrapRecord ∧ FirmwareTrap

/-- R11, R26, R30, R89, R115: registers, pending writes and retirement. -/
def Obligations.Registers : Prop := RegisterWrites ∧ Retirement ∧ PendingWrites

/-- R90, R91, R92: the results of the ALU, MULDIV and BIT instructions, their words, and the words of their majors that are none. -/
def Obligations.IntegerResults : Prop := AluResults ∧ MulDivResults ∧ BitResults ∧ IntegerWords

/-- R93, R101, and the results of R94 and R95: immediates, shifts, fields, constants and SEL, with their words. -/
def Obligations.Immediates : Prop := ImmediateResults ∧ ImmediateWords

/-- R97, R98, R99, and MRTN of R198: where control goes, the link, and the words. -/
def Obligations.ControlTransfers : Prop := BranchTargets ∧ JumpTargets ∧ TransferWords

/-- R18, R20, R102: the scratchpad loads, the checks they and the stores make, and their words. -/
def Obligations.ScratchpadLoads : Prop := LoadResults ∧ ScratchpadChecks ∧ LoadWords

/-- R105 to R111, R41, R42: the scalar floating-point instructions. -/
def Obligations.FloatResults : Prop := FloatArithmetic ∧ FloatComparisons ∧ OneDraw

/-- R117: the VFP instructions. -/
def Obligations.VectorFloats : Prop := VectorArithmetic ∧ VectorFunctions

/-- R121, R122: the block formats. -/
def Obligations.BlockFormats : Prop := BlockQuantize ∧ BlockDequantize

/-- R52, R123 to R125: reductions, scans and permutes. -/
def Obligations.VectorReductions : Prop := Reductions ∧ VectorPermutes

/-- R114, R126 to R128: predicates. -/
def Obligations.Predicates : Prop := PredicateResults ∧ CarryChains

/-- R56, R129 to R133: residues. -/
def Obligations.Residues : Prop := ResidueForward ∧ ResidueReverse

/-- R14, R395, R396: GETS and BRK. -/
def Obligations.SystemReads : Prop := SpecialReads ∧ Breakpoint

/-- R149, R187 to R190: messages sent. -/
def Obligations.Messages : Prop := MessagesSent ∧ MessageChecks ∧ MessageAccepted

/-- R193, R194: tags. -/
def Obligations.TagOperations : Prop := TagFields ∧ TagNew

/-- R162, R163, R195 to R207: neighbour queues, counters and joins. -/
def Obligations.PortsAndCounters : Prop := NeighbourPorts ∧ CounterOps ∧ CounterBumps ∧ BarrierJoins

/-- R265 to R268: global loads and stores. -/
def Obligations.GlobalAccesses : Prop := GlobalLoads ∧ GlobalStores ∧ GlobalChecks

/-- R270, R58, R59: atomics. -/
def Obligations.Atomics : Prop := AtomicAnswers ∧ AtomicEffects

/-- R289, R329 to R332, R339, R344, R348, R349: asynchronous instructions. -/
def Obligations.AsyncIssue : Prop := RmaIssue ∧ EngineIssue

/-- R233, R333 to R338: panes and slot tables. -/
def Obligations.PanesAndSlots : Prop := PaneOwnership ∧ SlotLoads

/-- R399 to R406: the PRIV instructions. -/
def Obligations.PrivilegedEffects : Prop := TrapReturn ∧ FirmwareEffects

end Statements
end

