-- ==== Sys2Proof/Laws/Cells.lean ====
section
/-! SUPPORT. Laws of the sparse bytes: read after write, the canonical form, and runs of bytes. -/

namespace Sys2Proof.Machine

/-- Every listed address of a list lies above a bound. -/
def Cells.above (n : Nat) (c : Cells) : Prop := ∀ p ∈ c, n < p.1

theorem Cells.wf_cons {k : Nat} {v : Byte} {t : Cells} :
    Cells.wf ((k, v) :: t) = true ↔ v ≠ 0 ∧ Cells.above k t ∧ Cells.wf t = true := by
  induction t generalizing k v with
  | nil => simp [Cells.wf, Cells.above]
  | cons p t ih =>
    obtain ⟨k', v'⟩ := p
    constructor
    · intro h
      simp only [Cells.wf, Bool.and_eq_true, bne_iff_ne, ne_eq, decide_eq_true_eq] at h
      obtain ⟨⟨hv, hk⟩, hw⟩ := h
      refine ⟨hv, ?_, hw⟩
      intro q hq
      obtain ⟨-, ha, -⟩ := ih.1 hw
      rcases List.mem_cons.1 hq with rfl | hq
      · exact hk
      · exact Nat.lt_trans hk (ha q hq)
    · rintro ⟨hv, ha, hw⟩
      simp only [Cells.wf, Bool.and_eq_true, bne_iff_ne, ne_eq, decide_eq_true_eq]
      exact ⟨⟨hv, ha _ (List.mem_cons_self ..)⟩, hw⟩

@[simp] theorem Cells.wf_nil : Cells.wf [] = true := rfl

theorem Cells.mem_set {c : Cells} {i : Nat} {b : Byte} {p : Nat × Byte} (h : p ∈ Cells.set c i b) : p ∈ c ∨ p = (i, b) := by
  induction c with
  | nil => simp only [Cells.set] at h; split at h <;> simp_all
  | cons q t ih =>
    obtain ⟨k, v⟩ := q
    simp only [Cells.set] at h
    split at h
    · split at h
      · exact .inl h
      · rcases List.mem_cons.1 h with rfl | h
        · exact .inr rfl
        · exact .inl h
    · split at h
      · split at h
        · exact .inl (List.mem_cons_of_mem _ h)
        · rcases List.mem_cons.1 h with rfl | h
          · exact .inr rfl
          · exact .inl (List.mem_cons_of_mem _ h)
      · rcases List.mem_cons.1 h with rfl | h
        · exact .inl (List.mem_cons_self ..)
        · rcases ih h with h | h
          · exact .inl (List.mem_cons_of_mem _ h)
          · exact .inr h

theorem Cells.above_set {c : Cells} {n i : Nat} {b : Byte} (h : Cells.above n c) (hi : n < i) : Cells.above n (Cells.set c i b) := by
  intro p hp
  rcases Cells.mem_set hp with h' | rfl
  · exact h p h'
  · exact hi

/-- A write keeps the canonical form. -/
theorem Cells.wf_set {c : Cells} (h : Cells.wf c = true) (i : Nat) (b : Byte) : Cells.wf (Cells.set c i b) = true := by
  induction c with
  | nil => simp only [Cells.set]; split <;> simp_all [Cells.wf]
  | cons q t ih =>
    obtain ⟨k, v⟩ := q
    obtain ⟨hv, ha, hw⟩ := Cells.wf_cons.1 h
    simp only [Cells.set]
    split
    · rename_i hik
      split
      · exact h
      · rename_i hb
        refine Cells.wf_cons.2 ⟨hb, ?_, h⟩
        intro p hp
        rcases List.mem_cons.1 hp with rfl | hp
        · exact hik
        · exact Nat.lt_trans hik (ha p hp)
    · rename_i hik
      split
      · rename_i heq
        subst heq
        split
        · exact hw
        · rename_i hb
          exact Cells.wf_cons.2 ⟨hb, ha, hw⟩
      · rename_i hne
        exact Cells.wf_cons.2 ⟨hv, Cells.above_set ha (by omega), ih hw⟩

theorem Cells.wf_setList {c : Cells} (h : Cells.wf c = true) (a : Nat) (bs : List Byte) : Cells.wf (Cells.setList c a bs) = true := by
  induction bs generalizing c a with
  | nil => exact h
  | cons b t ih => exact ih (Cells.wf_set h a b) (a + 1)

theorem Cells.wf_setLe {c : Cells} (h : Cells.wf c = true) (a n v : Nat) : Cells.wf (Cells.setLe c a n v) = true :=
  Cells.wf_setList h a _

theorem Cells.above_filter {c : Cells} {n : Nat} (f : Nat × Byte → Bool) (h : Cells.above n c) : Cells.above n (c.filter f) :=
  fun p hp => h p (List.mem_filter.1 hp).1

/-- Part of a canonical list is canonical. -/
theorem Cells.wf_filter {c : Cells} (h : Cells.wf c = true) (f : Nat × Byte → Bool) : Cells.wf (c.filter f) = true := by
  induction c with
  | nil => rfl
  | cons q t ih =>
    obtain ⟨k, v⟩ := q
    obtain ⟨hv, ha, hw⟩ := Cells.wf_cons.1 h
    simp only [List.filter_cons]
    split
    · exact Cells.wf_cons.2 ⟨hv, Cells.above_filter f ha, ih hw⟩
    · exact ih hw

/-- Two canonical lists, one wholly below the other, joined. -/
theorem Cells.wf_append {c d : Cells} (hc : Cells.wf c = true) (hd : Cells.wf d = true)
    (h : ∀ p ∈ c, ∀ q ∈ d, p.1 < q.1) : Cells.wf (c ++ d) = true := by
  induction c with
  | nil => exact hd
  | cons q t ih =>
    obtain ⟨k, v⟩ := q
    obtain ⟨hv, ha, hw⟩ := Cells.wf_cons.1 hc
    refine Cells.wf_cons.2 ⟨hv, ?_, ih hw fun p hp q hq => h p (List.mem_cons_of_mem _ hp) q hq⟩
    intro p hp
    rcases List.mem_append.1 hp with hp | hp
    · exact ha p hp
    · exact h _ (List.mem_cons_self ..) p hp

theorem Cells.get_of_above {c : Cells} {n i : Nat} (h : Cells.above n c) (hi : i ≤ n) : Cells.get c i = 0 := by
  induction c with
  | nil => rfl
  | cons q t ih =>
    obtain ⟨k, v⟩ := q
    have hk : n < k := h (k, v) (List.mem_cons_self ..)
    simp only [Cells.get]
    rw [if_neg (by omega)]
    exact ih fun p hp => h p (List.mem_cons_of_mem _ hp)

/-- A byte just written reads back. -/
theorem Cells.get_set_eq {c : Cells} (h : Cells.wf c = true) (i : Nat) (b : Byte) : Cells.get (Cells.set c i b) i = b := by
  induction c with
  | nil => simp only [Cells.set]; split <;> simp_all [Cells.get]
  | cons q t ih =>
    obtain ⟨k, v⟩ := q
    obtain ⟨-, ha, hw⟩ := Cells.wf_cons.1 h
    simp only [Cells.set]
    split
    · rename_i hik
      split
      · rename_i hb
        subst hb
        simp only [Cells.get]
        rw [if_neg (by omega)]
        exact Cells.get_of_above ha (by omega)
      · simp [Cells.get]
    · split
      · rename_i heq
        subst heq
        split
        · rename_i hb
          subst hb
          exact Cells.get_of_above ha (Nat.le_refl _)
        · simp [Cells.get]
      · rename_i hne
        simp only [Cells.get]
        rw [if_neg (by omega)]
        exact ih hw

/-- A write leaves every other byte alone. -/
theorem Cells.get_set_ne {c : Cells} {i j : Nat} (hij : j ≠ i) (b : Byte) : Cells.get (Cells.set c i b) j = Cells.get c j := by
  induction c with
  | nil => simp only [Cells.set]; split <;> simp [Cells.get]; intro h; omega
  | cons q t ih =>
    obtain ⟨k, v⟩ := q
    simp only [Cells.set]
    split
    · split
      · rfl
      · simp only [Cells.get]
        rw [if_neg (by omega)]
    · split
      · rename_i heq
        subst heq
        split
        · simp only [Cells.get]
          rw [if_neg (by omega)]
        · simp only [Cells.get]
          rw [if_neg (by omega), if_neg (by omega)]
      · simp only [Cells.get]
        rw [ih]

/-- Bytes outside a run written read as before. -/
theorem Cells.get_setList_out {c : Cells} (a : Nat) (bs : List Byte) {j : Nat} (h : j < a ∨ a + bs.length ≤ j) :
    Cells.get (Cells.setList c a bs) j = Cells.get c j := by
  induction bs generalizing c a with
  | nil => rfl
  | cons b t ih =>
    simp only [List.length_cons] at h
    rw [Cells.setList, ih (a + 1) (by omega), Cells.get_set_ne (by omega)]

/-- A run of bytes just written reads back. -/
theorem Cells.get_setList_in {c : Cells} (h : Cells.wf c = true) (a : Nat) (bs : List Byte) {i : Nat} (hi : i < bs.length) :
    Cells.get (Cells.setList c a bs) (a + i) = bs[i] := by
  induction bs generalizing c a i with
  | nil => simp at hi
  | cons b t ih =>
    rw [Cells.setList]
    cases i with
    | zero =>
      rw [Cells.get_setList_out (a + 1) t (by omega)]
      simpa using Cells.get_set_eq h a b
    | succ i =>
      have := ih (Cells.wf_set h a b) (a + 1) (i := i) (by simpa using hi)
      rw [show a + (i + 1) = a + 1 + i by omega, this]
      rfl

theorem Cells.getList_eq {c d : Cells} (a n : Nat) (h : ∀ i < n, Cells.get c (a + i) = Cells.get d (a + i)) :
    Cells.getList c a n = Cells.getList d a n := by
  induction n generalizing a with
  | zero => rfl
  | succ n ih =>
    simp only [Cells.getList]
    rw [show Cells.get c a = Cells.get d a by simpa using h 0 (by omega)]
    rw [ih (a + 1) fun i hi => by simpa [Nat.add_assoc, Nat.add_comm 1] using h (i + 1) (by omega)]

/-- A run of bytes read back whole. -/
theorem Cells.getList_setList {c : Cells} (h : Cells.wf c = true) (a : Nat) (bs : List Byte) :
    Cells.getList (Cells.setList c a bs) a bs.length = bs := by
  induction bs generalizing c a with
  | nil => rfl
  | cons b t ih =>
    simp only [Cells.setList, List.length_cons, Cells.getList]
    rw [ih (Cells.wf_set h a b) (a + 1), Cells.get_setList_out (a + 1) t (by omega), Cells.get_set_eq h]

theorem Cells.wf_setWhere (f : Nat → Bool) {c : Cells} (h : Cells.wf c = true) (a : Nat) (bs : List Byte) :
    Cells.wf (Cells.setWhere f c a bs) = true := by
  induction bs generalizing c a with
  | nil => exact h
  | cons b t ih =>
    simp only [Cells.setWhere]
    split
    · exact ih (Cells.wf_set h a b) (a + 1)
    · exact ih h (a + 1)

/-- Where the condition holds of every byte written, all are. -/
theorem Cells.setWhere_all (f : Nat → Bool) (c : Cells) (a : Nat) (bs : List Byte) (h : ∀ i < bs.length, f (a + i) = true) :
    Cells.setWhere f c a bs = Cells.setList c a bs := by
  induction bs generalizing c a with
  | nil => rfl
  | cons b t ih =>
    have h0 : f a = true := h 0 (by simp)
    simp only [Cells.setWhere, Cells.setList, h0, if_true]
    exact ih _ (a + 1) fun i hi => by
      have := h (i + 1) (by simpa using hi)
      rwa [show a + 1 + i = a + (i + 1) by omega]

/-- A byte of an address that does not satisfy the condition, or is not written, stays. -/
theorem Cells.get_setWhere_out (f : Nat → Bool) {c : Cells} (a : Nat) (bs : List Byte) {j : Nat}
    (h : f j = false ∨ j < a ∨ a + bs.length ≤ j) : Cells.get (Cells.setWhere f c a bs) j = Cells.get c j := by
  induction bs generalizing c a with
  | nil => rfl
  | cons b t ih =>
    simp only [Cells.setWhere]
    have h' : f j = false ∨ j < a + 1 ∨ a + 1 + t.length ≤ j := by
      simp only [List.length_cons] at h
      rcases h with h | h
      · exact .inl h
      · exact .inr (by omega)
    rw [ih (a + 1) h']
    split
    · rename_i hf
      refine Cells.get_set_ne ?_ b
      rintro rfl
      simp only [List.length_cons] at h
      rcases h with h | h | h
      · simp [hf] at h
      · omega
      · omega
    · rfl

@[simp] theorem leBytes_length (n v : Nat) : (leBytes n v).length = n := by
  induction n generalizing v with
  | zero => rfl
  | succ n ih => simp [leBytes, ih]

/-- The bytes of a number give its low bits back. -/
theorem leNat_leBytes (n v : Nat) : leNat (leBytes n v) = v % 256 ^ n := by
  induction n generalizing v with
  | zero => simp [leBytes, leNat, Nat.mod_one]
  | succ n ih =>
    have e : 256 ^ (n + 1) = 256 * 256 ^ n := by rw [Nat.pow_succ, Nat.mul_comm]
    rw [leBytes, leNat, ih, e, Nat.mod_mul, BitVec.toNat_ofNat]

/-- A number just written reads back. -/
theorem Cells.le_setLe {c : Cells} (h : Cells.wf c = true) (a n v : Nat) : Cells.le (Cells.setLe c a n v) a n = v % 256 ^ n := by
  have := Cells.getList_setList h a (leBytes n v)
  rw [leBytes_length] at this
  rw [Cells.le, Cells.setLe, this, leNat_leBytes]

end Sys2Proof.Machine
end

