-- ==== Sys2Proof/Laws/Decode.lean ====
section
/-! SUPPORT. Fields of words laid out from fields: what decoding reads back of an encoding (R62). -/

namespace Sys2Proof

@[simp] theorem fld_pack {n : Nat} (x : BitVec n) (h : n = 32) (lo len : Nat) : fld (pack x h) lo len = x.extractLsb' lo len := by
  subst h; rfl

/-- A field that lies wholly in the upper part. -/
theorem extract_cat_hi {n m : Nat} (x : BitVec n) (y : BitVec m) (lo len : Nat) (h : m ≤ lo) :
    (cat x y).extractLsb' lo len = x.extractLsb' (lo - m) len := BitVec.extractLsb'_append_eq_of_le h

/-- A field that lies wholly in the lower part. -/
theorem extract_cat_lo {n m : Nat} (x : BitVec n) (y : BitVec m) (lo len : Nat) (h : lo + len ≤ m) :
    (cat x y).extractLsb' lo len = y.extractLsb' lo len := BitVec.extractLsb'_append_eq_of_add_le h

/-- The four bytes of a word make the word again. -/
theorem wordOfBytes_byteAt (w : BitVec 32) :
    wordOfBytes (byteAt w.toNat 0) (byteAt w.toNat 1) (byteAt w.toNat 2) (byteAt w.toNat 3) = w := by
  have app {n m : Nat} (x : BitVec n) (y : BitVec m) : (x ++ y).toNat = x.toNat * 2 ^ m + y.toNat := by
    rw [BitVec.toNat_append, ← Nat.shiftLeft_add_eq_or_of_lt y.isLt, Nat.shiftLeft_eq]
  apply BitVec.eq_of_toNat_eq
  have h := w.isLt
  unfold wordOfBytes byteAt
  simp only [app (n := 8 + 8 + 8) (m := 8), app (n := 8 + 8) (m := 8), app (n := 8) (m := 8), BitVec.toNat_ofNat, Nat.shiftRight_eq_div_pow]
  omega

end Sys2Proof
end

