-- ==== Sys2Proof/Laws/Ops.lean ====
section
/-! SUPPORT. Laws of the shared operations: association lists and vectors, tiles and contexts, registers, and what an instruction
comes to. -/

namespace Sys2Proof.Machine

open Host (Outcome)

/-! ### Association lists and vectors -/

@[simp] theorem aget_aset_eq {α : Type} (d a : α) (l : List (Nat × α)) (i : Nat) : aget d (aset l i a) i = a := by
  induction l with
  | nil => simp [aset, aget]
  | cons p t ih =>
    obtain ⟨k, v⟩ := p
    simp only [aset]
    split
    · simp [aget]
    · split
      · simp [aget]
      · simp only [aget]; rw [if_neg (by omega)]; exact ih

theorem aget_aset_ne {α : Type} (d a : α) (l : List (Nat × α)) {i j : Nat} (h : j ≠ i) : aget d (aset l i a) j = aget d l j := by
  induction l with
  | nil => simp [aset, aget, Ne.symm h]
  | cons p t ih =>
    obtain ⟨k, v⟩ := p
    simp only [aset]
    split
    · simp [aget, Ne.symm h]
    · split
      · rename_i heq; subst heq; simp only [aget]; rw [if_neg (by omega), if_neg (by omega)]
      · simp only [aget]; rw [ih]

/-- An association list's members after a key is set: the new pair, or an old one. -/
theorem mem_aset {α : Type} {l : List (Nat × α)} {i : Nat} {a : α} {p : Nat × α} (h : p ∈ aset l i a) : p = (i, a) ∨ p ∈ l := by
  induction l with
  | nil => simp [aset] at h; exact .inl h
  | cons q t ih =>
    obtain ⟨k, v⟩ := q
    simp only [aset] at h
    split at h
    · rcases List.mem_cons.1 h with h | h
      · exact .inl h
      · exact .inr h
    · split at h
      · rcases List.mem_cons.1 h with h | h
        · exact .inl h
        · exact .inr (List.mem_cons_of_mem _ h)
      · rcases List.mem_cons.1 h with h | h
        · exact .inr (h ▸ List.mem_cons_self ..)
        · rcases ih h with h | h
          · exact .inl h
          · exact .inr (List.mem_cons_of_mem _ h)

theorem aget_mem {α : Type} (d : α) (l : List (Nat × α)) (i : Nat) : aget d l i = d ∨ ∃ k, (k, aget d l i) ∈ l := by
  induction l with
  | nil => exact .inl rfl
  | cons p t ih =>
    obtain ⟨k, v⟩ := p
    simp only [aget]
    split
    · exact .inr ⟨k, List.mem_cons_self ..⟩
    · rcases ih with h | ⟨k', h⟩
      · exact .inl h
      · exact .inr ⟨k', List.mem_cons_of_mem _ h⟩

theorem vget_eq {α : Type} {n : Nat} (v : Vector α n) (i : Nat) (d : α) (h : i < n) : vget v i d = v[i] := by
  simp [vget, List.getD, h]

theorem vget_out {α : Type} {n : Nat} (v : Vector α n) (i : Nat) (d : α) (h : n ≤ i) : vget v i d = d := by
  simp [vget, List.getD, h]

@[simp] theorem vget_vset_eq {α : Type} {n : Nat} (v : Vector α n) (i : Nat) (a d : α) (h : i < n) : vget (vset v i a) i d = a := by
  rw [vget_eq _ _ _ h]; simp [vset]

theorem vget_vset_ne {α : Type} {n : Nat} (v : Vector α n) {i j : Nat} (a d : α) (h : j ≠ i) : vget (vset v i a) j d = vget v j d := by
  by_cases hj : j < n
  · rw [vget_eq _ _ _ hj, vget_eq _ _ _ hj]; simp [vset, Ne.symm h]
  · rw [vget_out _ _ _ (by omega), vget_out _ _ _ (by omega)]

theorem vget_replicate {α : Type} (n i : Nat) (a d : α) (h : i < n) : vget (Vector.replicate n a) i d = a := by
  rw [vget_eq _ _ _ h]; simp

/-! ### Tiles and contexts -/

@[simp] theorem tile_setTile_eq (s : State) (t : Nat) (x : Tile) : (s.setTile t x).tile t = x := by
  simp [State.tile, State.setTile]

theorem tile_setTile_ne (s : State) {t u : Nat} (x : Tile) (h : u % 32768 ≠ t % 32768) : (s.setTile t x).tile u = s.tile u := by
  simp [State.tile, State.setTile, aget_aset_ne _ _ _ h]

@[simp] theorem tile_onTile_eq (s : State) (t : Nat) (f : Tile → Tile) : (s.onTile t f).tile t = f (s.tile t) := tile_setTile_eq ..

theorem tile_onTile_ne (s : State) {t u : Nat} (f : Tile → Tile) (h : u % 32768 ≠ t % 32768) : (s.onTile t f).tile u = s.tile u :=
  tile_setTile_ne s _ h

@[simp] theorem ctx_setCtx_eq (x : Tile) (c : Nat) (k : Ctx) (h : c < 6) : (x.setCtx c k).ctx c = k := by
  simp [Tile.ctx, Tile.setCtx, h]

theorem ctx_setCtx_ne (x : Tile) {c e : Nat} (k : Ctx) (h : e ≠ c) : (x.setCtx c k).ctx e = x.ctx e := by
  simp [Tile.ctx, Tile.setCtx, vget_vset_ne _ _ _ h]

@[simp] theorem ctx_onCtx_eq (x : Tile) (c : Nat) (f : Ctx → Ctx) (h : c < 6) : (x.onCtx c f).ctx c = f (x.ctx c) := by
  simp [Tile.onCtx, h]

theorem ctx_onCtx_ne (x : Tile) {c e : Nat} (f : Ctx → Ctx) (h : e ≠ c) : (x.onCtx c f).ctx e = x.ctx e := ctx_setCtx_ne x _ h

@[simp] theorem my_onMy (s : State) (f : Tile → Tile) : (s.onMy f).my = f s.my := by
  show (s.onTile s.cur f).tile s.cur = _; simp [State.my]

@[simp] theorem me_onMe (s : State) (f : Ctx → Ctx) : (s.onMe f).me = f s.me := by
  show ((s.onTile s.cur fun x => x.onCtx s.who f).tile s.cur).ctx s.who = _
  rw [tile_onTile_eq, ctx_onCtx_eq _ _ _ s.who.isLt]; rfl

@[simp] theorem my_onMe (s : State) (f : Ctx → Ctx) : (s.onMe f).my = s.my.onCtx s.who f := by
  show (s.onTile s.cur fun x => x.onCtx s.who f).tile s.cur = _; simp [State.my]

theorem me_eq (s : State) : s.me = s.my.ctx s.who := rfl

/-- A change of the issuing tile that leaves its contexts alone leaves the issuing context alone. -/
theorem me_onMy (s : State) (f : Tile → Tile) (h : ∀ x, (f x).ctxs = x.ctxs) : (s.onMy f).me = s.me := by
  show ((s.onMy f).my).ctx s.who = s.my.ctx s.who
  rw [my_onMy, Tile.ctx, h, Tile.ctx]

/-! ### Registers (R11) -/

theorem reg_lt (r : Reg) : r.toNat < 32 := r.isLt

theorem g_zero (k : Ctx) : k.g 0 = 0 := rfl

theorem k_zero (k : Ctx) : k.k 0 = BitVec.allOnes 32 := rfl

@[simp] theorem setG_zero (k : Ctx) (w : Word) : k.setG 0 w = k := rfl

@[simp] theorem setK_zero (k : Ctx) (w : Pred) : k.setK 0 w = k := rfl

theorem g_setG_eq (k : Ctx) {r : Reg} (w : Word) (h : r ≠ 0) : (k.setG r w).g r = w := by
  unfold Ctx.g Ctx.setG; rw [if_neg h, if_neg h]; simp [reg_lt]

theorem g_setG_ne (k : Ctx) {r q : Reg} (w : Word) (h : q ≠ r) : (k.setG r w).g q = k.g q := by
  have h' : q.toNat ≠ r.toNat := fun e => h (BitVec.eq_of_toNat_eq e)
  unfold Ctx.g Ctx.setG
  by_cases hr : r = 0
  · rw [if_pos hr]
  · rw [if_neg hr, vget_vset_ne _ _ _ h']

theorem v_setV_eq (k : Ctx) (r : Reg) (w : VReg) : (k.setV r w).v r = w := by simp [Ctx.v, Ctx.setV, reg_lt]

theorem v_setV_ne (k : Ctx) {r q : Reg} (w : VReg) (h : q ≠ r) : (k.setV r w).v q = k.v q := by
  have h' : q.toNat ≠ r.toNat := fun e => h (BitVec.eq_of_toNat_eq e)
  simp [Ctx.v, Ctx.setV, vget_vset_ne _ _ _ h']

theorem vx_setVx_eq (k : Ctx) (r : Reg) (w : Word) : (k.setVx r w).vx r = w := by simp [Ctx.vx, Ctx.setVx, reg_lt]

theorem vx_setVx_ne (k : Ctx) {r q : Reg} (w : Word) (h : q ≠ r) : (k.setVx r w).vx q = k.vx q := by
  have h' : q.toNat ≠ r.toNat := fun e => h (BitVec.eq_of_toNat_eq e)
  simp [Ctx.vx, Ctx.setVx, vget_vset_ne _ _ _ h']

theorem k_setK_eq (k : Ctx) {r : KReg} (w : Pred) (h : r ≠ 0) : (k.setK r w).k r = w := by
  unfold Ctx.k Ctx.setK; rw [if_neg h, if_neg h]; exact vget_vset_eq _ _ _ _ r.isLt

theorem k_setK_ne (k : Ctx) {r q : KReg} (w : Pred) (h : q ≠ r) : (k.setK r w).k q = k.k q := by
  have h' : q.toNat ≠ r.toNat := fun e => h (BitVec.eq_of_toNat_eq e)
  unfold Ctx.k Ctx.setK
  by_cases hr : r = 0
  · rw [if_pos hr]
  · rw [if_neg hr, vget_vset_ne _ _ _ h']

/-! ### What an instruction comes to (R26, R30, R68) -/

theorem instr_of_clear {p q : Bool} {body : State → Res} {s : State} (h : s.precheck p q = none) :
    instr p q body s = .next (s.conclude (body s)) := by simp [instr, h]

theorem instr_of_trap {p q : Bool} {body : State → Res} {s : State} {c : Cause} (h : s.precheck p q = some c) :
    instr p q body s = .next (s.trapMe c 0) := by simp [instr, h]

/-- An instruction whose effect is a state retires at the next address. -/
theorem plain_done {body : State → Res} {s s' : State} (h : s.precheck false false = none) (hb : body s = .done s') :
    plain body s = .next (s'.retire (s.pc + 4)) := by rw [plain, instr_of_clear h, hb]; rfl

theorem plain_jump {body : State → Res} {s s' : State} {pc : Word} (h : s.precheck false false = none) (hb : body s = .jump s' pc) :
    plain body s = .next (s'.retire pc) := by rw [plain, instr_of_clear h, hb]; rfl

theorem plain_trap {body : State → Res} {s : State} {c : Cause} {va : Word} (h : s.precheck false false = none)
    (hb : body s = .trap c va) : plain body s = .next (s.trapMe c va) := by rw [plain, instr_of_clear h, hb]; rfl

theorem plain_wait {body : State → Res} {s s' : State} (h : s.precheck false false = none) (hb : body s = .wait s') :
    plain body s = .next s' := by rw [plain, instr_of_clear h, hb]; rfl

theorem plain_ended {body : State → Res} {s s' : State} (h : s.precheck false false = none) (hb : body s = .ended s') :
    plain body s = .next s' := by rw [plain, instr_of_clear h, hb]; rfl

theorem prefixed_done {body : State → Res} {s s' : State} (h : s.precheck true false = none) (hb : body s = .done s') :
    prefixed body s = .next ((s'.onMe (·.setPend false)).retire (s.pc + 4)) := by
  rw [prefixed, instr_of_clear h]; simp only [hb]; rfl

theorem privileged_done {body : State → Res} {s s' : State} (h : s.precheck false true = none) (hb : body s = .done s') :
    privileged body s = .next (s'.retire (s.pc + 4)) := by rw [privileged, instr_of_clear h, hb]; rfl

/-- An instruction always answers a next state. -/
theorem instr_next (p q : Bool) (body : State → Res) (s : State) : ∃ t, instr p q body s = .next t := by
  unfold instr; split <;> exact ⟨_, rfl⟩

end Sys2Proof.Machine
end

