-- ==== Sys2Proof/Laws/PerInstr.lean ====
section
/-! SUPPORT. One lemma per instruction: the word the encoder lays out decodes to the instruction (R62 to R66). -/

namespace Sys2Proof.Laws

set_option Elab.async false
set_option linter.unusedSimpArgs false

/-- Decoding the encoding of an instruction gives the instruction back. -/
def Codec.Statement (i : Instr) : Prop := ∀ w, encode i = some w → decode w = .ok i

/-- The major of a word laid out from its fields. -/
theorem fld_major {k : Nat} (m : BitVec 6) (y : BitVec k) (h : 6 + k = 32) : fld (pack (cat m y) h) 26 6 = m := by
  obtain rfl : k = 26 := by omega
  rw [fld_pack, extract_cat_hi _ _ _ _ (Nat.le_refl _), Nat.sub_self, BitVec.extractLsb'_eq_self]

/-! The decoder of each major (R65). -/

theorem decode_of_decAlu (w : BitVec 32) (h : fld w 26 6 = 0x01#6) : decode w = decAlu w := by unfold decode; rw [h]; rfl
theorem decode_of_decMulDiv (w : BitVec 32) (h : fld w 26 6 = 0x02#6) : decode w = decMulDiv w := by unfold decode; rw [h]; rfl
theorem decode_of_decBit (w : BitVec 32) (h : fld w 26 6 = 0x03#6) : decode w = decBit w := by unfold decode; rw [h]; rfl
theorem decode_of_decAddi (w : BitVec 32) (h : fld w 26 6 = 0x04#6) : decode w = decAddi w := by unfold decode; rw [h]; rfl
theorem decode_of_decAndi (w : BitVec 32) (h : fld w 26 6 = 0x05#6) : decode w = decAndi w := by unfold decode; rw [h]; rfl
theorem decode_of_decOri (w : BitVec 32) (h : fld w 26 6 = 0x06#6) : decode w = decOri w := by unfold decode; rw [h]; rfl
theorem decode_of_decXori (w : BitVec 32) (h : fld w 26 6 = 0x07#6) : decode w = decXori w := by unfold decode; rw [h]; rfl
theorem decode_of_decSlti (w : BitVec 32) (h : fld w 26 6 = 0x08#6) : decode w = decSlti w := by unfold decode; rw [h]; rfl
theorem decode_of_decShiftField (w : BitVec 32) (h : fld w 26 6 = 0x0a#6) : decode w = decShiftField w := by unfold decode; rw [h]; rfl
theorem decode_of_decLi (w : BitVec 32) (h : fld w 26 6 = 0x0b#6) : decode w = decLi w := by unfold decode; rw [h]; rfl
theorem decode_of_decLim (w : BitVec 32) (h : fld w 26 6 = 0x0c#6) : decode w = decLim w := by unfold decode; rw [h]; rfl
theorem decode_of_decAddpc (w : BitVec 32) (h : fld w 26 6 = 0x0d#6) : decode w = decAddpc w := by unfold decode; rw [h]; rfl
theorem decode_of_decBeq (w : BitVec 32) (h : fld w 26 6 = 0x0e#6) : decode w = decBeq w := by unfold decode; rw [h]; rfl
theorem decode_of_decBne (w : BitVec 32) (h : fld w 26 6 = 0x0f#6) : decode w = decBne w := by unfold decode; rw [h]; rfl
theorem decode_of_decBlt (w : BitVec 32) (h : fld w 26 6 = 0x10#6) : decode w = decBlt w := by unfold decode; rw [h]; rfl
theorem decode_of_decBge (w : BitVec 32) (h : fld w 26 6 = 0x11#6) : decode w = decBge w := by unfold decode; rw [h]; rfl
theorem decode_of_decBltu (w : BitVec 32) (h : fld w 26 6 = 0x12#6) : decode w = decBltu w := by unfold decode; rw [h]; rfl
theorem decode_of_decBgeu (w : BitVec 32) (h : fld w 26 6 = 0x13#6) : decode w = decBgeu w := by unfold decode; rw [h]; rfl
theorem decode_of_decJ (w : BitVec 32) (h : fld w 26 6 = 0x14#6) : decode w = decJ w := by unfold decode; rw [h]; rfl
theorem decode_of_decCall (w : BitVec 32) (h : fld w 26 6 = 0x15#6) : decode w = decCall w := by unfold decode; rw [h]; rfl
theorem decode_of_decJumpR (w : BitVec 32) (h : fld w 26 6 = 0x16#6) : decode w = decJumpR w := by unfold decode; rw [h]; rfl
theorem decode_of_decLd (w : BitVec 32) (h : fld w 26 6 = 0x17#6) : decode w = decLd w := by unfold decode; rw [h]; rfl
theorem decode_of_decSt (w : BitVec 32) (h : fld w 26 6 = 0x18#6) : decode w = decSt w := by unfold decode; rw [h]; rfl
theorem decode_of_decGld (w : BitVec 32) (h : fld w 26 6 = 0x19#6) : decode w = decGld w := by unfold decode; rw [h]; rfl
theorem decode_of_decGst (w : BitVec 32) (h : fld w 26 6 = 0x1a#6) : decode w = decGst w := by unfold decode; rw [h]; rfl
theorem decode_of_decSys (w : BitVec 32) (h : fld w 26 6 = 0x1c#6) : decode w = decSys w := by unfold decode; rw [h]; rfl
theorem decode_of_decSel (w : BitVec 32) (h : fld w 26 6 = 0x1d#6) : decode w = decSel w := by unfold decode; rw [h]; rfl
theorem decode_of_decFp (w : BitVec 32) (h : fld w 26 6 = 0x1e#6) : decode w = decFp w := by unfold decode; rw [h]; rfl
theorem decode_of_decFma (w : BitVec 32) (h : fld w 26 6 = 0x1f#6) : decode w = decFma w := by unfold decode; rw [h]; rfl
theorem decode_of_decValu (w : BitVec 32) (h : fld w 26 6 = 0x20#6) : decode w = decValu w := by unfold decode; rw [h]; rfl
theorem decode_of_decVfp (w : BitVec 32) (h : fld w 26 6 = 0x21#6) : decode w = decVfp w := by unfold decode; rw [h]; rfl
theorem decode_of_decVfma (w : BitVec 32) (h : fld w 26 6 = 0x22#6) : decode w = decVfma w := by unfold decode; rw [h]; rfl
theorem decode_of_decVcvt (w : BitVec 32) (h : fld w 26 6 = 0x23#6) : decode w = decVcvt w := by unfold decode; rw [h]; rfl
theorem decode_of_decVred (w : BitVec 32) (h : fld w 26 6 = 0x24#6) : decode w = decVred w := by unfold decode; rw [h]; rfl
theorem decode_of_decVperm (w : BitVec 32) (h : fld w 26 6 = 0x25#6) : decode w = decVperm w := by unfold decode; rw [h]; rfl
theorem decode_of_decVmask (w : BitVec 32) (h : fld w 26 6 = 0x26#6) : decode w = decVmask w := by unfold decode; rw [h]; rfl
theorem decode_of_decVwide (w : BitVec 32) (h : fld w 26 6 = 0x27#6) : decode w = decVwide w := by unfold decode; rw [h]; rfl
theorem decode_of_decVmem (w : BitVec 32) (h : fld w 26 6 = 0x28#6) : decode w = decVmem w := by unfold decode; rw [h]; rfl
theorem decode_of_decMsg (w : BitVec 32) (h : fld w 26 6 = 0x29#6) : decode w = decMsg w := by unfold decode; rw [h]; rfl
theorem decode_of_decTag (w : BitVec 32) (h : fld w 26 6 = 0x2a#6) : decode w = decTag w := by unfold decode; rw [h]; rfl
theorem decode_of_decQue (w : BitVec 32) (h : fld w 26 6 = 0x2b#6) : decode w = decQue w := by unfold decode; rw [h]; rfl
theorem decode_of_decMem (w : BitVec 32) (h : fld w 26 6 = 0x2d#6) : decode w = decMem w := by unfold decode; rw [h]; rfl
theorem decode_of_decRma (w : BitVec 32) (h : fld w 26 6 = 0x2e#6) : decode w = decRma w := by unfold decode; rw [h]; rfl
theorem decode_of_decPaneOp (w : BitVec 32) (h : fld w 26 6 = 0x2f#6) : decode w = decPaneOp w := by unfold decode; rw [h]; rfl
theorem decode_of_decMm (w : BitVec 32) (h : fld w 26 6 = 0x30#6) : decode w = decMm w := by unfold decode; rw [h]; rfl
theorem decode_of_decSe (w : BitVec 32) (h : fld w 26 6 = 0x31#6) : decode w = decSe w := by unfold decode; rw [h]; rfl
theorem decode_of_decSacOp (w : BitVec 32) (h : fld w 26 6 = 0x32#6) : decode w = decSacOp w := by unfold decode; rw [h]; rfl
theorem decode_of_decBt (w : BitVec 32) (h : fld w 26 6 = 0x33#6) : decode w = decBt w := by unfold decode; rw [h]; rfl
theorem decode_of_decBar (w : BitVec 32) (h : fld w 26 6 = 0x34#6) : decode w = decBar w := by unfold decode; rw [h]; rfl
theorem decode_of_decPriv (w : BitVec 32) (h : fld w 26 6 = 0x35#6) : decode w = decPriv w := by unfold decode; rw [h]; rfl
theorem decode_of_decFmtx (w : BitVec 32) (h : fld w 26 6 = 0x36#6) : decode w = decFmtx w := by unfold decode; rw [h]; rfl

/-- What proves one: the encoding decodes. -/
theorem Codec.of {i : Instr} {v : BitVec 32} (h : encode i = some v) (hd : decode v = .ok i) : Codec.Statement i := by
  intro w hw
  rw [h] at hw
  cases hw
  exact hd

/-- A step of another agent has no encoding. -/
theorem Codec.none {i : Instr} (h : encode i = none) : Codec.Statement i := by
  intro w hw
  rw [h] at hw
  cases hw

theorem Codec.add (d : Reg) (a : Reg) (b : Reg) : Codec.Statement (.add d a b) := by
  exact Codec.of rfl ((decode_of_decAlu _ (fld_major _ _ _)).trans (by simp only [decAlu, rsv, fld_pack, extract_cat_hi, extract_cat_lo, BitVec.extractLsb'_eq_self, Nat.reduceLeDiff, Nat.reduceSub, Nat.reduceAdd, Nat.le_refl, Nat.sub_self, BitVec.reduceExtractLsb', BitVec.reduceBEq, beq_self_eq_true, if_true, if_false, Bool.and_self, Bool.false_eq_true, BitVec.ofBool_true, BitVec.ofBool_false]))
theorem Codec.sub (d : Reg) (a : Reg) (b : Reg) : Codec.Statement (.sub d a b) := by
  exact Codec.of rfl ((decode_of_decAlu _ (fld_major _ _ _)).trans (by simp only [decAlu, rsv, fld_pack, extract_cat_hi, extract_cat_lo, BitVec.extractLsb'_eq_self, Nat.reduceLeDiff, Nat.reduceSub, Nat.reduceAdd, Nat.le_refl, Nat.sub_self, BitVec.reduceExtractLsb', BitVec.reduceBEq, beq_self_eq_true, if_true, if_false, Bool.and_self, Bool.false_eq_true, BitVec.ofBool_true, BitVec.ofBool_false]))
theorem Codec.and (d : Reg) (a : Reg) (b : Reg) : Codec.Statement (.and d a b) := by
  exact Codec.of rfl ((decode_of_decAlu _ (fld_major _ _ _)).trans (by simp only [decAlu, rsv, fld_pack, extract_cat_hi, extract_cat_lo, BitVec.extractLsb'_eq_self, Nat.reduceLeDiff, Nat.reduceSub, Nat.reduceAdd, Nat.le_refl, Nat.sub_self, BitVec.reduceExtractLsb', BitVec.reduceBEq, beq_self_eq_true, if_true, if_false, Bool.and_self, Bool.false_eq_true, BitVec.ofBool_true, BitVec.ofBool_false]))
theorem Codec.or (d : Reg) (a : Reg) (b : Reg) : Codec.Statement (.or d a b) := by
  exact Codec.of rfl ((decode_of_decAlu _ (fld_major _ _ _)).trans (by simp only [decAlu, rsv, fld_pack, extract_cat_hi, extract_cat_lo, BitVec.extractLsb'_eq_self, Nat.reduceLeDiff, Nat.reduceSub, Nat.reduceAdd, Nat.le_refl, Nat.sub_self, BitVec.reduceExtractLsb', BitVec.reduceBEq, beq_self_eq_true, if_true, if_false, Bool.and_self, Bool.false_eq_true, BitVec.ofBool_true, BitVec.ofBool_false]))
theorem Codec.xor (d : Reg) (a : Reg) (b : Reg) : Codec.Statement (.xor d a b) := by
  exact Codec.of rfl ((decode_of_decAlu _ (fld_major _ _ _)).trans (by simp only [decAlu, rsv, fld_pack, extract_cat_hi, extract_cat_lo, BitVec.extractLsb'_eq_self, Nat.reduceLeDiff, Nat.reduceSub, Nat.reduceAdd, Nat.le_refl, Nat.sub_self, BitVec.reduceExtractLsb', BitVec.reduceBEq, beq_self_eq_true, if_true, if_false, Bool.and_self, Bool.false_eq_true, BitVec.ofBool_true, BitVec.ofBool_false]))
theorem Codec.sll (d : Reg) (a : Reg) (b : Reg) : Codec.Statement (.sll d a b) := by
  exact Codec.of rfl ((decode_of_decAlu _ (fld_major _ _ _)).trans (by simp only [decAlu, rsv, fld_pack, extract_cat_hi, extract_cat_lo, BitVec.extractLsb'_eq_self, Nat.reduceLeDiff, Nat.reduceSub, Nat.reduceAdd, Nat.le_refl, Nat.sub_self, BitVec.reduceExtractLsb', BitVec.reduceBEq, beq_self_eq_true, if_true, if_false, Bool.and_self, Bool.false_eq_true, BitVec.ofBool_true, BitVec.ofBool_false]))
theorem Codec.srl (d : Reg) (a : Reg) (b : Reg) : Codec.Statement (.srl d a b) := by
  exact Codec.of rfl ((decode_of_decAlu _ (fld_major _ _ _)).trans (by simp only [decAlu, rsv, fld_pack, extract_cat_hi, extract_cat_lo, BitVec.extractLsb'_eq_self, Nat.reduceLeDiff, Nat.reduceSub, Nat.reduceAdd, Nat.le_refl, Nat.sub_self, BitVec.reduceExtractLsb', BitVec.reduceBEq, beq_self_eq_true, if_true, if_false, Bool.and_self, Bool.false_eq_true, BitVec.ofBool_true, BitVec.ofBool_false]))
theorem Codec.sra (d : Reg) (a : Reg) (b : Reg) : Codec.Statement (.sra d a b) := by
  exact Codec.of rfl ((decode_of_decAlu _ (fld_major _ _ _)).trans (by simp only [decAlu, rsv, fld_pack, extract_cat_hi, extract_cat_lo, BitVec.extractLsb'_eq_self, Nat.reduceLeDiff, Nat.reduceSub, Nat.reduceAdd, Nat.le_refl, Nat.sub_self, BitVec.reduceExtractLsb', BitVec.reduceBEq, beq_self_eq_true, if_true, if_false, Bool.and_self, Bool.false_eq_true, BitVec.ofBool_true, BitVec.ofBool_false]))
theorem Codec.slt (d : Reg) (a : Reg) (b : Reg) : Codec.Statement (.slt d a b) := by
  exact Codec.of rfl ((decode_of_decAlu _ (fld_major _ _ _)).trans (by simp only [decAlu, rsv, fld_pack, extract_cat_hi, extract_cat_lo, BitVec.extractLsb'_eq_self, Nat.reduceLeDiff, Nat.reduceSub, Nat.reduceAdd, Nat.le_refl, Nat.sub_self, BitVec.reduceExtractLsb', BitVec.reduceBEq, beq_self_eq_true, if_true, if_false, Bool.and_self, Bool.false_eq_true, BitVec.ofBool_true, BitVec.ofBool_false]))
theorem Codec.sltu (d : Reg) (a : Reg) (b : Reg) : Codec.Statement (.sltu d a b) := by
  exact Codec.of rfl ((decode_of_decAlu _ (fld_major _ _ _)).trans (by simp only [decAlu, rsv, fld_pack, extract_cat_hi, extract_cat_lo, BitVec.extractLsb'_eq_self, Nat.reduceLeDiff, Nat.reduceSub, Nat.reduceAdd, Nat.le_refl, Nat.sub_self, BitVec.reduceExtractLsb', BitVec.reduceBEq, beq_self_eq_true, if_true, if_false, Bool.and_self, Bool.false_eq_true, BitVec.ofBool_true, BitVec.ofBool_false]))
theorem Codec.min (d : Reg) (a : Reg) (b : Reg) : Codec.Statement (.min d a b) := by
  exact Codec.of rfl ((decode_of_decAlu _ (fld_major _ _ _)).trans (by simp only [decAlu, rsv, fld_pack, extract_cat_hi, extract_cat_lo, BitVec.extractLsb'_eq_self, Nat.reduceLeDiff, Nat.reduceSub, Nat.reduceAdd, Nat.le_refl, Nat.sub_self, BitVec.reduceExtractLsb', BitVec.reduceBEq, beq_self_eq_true, if_true, if_false, Bool.and_self, Bool.false_eq_true, BitVec.ofBool_true, BitVec.ofBool_false]))
theorem Codec.max (d : Reg) (a : Reg) (b : Reg) : Codec.Statement (.max d a b) := by
  exact Codec.of rfl ((decode_of_decAlu _ (fld_major _ _ _)).trans (by simp only [decAlu, rsv, fld_pack, extract_cat_hi, extract_cat_lo, BitVec.extractLsb'_eq_self, Nat.reduceLeDiff, Nat.reduceSub, Nat.reduceAdd, Nat.le_refl, Nat.sub_self, BitVec.reduceExtractLsb', BitVec.reduceBEq, beq_self_eq_true, if_true, if_false, Bool.and_self, Bool.false_eq_true, BitVec.ofBool_true, BitVec.ofBool_false]))
theorem Codec.addw (d : Reg) (a : Reg) (b : Reg) : Codec.Statement (.addw d a b) := by
  exact Codec.of rfl ((decode_of_decAlu _ (fld_major _ _ _)).trans (by simp only [decAlu, rsv, fld_pack, extract_cat_hi, extract_cat_lo, BitVec.extractLsb'_eq_self, Nat.reduceLeDiff, Nat.reduceSub, Nat.reduceAdd, Nat.le_refl, Nat.sub_self, BitVec.reduceExtractLsb', BitVec.reduceBEq, beq_self_eq_true, if_true, if_false, Bool.and_self, Bool.false_eq_true, BitVec.ofBool_true, BitVec.ofBool_false]))
theorem Codec.subw (d : Reg) (a : Reg) (b : Reg) : Codec.Statement (.subw d a b) := by
  exact Codec.of rfl ((decode_of_decAlu _ (fld_major _ _ _)).trans (by simp only [decAlu, rsv, fld_pack, extract_cat_hi, extract_cat_lo, BitVec.extractLsb'_eq_self, Nat.reduceLeDiff, Nat.reduceSub, Nat.reduceAdd, Nat.le_refl, Nat.sub_self, BitVec.reduceExtractLsb', BitVec.reduceBEq, beq_self_eq_true, if_true, if_false, Bool.and_self, Bool.false_eq_true, BitVec.ofBool_true, BitVec.ofBool_false]))
theorem Codec.mul (d : Reg) (a : Reg) (b : Reg) : Codec.Statement (.mul d a b) := by
  exact Codec.of rfl ((decode_of_decMulDiv _ (fld_major _ _ _)).trans (by simp only [decMulDiv, rsv, fld_pack, extract_cat_hi, extract_cat_lo, BitVec.extractLsb'_eq_self, Nat.reduceLeDiff, Nat.reduceSub, Nat.reduceAdd, Nat.le_refl, Nat.sub_self, BitVec.reduceExtractLsb', BitVec.reduceBEq, beq_self_eq_true, if_true, if_false, Bool.and_self, Bool.false_eq_true, BitVec.ofBool_true, BitVec.ofBool_false]))
theorem Codec.mulh (d : Reg) (a : Reg) (b : Reg) : Codec.Statement (.mulh d a b) := by
  exact Codec.of rfl ((decode_of_decMulDiv _ (fld_major _ _ _)).trans (by simp only [decMulDiv, rsv, fld_pack, extract_cat_hi, extract_cat_lo, BitVec.extractLsb'_eq_self, Nat.reduceLeDiff, Nat.reduceSub, Nat.reduceAdd, Nat.le_refl, Nat.sub_self, BitVec.reduceExtractLsb', BitVec.reduceBEq, beq_self_eq_true, if_true, if_false, Bool.and_self, Bool.false_eq_true, BitVec.ofBool_true, BitVec.ofBool_false]))
theorem Codec.mulhu (d : Reg) (a : Reg) (b : Reg) : Codec.Statement (.mulhu d a b) := by
  exact Codec.of rfl ((decode_of_decMulDiv _ (fld_major _ _ _)).trans (by simp only [decMulDiv, rsv, fld_pack, extract_cat_hi, extract_cat_lo, BitVec.extractLsb'_eq_self, Nat.reduceLeDiff, Nat.reduceSub, Nat.reduceAdd, Nat.le_refl, Nat.sub_self, BitVec.reduceExtractLsb', BitVec.reduceBEq, beq_self_eq_true, if_true, if_false, Bool.and_self, Bool.false_eq_true, BitVec.ofBool_true, BitVec.ofBool_false]))
theorem Codec.div (d : Reg) (a : Reg) (b : Reg) : Codec.Statement (.div d a b) := by
  exact Codec.of rfl ((decode_of_decMulDiv _ (fld_major _ _ _)).trans (by simp only [decMulDiv, rsv, fld_pack, extract_cat_hi, extract_cat_lo, BitVec.extractLsb'_eq_self, Nat.reduceLeDiff, Nat.reduceSub, Nat.reduceAdd, Nat.le_refl, Nat.sub_self, BitVec.reduceExtractLsb', BitVec.reduceBEq, beq_self_eq_true, if_true, if_false, Bool.and_self, Bool.false_eq_true, BitVec.ofBool_true, BitVec.ofBool_false]))
theorem Codec.divu (d : Reg) (a : Reg) (b : Reg) : Codec.Statement (.divu d a b) := by
  exact Codec.of rfl ((decode_of_decMulDiv _ (fld_major _ _ _)).trans (by simp only [decMulDiv, rsv, fld_pack, extract_cat_hi, extract_cat_lo, BitVec.extractLsb'_eq_self, Nat.reduceLeDiff, Nat.reduceSub, Nat.reduceAdd, Nat.le_refl, Nat.sub_self, BitVec.reduceExtractLsb', BitVec.reduceBEq, beq_self_eq_true, if_true, if_false, Bool.and_self, Bool.false_eq_true, BitVec.ofBool_true, BitVec.ofBool_false]))
theorem Codec.rem (d : Reg) (a : Reg) (b : Reg) : Codec.Statement (.rem d a b) := by
  exact Codec.of rfl ((decode_of_decMulDiv _ (fld_major _ _ _)).trans (by simp only [decMulDiv, rsv, fld_pack, extract_cat_hi, extract_cat_lo, BitVec.extractLsb'_eq_self, Nat.reduceLeDiff, Nat.reduceSub, Nat.reduceAdd, Nat.le_refl, Nat.sub_self, BitVec.reduceExtractLsb', BitVec.reduceBEq, beq_self_eq_true, if_true, if_false, Bool.and_self, Bool.false_eq_true, BitVec.ofBool_true, BitVec.ofBool_false]))
theorem Codec.remu (d : Reg) (a : Reg) (b : Reg) : Codec.Statement (.remu d a b) := by
  exact Codec.of rfl ((decode_of_decMulDiv _ (fld_major _ _ _)).trans (by simp only [decMulDiv, rsv, fld_pack, extract_cat_hi, extract_cat_lo, BitVec.extractLsb'_eq_self, Nat.reduceLeDiff, Nat.reduceSub, Nat.reduceAdd, Nat.le_refl, Nat.sub_self, BitVec.reduceExtractLsb', BitVec.reduceBEq, beq_self_eq_true, if_true, if_false, Bool.and_self, Bool.false_eq_true, BitVec.ofBool_true, BitVec.ofBool_false]))
theorem Codec.clz (d : Reg) (a : Reg) : Codec.Statement (.clz d a) := by
  exact Codec.of rfl ((decode_of_decBit _ (fld_major _ _ _)).trans (by simp only [decBit, rsv, fld_pack, extract_cat_hi, extract_cat_lo, BitVec.extractLsb'_eq_self, Nat.reduceLeDiff, Nat.reduceSub, Nat.reduceAdd, Nat.le_refl, Nat.sub_self, BitVec.reduceExtractLsb', BitVec.reduceBEq, beq_self_eq_true, if_true, if_false, Bool.and_self, Bool.false_eq_true, BitVec.ofBool_true, BitVec.ofBool_false]))
theorem Codec.ctz (d : Reg) (a : Reg) : Codec.Statement (.ctz d a) := by
  exact Codec.of rfl ((decode_of_decBit _ (fld_major _ _ _)).trans (by simp only [decBit, rsv, fld_pack, extract_cat_hi, extract_cat_lo, BitVec.extractLsb'_eq_self, Nat.reduceLeDiff, Nat.reduceSub, Nat.reduceAdd, Nat.le_refl, Nat.sub_self, BitVec.reduceExtractLsb', BitVec.reduceBEq, beq_self_eq_true, if_true, if_false, Bool.and_self, Bool.false_eq_true, BitVec.ofBool_true, BitVec.ofBool_false]))
theorem Codec.popc (d : Reg) (a : Reg) : Codec.Statement (.popc d a) := by
  exact Codec.of rfl ((decode_of_decBit _ (fld_major _ _ _)).trans (by simp only [decBit, rsv, fld_pack, extract_cat_hi, extract_cat_lo, BitVec.extractLsb'_eq_self, Nat.reduceLeDiff, Nat.reduceSub, Nat.reduceAdd, Nat.le_refl, Nat.sub_self, BitVec.reduceExtractLsb', BitVec.reduceBEq, beq_self_eq_true, if_true, if_false, Bool.and_self, Bool.false_eq_true, BitVec.ofBool_true, BitVec.ofBool_false]))
theorem Codec.brev (d : Reg) (a : Reg) : Codec.Statement (.brev d a) := by
  exact Codec.of rfl ((decode_of_decBit _ (fld_major _ _ _)).trans (by simp only [decBit, rsv, fld_pack, extract_cat_hi, extract_cat_lo, BitVec.extractLsb'_eq_self, Nat.reduceLeDiff, Nat.reduceSub, Nat.reduceAdd, Nat.le_refl, Nat.sub_self, BitVec.reduceExtractLsb', BitVec.reduceBEq, beq_self_eq_true, if_true, if_false, Bool.and_self, Bool.false_eq_true, BitVec.ofBool_true, BitVec.ofBool_false]))
theorem Codec.bswap (d : Reg) (a : Reg) : Codec.Statement (.bswap d a) := by
  exact Codec.of rfl ((decode_of_decBit _ (fld_major _ _ _)).trans (by simp only [decBit, rsv, fld_pack, extract_cat_hi, extract_cat_lo, BitVec.extractLsb'_eq_self, Nat.reduceLeDiff, Nat.reduceSub, Nat.reduceAdd, Nat.le_refl, Nat.sub_self, BitVec.reduceExtractLsb', BitVec.reduceBEq, beq_self_eq_true, if_true, if_false, Bool.and_self, Bool.false_eq_true, BitVec.ofBool_true, BitVec.ofBool_false]))
theorem Codec.addi (d : Reg) (a : Reg) (i : BitVec 16) : Codec.Statement (.addi d a i) := by
  exact Codec.of rfl ((decode_of_decAddi _ (fld_major _ _ _)).trans (by simp only [decAddi, rsv, fld_pack, extract_cat_hi, extract_cat_lo, BitVec.extractLsb'_eq_self, Nat.reduceLeDiff, Nat.reduceSub, Nat.reduceAdd, Nat.le_refl, Nat.sub_self, BitVec.reduceExtractLsb', BitVec.reduceBEq, beq_self_eq_true, if_true, if_false, Bool.and_self, Bool.false_eq_true, BitVec.ofBool_true, BitVec.ofBool_false]))
theorem Codec.andi (d : Reg) (a : Reg) (i : BitVec 16) : Codec.Statement (.andi d a i) := by
  exact Codec.of rfl ((decode_of_decAndi _ (fld_major _ _ _)).trans (by simp only [decAndi, rsv, fld_pack, extract_cat_hi, extract_cat_lo, BitVec.extractLsb'_eq_self, Nat.reduceLeDiff, Nat.reduceSub, Nat.reduceAdd, Nat.le_refl, Nat.sub_self, BitVec.reduceExtractLsb', BitVec.reduceBEq, beq_self_eq_true, if_true, if_false, Bool.and_self, Bool.false_eq_true, BitVec.ofBool_true, BitVec.ofBool_false]))
theorem Codec.ori (d : Reg) (a : Reg) (i : BitVec 16) : Codec.Statement (.ori d a i) := by
  exact Codec.of rfl ((decode_of_decOri _ (fld_major _ _ _)).trans (by simp only [decOri, rsv, fld_pack, extract_cat_hi, extract_cat_lo, BitVec.extractLsb'_eq_self, Nat.reduceLeDiff, Nat.reduceSub, Nat.reduceAdd, Nat.le_refl, Nat.sub_self, BitVec.reduceExtractLsb', BitVec.reduceBEq, beq_self_eq_true, if_true, if_false, Bool.and_self, Bool.false_eq_true, BitVec.ofBool_true, BitVec.ofBool_false]))
theorem Codec.xori (d : Reg) (a : Reg) (i : BitVec 16) : Codec.Statement (.xori d a i) := by
  exact Codec.of rfl ((decode_of_decXori _ (fld_major _ _ _)).trans (by simp only [decXori, rsv, fld_pack, extract_cat_hi, extract_cat_lo, BitVec.extractLsb'_eq_self, Nat.reduceLeDiff, Nat.reduceSub, Nat.reduceAdd, Nat.le_refl, Nat.sub_self, BitVec.reduceExtractLsb', BitVec.reduceBEq, beq_self_eq_true, if_true, if_false, Bool.and_self, Bool.false_eq_true, BitVec.ofBool_true, BitVec.ofBool_false]))
theorem Codec.slti (d : Reg) (a : Reg) (i : BitVec 16) : Codec.Statement (.slti d a i) := by
  exact Codec.of rfl ((decode_of_decSlti _ (fld_major _ _ _)).trans (by simp only [decSlti, rsv, fld_pack, extract_cat_hi, extract_cat_lo, BitVec.extractLsb'_eq_self, Nat.reduceLeDiff, Nat.reduceSub, Nat.reduceAdd, Nat.le_refl, Nat.sub_self, BitVec.reduceExtractLsb', BitVec.reduceBEq, beq_self_eq_true, if_true, if_false, Bool.and_self, Bool.false_eq_true, BitVec.ofBool_true, BitVec.ofBool_false]))
theorem Codec.slli (d : Reg) (a : Reg) (s : BitVec 6) : Codec.Statement (.slli d a s) := by
  exact Codec.of rfl ((decode_of_decShiftField _ (fld_major _ _ _)).trans (by simp only [decShiftField, rsv, fld_pack, extract_cat_hi, extract_cat_lo, BitVec.extractLsb'_eq_self, Nat.reduceLeDiff, Nat.reduceSub, Nat.reduceAdd, Nat.le_refl, Nat.sub_self, BitVec.reduceExtractLsb', BitVec.reduceBEq, beq_self_eq_true, if_true, if_false, Bool.and_self, Bool.false_eq_true, BitVec.ofBool_true, BitVec.ofBool_false]))
theorem Codec.srli (d : Reg) (a : Reg) (s : BitVec 6) : Codec.Statement (.srli d a s) := by
  exact Codec.of rfl ((decode_of_decShiftField _ (fld_major _ _ _)).trans (by simp only [decShiftField, rsv, fld_pack, extract_cat_hi, extract_cat_lo, BitVec.extractLsb'_eq_self, Nat.reduceLeDiff, Nat.reduceSub, Nat.reduceAdd, Nat.le_refl, Nat.sub_self, BitVec.reduceExtractLsb', BitVec.reduceBEq, beq_self_eq_true, if_true, if_false, Bool.and_self, Bool.false_eq_true, BitVec.ofBool_true, BitVec.ofBool_false]))
theorem Codec.srai (d : Reg) (a : Reg) (s : BitVec 6) : Codec.Statement (.srai d a s) := by
  exact Codec.of rfl ((decode_of_decShiftField _ (fld_major _ _ _)).trans (by simp only [decShiftField, rsv, fld_pack, extract_cat_hi, extract_cat_lo, BitVec.extractLsb'_eq_self, Nat.reduceLeDiff, Nat.reduceSub, Nat.reduceAdd, Nat.le_refl, Nat.sub_self, BitVec.reduceExtractLsb', BitVec.reduceBEq, beq_self_eq_true, if_true, if_false, Bool.and_self, Bool.false_eq_true, BitVec.ofBool_true, BitVec.ofBool_false]))
theorem Codec.exts (d : Reg) (a : Reg) (p : BitVec 6) (l : BitVec 6) : Codec.Statement (.exts d a p l) := by
  exact Codec.of rfl ((decode_of_decShiftField _ (fld_major _ _ _)).trans (by simp only [decShiftField, rsv, fld_pack, extract_cat_hi, extract_cat_lo, BitVec.extractLsb'_eq_self, Nat.reduceLeDiff, Nat.reduceSub, Nat.reduceAdd, Nat.le_refl, Nat.sub_self, BitVec.reduceExtractLsb', BitVec.reduceBEq, beq_self_eq_true, if_true, if_false, Bool.and_self, Bool.false_eq_true, BitVec.ofBool_true, BitVec.ofBool_false]))
theorem Codec.extz (d : Reg) (a : Reg) (p : BitVec 6) (l : BitVec 6) : Codec.Statement (.extz d a p l) := by
  exact Codec.of rfl ((decode_of_decShiftField _ (fld_major _ _ _)).trans (by simp only [decShiftField, rsv, fld_pack, extract_cat_hi, extract_cat_lo, BitVec.extractLsb'_eq_self, Nat.reduceLeDiff, Nat.reduceSub, Nat.reduceAdd, Nat.le_refl, Nat.sub_self, BitVec.reduceExtractLsb', BitVec.reduceBEq, beq_self_eq_true, if_true, if_false, Bool.and_self, Bool.false_eq_true, BitVec.ofBool_true, BitVec.ofBool_false]))
theorem Codec.ins (d : Reg) (a : Reg) (p : BitVec 6) (l : BitVec 6) : Codec.Statement (.ins d a p l) := by
  exact Codec.of rfl ((decode_of_decShiftField _ (fld_major _ _ _)).trans (by simp only [decShiftField, rsv, fld_pack, extract_cat_hi, extract_cat_lo, BitVec.extractLsb'_eq_self, Nat.reduceLeDiff, Nat.reduceSub, Nat.reduceAdd, Nat.le_refl, Nat.sub_self, BitVec.reduceExtractLsb', BitVec.reduceBEq, beq_self_eq_true, if_true, if_false, Bool.and_self, Bool.false_eq_true, BitVec.ofBool_true, BitVec.ofBool_false]))
theorem Codec.li (d : Reg) (i : BitVec 21) : Codec.Statement (.li d i) := by
  exact Codec.of rfl ((decode_of_decLi _ (fld_major _ _ _)).trans (by simp only [decLi, rsv, fld_pack, extract_cat_hi, extract_cat_lo, BitVec.extractLsb'_eq_self, Nat.reduceLeDiff, Nat.reduceSub, Nat.reduceAdd, Nat.le_refl, Nat.sub_self, BitVec.reduceExtractLsb', BitVec.reduceBEq, beq_self_eq_true, if_true, if_false, Bool.and_self, Bool.false_eq_true, BitVec.ofBool_true, BitVec.ofBool_false]))
theorem Codec.lim (d : Reg) (i : BitVec 21) : Codec.Statement (.lim d i) := by
  exact Codec.of rfl ((decode_of_decLim _ (fld_major _ _ _)).trans (by simp only [decLim, rsv, fld_pack, extract_cat_hi, extract_cat_lo, BitVec.extractLsb'_eq_self, Nat.reduceLeDiff, Nat.reduceSub, Nat.reduceAdd, Nat.le_refl, Nat.sub_self, BitVec.reduceExtractLsb', BitVec.reduceBEq, beq_self_eq_true, if_true, if_false, Bool.and_self, Bool.false_eq_true, BitVec.ofBool_true, BitVec.ofBool_false]))
theorem Codec.addpc (d : Reg) (i : BitVec 21) : Codec.Statement (.addpc d i) := by
  exact Codec.of rfl ((decode_of_decAddpc _ (fld_major _ _ _)).trans (by simp only [decAddpc, rsv, fld_pack, extract_cat_hi, extract_cat_lo, BitVec.extractLsb'_eq_self, Nat.reduceLeDiff, Nat.reduceSub, Nat.reduceAdd, Nat.le_refl, Nat.sub_self, BitVec.reduceExtractLsb', BitVec.reduceBEq, beq_self_eq_true, if_true, if_false, Bool.and_self, Bool.false_eq_true, BitVec.ofBool_true, BitVec.ofBool_false]))
theorem Codec.beq (a : Reg) (b : Reg) (o : BitVec 16) : Codec.Statement (.beq a b o) := by
  exact Codec.of rfl ((decode_of_decBeq _ (fld_major _ _ _)).trans (by simp only [decBeq, rsv, fld_pack, extract_cat_hi, extract_cat_lo, BitVec.extractLsb'_eq_self, Nat.reduceLeDiff, Nat.reduceSub, Nat.reduceAdd, Nat.le_refl, Nat.sub_self, BitVec.reduceExtractLsb', BitVec.reduceBEq, beq_self_eq_true, if_true, if_false, Bool.and_self, Bool.false_eq_true, BitVec.ofBool_true, BitVec.ofBool_false]))
theorem Codec.bne (a : Reg) (b : Reg) (o : BitVec 16) : Codec.Statement (.bne a b o) := by
  exact Codec.of rfl ((decode_of_decBne _ (fld_major _ _ _)).trans (by simp only [decBne, rsv, fld_pack, extract_cat_hi, extract_cat_lo, BitVec.extractLsb'_eq_self, Nat.reduceLeDiff, Nat.reduceSub, Nat.reduceAdd, Nat.le_refl, Nat.sub_self, BitVec.reduceExtractLsb', BitVec.reduceBEq, beq_self_eq_true, if_true, if_false, Bool.and_self, Bool.false_eq_true, BitVec.ofBool_true, BitVec.ofBool_false]))
theorem Codec.blt (a : Reg) (b : Reg) (o : BitVec 16) : Codec.Statement (.blt a b o) := by
  exact Codec.of rfl ((decode_of_decBlt _ (fld_major _ _ _)).trans (by simp only [decBlt, rsv, fld_pack, extract_cat_hi, extract_cat_lo, BitVec.extractLsb'_eq_self, Nat.reduceLeDiff, Nat.reduceSub, Nat.reduceAdd, Nat.le_refl, Nat.sub_self, BitVec.reduceExtractLsb', BitVec.reduceBEq, beq_self_eq_true, if_true, if_false, Bool.and_self, Bool.false_eq_true, BitVec.ofBool_true, BitVec.ofBool_false]))
theorem Codec.bge (a : Reg) (b : Reg) (o : BitVec 16) : Codec.Statement (.bge a b o) := by
  exact Codec.of rfl ((decode_of_decBge _ (fld_major _ _ _)).trans (by simp only [decBge, rsv, fld_pack, extract_cat_hi, extract_cat_lo, BitVec.extractLsb'_eq_self, Nat.reduceLeDiff, Nat.reduceSub, Nat.reduceAdd, Nat.le_refl, Nat.sub_self, BitVec.reduceExtractLsb', BitVec.reduceBEq, beq_self_eq_true, if_true, if_false, Bool.and_self, Bool.false_eq_true, BitVec.ofBool_true, BitVec.ofBool_false]))
theorem Codec.bltu (a : Reg) (b : Reg) (o : BitVec 16) : Codec.Statement (.bltu a b o) := by
  exact Codec.of rfl ((decode_of_decBltu _ (fld_major _ _ _)).trans (by simp only [decBltu, rsv, fld_pack, extract_cat_hi, extract_cat_lo, BitVec.extractLsb'_eq_self, Nat.reduceLeDiff, Nat.reduceSub, Nat.reduceAdd, Nat.le_refl, Nat.sub_self, BitVec.reduceExtractLsb', BitVec.reduceBEq, beq_self_eq_true, if_true, if_false, Bool.and_self, Bool.false_eq_true, BitVec.ofBool_true, BitVec.ofBool_false]))
theorem Codec.bgeu (a : Reg) (b : Reg) (o : BitVec 16) : Codec.Statement (.bgeu a b o) := by
  exact Codec.of rfl ((decode_of_decBgeu _ (fld_major _ _ _)).trans (by simp only [decBgeu, rsv, fld_pack, extract_cat_hi, extract_cat_lo, BitVec.extractLsb'_eq_self, Nat.reduceLeDiff, Nat.reduceSub, Nat.reduceAdd, Nat.le_refl, Nat.sub_self, BitVec.reduceExtractLsb', BitVec.reduceBEq, beq_self_eq_true, if_true, if_false, Bool.and_self, Bool.false_eq_true, BitVec.ofBool_true, BitVec.ofBool_false]))
theorem Codec.j (o : BitVec 26) : Codec.Statement (.j o) := by
  exact Codec.of rfl ((decode_of_decJ _ (fld_major _ _ _)).trans (by simp only [decJ, rsv, fld_pack, extract_cat_hi, extract_cat_lo, BitVec.extractLsb'_eq_self, Nat.reduceLeDiff, Nat.reduceSub, Nat.reduceAdd, Nat.le_refl, Nat.sub_self, BitVec.reduceExtractLsb', BitVec.reduceBEq, beq_self_eq_true, if_true, if_false, Bool.and_self, Bool.false_eq_true, BitVec.ofBool_true, BitVec.ofBool_false]))
theorem Codec.call (o : BitVec 26) : Codec.Statement (.call o) := by
  exact Codec.of rfl ((decode_of_decCall _ (fld_major _ _ _)).trans (by simp only [decCall, rsv, fld_pack, extract_cat_hi, extract_cat_lo, BitVec.extractLsb'_eq_self, Nat.reduceLeDiff, Nat.reduceSub, Nat.reduceAdd, Nat.le_refl, Nat.sub_self, BitVec.reduceExtractLsb', BitVec.reduceBEq, beq_self_eq_true, if_true, if_false, Bool.and_self, Bool.false_eq_true, BitVec.ofBool_true, BitVec.ofBool_false]))
theorem Codec.jr (a : Reg) : Codec.Statement (.jr a) := by
  exact Codec.of rfl ((decode_of_decJumpR _ (fld_major _ _ _)).trans (by simp only [decJumpR, rsv, fld_pack, extract_cat_hi, extract_cat_lo, BitVec.extractLsb'_eq_self, Nat.reduceLeDiff, Nat.reduceSub, Nat.reduceAdd, Nat.le_refl, Nat.sub_self, BitVec.reduceExtractLsb', BitVec.reduceBEq, beq_self_eq_true, if_true, if_false, Bool.and_self, Bool.false_eq_true, BitVec.ofBool_true, BitVec.ofBool_false]))
theorem Codec.callr (a : Reg) : Codec.Statement (.callr a) := by
  exact Codec.of rfl ((decode_of_decJumpR _ (fld_major _ _ _)).trans (by simp only [decJumpR, rsv, fld_pack, extract_cat_hi, extract_cat_lo, BitVec.extractLsb'_eq_self, Nat.reduceLeDiff, Nat.reduceSub, Nat.reduceAdd, Nat.le_refl, Nat.sub_self, BitVec.reduceExtractLsb', BitVec.reduceBEq, beq_self_eq_true, if_true, if_false, Bool.and_self, Bool.false_eq_true, BitVec.ofBool_true, BitVec.ofBool_false]))
theorem Codec.sel (d : Reg) (a : Reg) (b : Reg) (c : Reg) : Codec.Statement (.sel d a b c) := by
  exact Codec.of rfl ((decode_of_decSel _ (fld_major _ _ _)).trans (by simp only [decSel, rsv, fld_pack, extract_cat_hi, extract_cat_lo, BitVec.extractLsb'_eq_self, Nat.reduceLeDiff, Nat.reduceSub, Nat.reduceAdd, Nat.le_refl, Nat.sub_self, BitVec.reduceExtractLsb', BitVec.reduceBEq, beq_self_eq_true, if_true, if_false, Bool.and_self, Bool.false_eq_true, BitVec.ofBool_true, BitVec.ofBool_false]))
theorem Codec.ldb (d : Reg) (a : Reg) (o : BitVec 13) : Codec.Statement (.ldb d a o) := by
  exact Codec.of rfl ((decode_of_decLd _ (fld_major _ _ _)).trans (by simp only [decLd, rsv, fld_pack, extract_cat_hi, extract_cat_lo, BitVec.extractLsb'_eq_self, Nat.reduceLeDiff, Nat.reduceSub, Nat.reduceAdd, Nat.le_refl, Nat.sub_self, BitVec.reduceExtractLsb', BitVec.reduceBEq, beq_self_eq_true, if_true, if_false, Bool.and_self, Bool.false_eq_true, BitVec.ofBool_true, BitVec.ofBool_false]))
theorem Codec.ldbu (d : Reg) (a : Reg) (o : BitVec 13) : Codec.Statement (.ldbu d a o) := by
  exact Codec.of rfl ((decode_of_decLd _ (fld_major _ _ _)).trans (by simp only [decLd, rsv, fld_pack, extract_cat_hi, extract_cat_lo, BitVec.extractLsb'_eq_self, Nat.reduceLeDiff, Nat.reduceSub, Nat.reduceAdd, Nat.le_refl, Nat.sub_self, BitVec.reduceExtractLsb', BitVec.reduceBEq, beq_self_eq_true, if_true, if_false, Bool.and_self, Bool.false_eq_true, BitVec.ofBool_true, BitVec.ofBool_false]))
theorem Codec.ldh (d : Reg) (a : Reg) (o : BitVec 13) : Codec.Statement (.ldh d a o) := by
  exact Codec.of rfl ((decode_of_decLd _ (fld_major _ _ _)).trans (by simp only [decLd, rsv, fld_pack, extract_cat_hi, extract_cat_lo, BitVec.extractLsb'_eq_self, Nat.reduceLeDiff, Nat.reduceSub, Nat.reduceAdd, Nat.le_refl, Nat.sub_self, BitVec.reduceExtractLsb', BitVec.reduceBEq, beq_self_eq_true, if_true, if_false, Bool.and_self, Bool.false_eq_true, BitVec.ofBool_true, BitVec.ofBool_false]))
theorem Codec.ldhu (d : Reg) (a : Reg) (o : BitVec 13) : Codec.Statement (.ldhu d a o) := by
  exact Codec.of rfl ((decode_of_decLd _ (fld_major _ _ _)).trans (by simp only [decLd, rsv, fld_pack, extract_cat_hi, extract_cat_lo, BitVec.extractLsb'_eq_self, Nat.reduceLeDiff, Nat.reduceSub, Nat.reduceAdd, Nat.le_refl, Nat.sub_self, BitVec.reduceExtractLsb', BitVec.reduceBEq, beq_self_eq_true, if_true, if_false, Bool.and_self, Bool.false_eq_true, BitVec.ofBool_true, BitVec.ofBool_false]))
theorem Codec.ldw (d : Reg) (a : Reg) (o : BitVec 13) : Codec.Statement (.ldw d a o) := by
  exact Codec.of rfl ((decode_of_decLd _ (fld_major _ _ _)).trans (by simp only [decLd, rsv, fld_pack, extract_cat_hi, extract_cat_lo, BitVec.extractLsb'_eq_self, Nat.reduceLeDiff, Nat.reduceSub, Nat.reduceAdd, Nat.le_refl, Nat.sub_self, BitVec.reduceExtractLsb', BitVec.reduceBEq, beq_self_eq_true, if_true, if_false, Bool.and_self, Bool.false_eq_true, BitVec.ofBool_true, BitVec.ofBool_false]))
theorem Codec.ldwu (d : Reg) (a : Reg) (o : BitVec 13) : Codec.Statement (.ldwu d a o) := by
  exact Codec.of rfl ((decode_of_decLd _ (fld_major _ _ _)).trans (by simp only [decLd, rsv, fld_pack, extract_cat_hi, extract_cat_lo, BitVec.extractLsb'_eq_self, Nat.reduceLeDiff, Nat.reduceSub, Nat.reduceAdd, Nat.le_refl, Nat.sub_self, BitVec.reduceExtractLsb', BitVec.reduceBEq, beq_self_eq_true, if_true, if_false, Bool.and_self, Bool.false_eq_true, BitVec.ofBool_true, BitVec.ofBool_false]))
theorem Codec.ldd (d : Reg) (a : Reg) (o : BitVec 13) : Codec.Statement (.ldd d a o) := by
  exact Codec.of rfl ((decode_of_decLd _ (fld_major _ _ _)).trans (by simp only [decLd, rsv, fld_pack, extract_cat_hi, extract_cat_lo, BitVec.extractLsb'_eq_self, Nat.reduceLeDiff, Nat.reduceSub, Nat.reduceAdd, Nat.le_refl, Nat.sub_self, BitVec.reduceExtractLsb', BitVec.reduceBEq, beq_self_eq_true, if_true, if_false, Bool.and_self, Bool.false_eq_true, BitVec.ofBool_true, BitVec.ofBool_false]))
theorem Codec.stb (s : Reg) (a : Reg) (o : BitVec 13) : Codec.Statement (.stb s a o) := by
  exact Codec.of rfl ((decode_of_decSt _ (fld_major _ _ _)).trans (by simp only [decSt, rsv, fld_pack, extract_cat_hi, extract_cat_lo, BitVec.extractLsb'_eq_self, Nat.reduceLeDiff, Nat.reduceSub, Nat.reduceAdd, Nat.le_refl, Nat.sub_self, BitVec.reduceExtractLsb', BitVec.reduceBEq, beq_self_eq_true, if_true, if_false, Bool.and_self, Bool.false_eq_true, BitVec.ofBool_true, BitVec.ofBool_false]))
theorem Codec.sth (s : Reg) (a : Reg) (o : BitVec 13) : Codec.Statement (.sth s a o) := by
  exact Codec.of rfl ((decode_of_decSt _ (fld_major _ _ _)).trans (by simp only [decSt, rsv, fld_pack, extract_cat_hi, extract_cat_lo, BitVec.extractLsb'_eq_self, Nat.reduceLeDiff, Nat.reduceSub, Nat.reduceAdd, Nat.le_refl, Nat.sub_self, BitVec.reduceExtractLsb', BitVec.reduceBEq, beq_self_eq_true, if_true, if_false, Bool.and_self, Bool.false_eq_true, BitVec.ofBool_true, BitVec.ofBool_false]))
theorem Codec.stw (s : Reg) (a : Reg) (o : BitVec 13) : Codec.Statement (.stw s a o) := by
  exact Codec.of rfl ((decode_of_decSt _ (fld_major _ _ _)).trans (by simp only [decSt, rsv, fld_pack, extract_cat_hi, extract_cat_lo, BitVec.extractLsb'_eq_self, Nat.reduceLeDiff, Nat.reduceSub, Nat.reduceAdd, Nat.le_refl, Nat.sub_self, BitVec.reduceExtractLsb', BitVec.reduceBEq, beq_self_eq_true, if_true, if_false, Bool.and_self, Bool.false_eq_true, BitVec.ofBool_true, BitVec.ofBool_false]))
theorem Codec.std (s : Reg) (a : Reg) (o : BitVec 13) : Codec.Statement (.std s a o) := by
  exact Codec.of rfl ((decode_of_decSt _ (fld_major _ _ _)).trans (by simp only [decSt, rsv, fld_pack, extract_cat_hi, extract_cat_lo, BitVec.extractLsb'_eq_self, Nat.reduceLeDiff, Nat.reduceSub, Nat.reduceAdd, Nat.le_refl, Nat.sub_self, BitVec.reduceExtractLsb', BitVec.reduceBEq, beq_self_eq_true, if_true, if_false, Bool.and_self, Bool.false_eq_true, BitVec.ofBool_true, BitVec.ofBool_false]))
theorem Codec.fadd (d : Reg) (a : Reg) (b : Reg) (p : Prec) : Codec.Statement (.fadd d a b p) := by
  cases p <;> exact Codec.of rfl ((decode_of_decFp _ (fld_major _ _ _)).trans (by simp only [decFp, rsv, fld_pack, extract_cat_hi, extract_cat_lo, BitVec.extractLsb'_eq_self, Nat.reduceLeDiff, Nat.reduceSub, Nat.reduceAdd, Nat.le_refl, Nat.sub_self, BitVec.reduceExtractLsb', BitVec.reduceBEq, beq_self_eq_true, if_true, if_false, Bool.and_self, Bool.false_eq_true, BitVec.ofBool_true, BitVec.ofBool_false, precOf, Prec.bit]))
theorem Codec.fsub (d : Reg) (a : Reg) (b : Reg) (p : Prec) : Codec.Statement (.fsub d a b p) := by
  cases p <;> exact Codec.of rfl ((decode_of_decFp _ (fld_major _ _ _)).trans (by simp only [decFp, rsv, fld_pack, extract_cat_hi, extract_cat_lo, BitVec.extractLsb'_eq_self, Nat.reduceLeDiff, Nat.reduceSub, Nat.reduceAdd, Nat.le_refl, Nat.sub_self, BitVec.reduceExtractLsb', BitVec.reduceBEq, beq_self_eq_true, if_true, if_false, Bool.and_self, Bool.false_eq_true, BitVec.ofBool_true, BitVec.ofBool_false, precOf, Prec.bit]))
theorem Codec.fmul (d : Reg) (a : Reg) (b : Reg) (p : Prec) : Codec.Statement (.fmul d a b p) := by
  cases p <;> exact Codec.of rfl ((decode_of_decFp _ (fld_major _ _ _)).trans (by simp only [decFp, rsv, fld_pack, extract_cat_hi, extract_cat_lo, BitVec.extractLsb'_eq_self, Nat.reduceLeDiff, Nat.reduceSub, Nat.reduceAdd, Nat.le_refl, Nat.sub_self, BitVec.reduceExtractLsb', BitVec.reduceBEq, beq_self_eq_true, if_true, if_false, Bool.and_self, Bool.false_eq_true, BitVec.ofBool_true, BitVec.ofBool_false, precOf, Prec.bit]))
theorem Codec.fdiv (d : Reg) (a : Reg) (b : Reg) (p : Prec) : Codec.Statement (.fdiv d a b p) := by
  cases p <;> exact Codec.of rfl ((decode_of_decFp _ (fld_major _ _ _)).trans (by simp only [decFp, rsv, fld_pack, extract_cat_hi, extract_cat_lo, BitVec.extractLsb'_eq_self, Nat.reduceLeDiff, Nat.reduceSub, Nat.reduceAdd, Nat.le_refl, Nat.sub_self, BitVec.reduceExtractLsb', BitVec.reduceBEq, beq_self_eq_true, if_true, if_false, Bool.and_self, Bool.false_eq_true, BitVec.ofBool_true, BitVec.ofBool_false, precOf, Prec.bit]))
theorem Codec.fsqrt (d : Reg) (a : Reg) (p : Prec) : Codec.Statement (.fsqrt d a p) := by
  cases p <;> exact Codec.of rfl ((decode_of_decFp _ (fld_major _ _ _)).trans (by simp only [decFp, rsv, fld_pack, extract_cat_hi, extract_cat_lo, BitVec.extractLsb'_eq_self, Nat.reduceLeDiff, Nat.reduceSub, Nat.reduceAdd, Nat.le_refl, Nat.sub_self, BitVec.reduceExtractLsb', BitVec.reduceBEq, beq_self_eq_true, if_true, if_false, Bool.and_self, Bool.false_eq_true, BitVec.ofBool_true, BitVec.ofBool_false, precOf, Prec.bit]))
theorem Codec.fmin (d : Reg) (a : Reg) (b : Reg) (p : Prec) : Codec.Statement (.fmin d a b p) := by
  cases p <;> exact Codec.of rfl ((decode_of_decFp _ (fld_major _ _ _)).trans (by simp only [decFp, rsv, fld_pack, extract_cat_hi, extract_cat_lo, BitVec.extractLsb'_eq_self, Nat.reduceLeDiff, Nat.reduceSub, Nat.reduceAdd, Nat.le_refl, Nat.sub_self, BitVec.reduceExtractLsb', BitVec.reduceBEq, beq_self_eq_true, if_true, if_false, Bool.and_self, Bool.false_eq_true, BitVec.ofBool_true, BitVec.ofBool_false, precOf, Prec.bit]))
theorem Codec.fmax (d : Reg) (a : Reg) (b : Reg) (p : Prec) : Codec.Statement (.fmax d a b p) := by
  cases p <;> exact Codec.of rfl ((decode_of_decFp _ (fld_major _ _ _)).trans (by simp only [decFp, rsv, fld_pack, extract_cat_hi, extract_cat_lo, BitVec.extractLsb'_eq_self, Nat.reduceLeDiff, Nat.reduceSub, Nat.reduceAdd, Nat.le_refl, Nat.sub_self, BitVec.reduceExtractLsb', BitVec.reduceBEq, beq_self_eq_true, if_true, if_false, Bool.and_self, Bool.false_eq_true, BitVec.ofBool_true, BitVec.ofBool_false, precOf, Prec.bit]))
theorem Codec.feq (d : Reg) (a : Reg) (b : Reg) (p : Prec) : Codec.Statement (.feq d a b p) := by
  cases p <;> exact Codec.of rfl ((decode_of_decFp _ (fld_major _ _ _)).trans (by simp only [decFp, rsv, fld_pack, extract_cat_hi, extract_cat_lo, BitVec.extractLsb'_eq_self, Nat.reduceLeDiff, Nat.reduceSub, Nat.reduceAdd, Nat.le_refl, Nat.sub_self, BitVec.reduceExtractLsb', BitVec.reduceBEq, beq_self_eq_true, if_true, if_false, Bool.and_self, Bool.false_eq_true, BitVec.ofBool_true, BitVec.ofBool_false, precOf, Prec.bit]))
theorem Codec.flt (d : Reg) (a : Reg) (b : Reg) (p : Prec) : Codec.Statement (.flt d a b p) := by
  cases p <;> exact Codec.of rfl ((decode_of_decFp _ (fld_major _ _ _)).trans (by simp only [decFp, rsv, fld_pack, extract_cat_hi, extract_cat_lo, BitVec.extractLsb'_eq_self, Nat.reduceLeDiff, Nat.reduceSub, Nat.reduceAdd, Nat.le_refl, Nat.sub_self, BitVec.reduceExtractLsb', BitVec.reduceBEq, beq_self_eq_true, if_true, if_false, Bool.and_self, Bool.false_eq_true, BitVec.ofBool_true, BitVec.ofBool_false, precOf, Prec.bit]))
theorem Codec.fle (d : Reg) (a : Reg) (b : Reg) (p : Prec) : Codec.Statement (.fle d a b p) := by
  cases p <;> exact Codec.of rfl ((decode_of_decFp _ (fld_major _ _ _)).trans (by simp only [decFp, rsv, fld_pack, extract_cat_hi, extract_cat_lo, BitVec.extractLsb'_eq_self, Nat.reduceLeDiff, Nat.reduceSub, Nat.reduceAdd, Nat.le_refl, Nat.sub_self, BitVec.reduceExtractLsb', BitVec.reduceBEq, beq_self_eq_true, if_true, if_false, Bool.and_self, Bool.false_eq_true, BitVec.ofBool_true, BitVec.ofBool_false, precOf, Prec.bit]))
theorem Codec.fclass (d : Reg) (a : Reg) (p : Prec) : Codec.Statement (.fclass d a p) := by
  cases p <;> exact Codec.of rfl ((decode_of_decFp _ (fld_major _ _ _)).trans (by simp only [decFp, rsv, fld_pack, extract_cat_hi, extract_cat_lo, BitVec.extractLsb'_eq_self, Nat.reduceLeDiff, Nat.reduceSub, Nat.reduceAdd, Nat.le_refl, Nat.sub_self, BitVec.reduceExtractLsb', BitVec.reduceBEq, beq_self_eq_true, if_true, if_false, Bool.and_self, Bool.false_eq_true, BitVec.ofBool_true, BitVec.ofBool_false, precOf, Prec.bit]))
theorem Codec.fcvtSD (d : Reg) (a : Reg) : Codec.Statement (.fcvtSD d a) := by
  exact Codec.of rfl ((decode_of_decFp _ (fld_major _ _ _)).trans (by simp only [decFp, rsv, fld_pack, extract_cat_hi, extract_cat_lo, BitVec.extractLsb'_eq_self, Nat.reduceLeDiff, Nat.reduceSub, Nat.reduceAdd, Nat.le_refl, Nat.sub_self, BitVec.reduceExtractLsb', BitVec.reduceBEq, beq_self_eq_true, if_true, if_false, Bool.and_self, Bool.false_eq_true, BitVec.ofBool_true, BitVec.ofBool_false]))
theorem Codec.fcvtDS (d : Reg) (a : Reg) : Codec.Statement (.fcvtDS d a) := by
  exact Codec.of rfl ((decode_of_decFp _ (fld_major _ _ _)).trans (by simp only [decFp, rsv, fld_pack, extract_cat_hi, extract_cat_lo, BitVec.extractLsb'_eq_self, Nat.reduceLeDiff, Nat.reduceSub, Nat.reduceAdd, Nat.le_refl, Nat.sub_self, BitVec.reduceExtractLsb', BitVec.reduceBEq, beq_self_eq_true, if_true, if_false, Bool.and_self, Bool.false_eq_true, BitVec.ofBool_true, BitVec.ofBool_false]))
theorem Codec.fcvtWS (d : Reg) (a : Reg) : Codec.Statement (.fcvtWS d a) := by
  exact Codec.of rfl ((decode_of_decFp _ (fld_major _ _ _)).trans (by simp only [decFp, rsv, fld_pack, extract_cat_hi, extract_cat_lo, BitVec.extractLsb'_eq_self, Nat.reduceLeDiff, Nat.reduceSub, Nat.reduceAdd, Nat.le_refl, Nat.sub_self, BitVec.reduceExtractLsb', BitVec.reduceBEq, beq_self_eq_true, if_true, if_false, Bool.and_self, Bool.false_eq_true, BitVec.ofBool_true, BitVec.ofBool_false]))
theorem Codec.fcvtSW (d : Reg) (a : Reg) : Codec.Statement (.fcvtSW d a) := by
  exact Codec.of rfl ((decode_of_decFp _ (fld_major _ _ _)).trans (by simp only [decFp, rsv, fld_pack, extract_cat_hi, extract_cat_lo, BitVec.extractLsb'_eq_self, Nat.reduceLeDiff, Nat.reduceSub, Nat.reduceAdd, Nat.le_refl, Nat.sub_self, BitVec.reduceExtractLsb', BitVec.reduceBEq, beq_self_eq_true, if_true, if_false, Bool.and_self, Bool.false_eq_true, BitVec.ofBool_true, BitVec.ofBool_false]))
theorem Codec.fcvtLD (d : Reg) (a : Reg) : Codec.Statement (.fcvtLD d a) := by
  exact Codec.of rfl ((decode_of_decFp _ (fld_major _ _ _)).trans (by simp only [decFp, rsv, fld_pack, extract_cat_hi, extract_cat_lo, BitVec.extractLsb'_eq_self, Nat.reduceLeDiff, Nat.reduceSub, Nat.reduceAdd, Nat.le_refl, Nat.sub_self, BitVec.reduceExtractLsb', BitVec.reduceBEq, beq_self_eq_true, if_true, if_false, Bool.and_self, Bool.false_eq_true, BitVec.ofBool_true, BitVec.ofBool_false]))
theorem Codec.fcvtDL (d : Reg) (a : Reg) : Codec.Statement (.fcvtDL d a) := by
  exact Codec.of rfl ((decode_of_decFp _ (fld_major _ _ _)).trans (by simp only [decFp, rsv, fld_pack, extract_cat_hi, extract_cat_lo, BitVec.extractLsb'_eq_self, Nat.reduceLeDiff, Nat.reduceSub, Nat.reduceAdd, Nat.le_refl, Nat.sub_self, BitVec.reduceExtractLsb', BitVec.reduceBEq, beq_self_eq_true, if_true, if_false, Bool.and_self, Bool.false_eq_true, BitVec.ofBool_true, BitVec.ofBool_false]))
theorem Codec.fmadd (d : Reg) (a : Reg) (b : Reg) (c : Reg) (p : Prec) : Codec.Statement (.fmadd d a b c p) := by
  cases p <;> exact Codec.of rfl ((decode_of_decFma _ (fld_major _ _ _)).trans (by simp only [decFma, rsv, fld_pack, extract_cat_hi, extract_cat_lo, BitVec.extractLsb'_eq_self, Nat.reduceLeDiff, Nat.reduceSub, Nat.reduceAdd, Nat.le_refl, Nat.sub_self, BitVec.reduceExtractLsb', BitVec.reduceBEq, beq_self_eq_true, if_true, if_false, Bool.and_self, Bool.false_eq_true, BitVec.ofBool_true, BitVec.ofBool_false, precOf, Prec.bit]))
theorem Codec.fmsub (d : Reg) (a : Reg) (b : Reg) (c : Reg) (p : Prec) : Codec.Statement (.fmsub d a b c p) := by
  cases p <;> exact Codec.of rfl ((decode_of_decFma _ (fld_major _ _ _)).trans (by simp only [decFma, rsv, fld_pack, extract_cat_hi, extract_cat_lo, BitVec.extractLsb'_eq_self, Nat.reduceLeDiff, Nat.reduceSub, Nat.reduceAdd, Nat.le_refl, Nat.sub_self, BitVec.reduceExtractLsb', BitVec.reduceBEq, beq_self_eq_true, if_true, if_false, Bool.and_self, Bool.false_eq_true, BitVec.ofBool_true, BitVec.ofBool_false, precOf, Prec.bit]))
theorem Codec.fnmadd (d : Reg) (a : Reg) (b : Reg) (c : Reg) (p : Prec) : Codec.Statement (.fnmadd d a b c p) := by
  cases p <;> exact Codec.of rfl ((decode_of_decFma _ (fld_major _ _ _)).trans (by simp only [decFma, rsv, fld_pack, extract_cat_hi, extract_cat_lo, BitVec.extractLsb'_eq_self, Nat.reduceLeDiff, Nat.reduceSub, Nat.reduceAdd, Nat.le_refl, Nat.sub_self, BitVec.reduceExtractLsb', BitVec.reduceBEq, beq_self_eq_true, if_true, if_false, Bool.and_self, Bool.false_eq_true, BitVec.ofBool_true, BitVec.ofBool_false, precOf, Prec.bit]))
theorem Codec.vadd (d : Reg) (a : Reg) (b : Reg) (k : KReg) (w : LaneW) (x : Bool) : Codec.Statement (.vadd d a b k w x) := by
  cases w <;> cases x <;> exact Codec.of rfl ((decode_of_decValu _ (fld_major _ _ _)).trans (by simp only [decValu, rsv, fld_pack, extract_cat_hi, extract_cat_lo, BitVec.extractLsb'_eq_self, Nat.reduceLeDiff, Nat.reduceSub, Nat.reduceAdd, Nat.le_refl, Nat.sub_self, BitVec.reduceExtractLsb', BitVec.reduceBEq, beq_self_eq_true, if_true, if_false, Bool.and_self, Bool.false_eq_true, BitVec.ofBool_true, BitVec.ofBool_false, withLaneW, LaneW.bits, boolOf]))
theorem Codec.vsub (d : Reg) (a : Reg) (b : Reg) (k : KReg) (w : LaneW) (x : Bool) : Codec.Statement (.vsub d a b k w x) := by
  cases w <;> cases x <;> exact Codec.of rfl ((decode_of_decValu _ (fld_major _ _ _)).trans (by simp only [decValu, rsv, fld_pack, extract_cat_hi, extract_cat_lo, BitVec.extractLsb'_eq_self, Nat.reduceLeDiff, Nat.reduceSub, Nat.reduceAdd, Nat.le_refl, Nat.sub_self, BitVec.reduceExtractLsb', BitVec.reduceBEq, beq_self_eq_true, if_true, if_false, Bool.and_self, Bool.false_eq_true, BitVec.ofBool_true, BitVec.ofBool_false, withLaneW, LaneW.bits, boolOf]))
theorem Codec.vmul (d : Reg) (a : Reg) (b : Reg) (k : KReg) (w : LaneW) (x : Bool) : Codec.Statement (.vmul d a b k w x) := by
  cases w <;> cases x <;> exact Codec.of rfl ((decode_of_decValu _ (fld_major _ _ _)).trans (by simp only [decValu, rsv, fld_pack, extract_cat_hi, extract_cat_lo, BitVec.extractLsb'_eq_self, Nat.reduceLeDiff, Nat.reduceSub, Nat.reduceAdd, Nat.le_refl, Nat.sub_self, BitVec.reduceExtractLsb', BitVec.reduceBEq, beq_self_eq_true, if_true, if_false, Bool.and_self, Bool.false_eq_true, BitVec.ofBool_true, BitVec.ofBool_false, withLaneW, LaneW.bits, boolOf]))
theorem Codec.vmulh (d : Reg) (a : Reg) (b : Reg) (k : KReg) (w : LaneW) (x : Bool) : Codec.Statement (.vmulh d a b k w x) := by
  cases w <;> cases x <;> exact Codec.of rfl ((decode_of_decValu _ (fld_major _ _ _)).trans (by simp only [decValu, rsv, fld_pack, extract_cat_hi, extract_cat_lo, BitVec.extractLsb'_eq_self, Nat.reduceLeDiff, Nat.reduceSub, Nat.reduceAdd, Nat.le_refl, Nat.sub_self, BitVec.reduceExtractLsb', BitVec.reduceBEq, beq_self_eq_true, if_true, if_false, Bool.and_self, Bool.false_eq_true, BitVec.ofBool_true, BitVec.ofBool_false, withLaneW, LaneW.bits, boolOf]))
theorem Codec.vand (d : Reg) (a : Reg) (b : Reg) (k : KReg) (w : LaneW) (x : Bool) : Codec.Statement (.vand d a b k w x) := by
  cases w <;> cases x <;> exact Codec.of rfl ((decode_of_decValu _ (fld_major _ _ _)).trans (by simp only [decValu, rsv, fld_pack, extract_cat_hi, extract_cat_lo, BitVec.extractLsb'_eq_self, Nat.reduceLeDiff, Nat.reduceSub, Nat.reduceAdd, Nat.le_refl, Nat.sub_self, BitVec.reduceExtractLsb', BitVec.reduceBEq, beq_self_eq_true, if_true, if_false, Bool.and_self, Bool.false_eq_true, BitVec.ofBool_true, BitVec.ofBool_false, withLaneW, LaneW.bits, boolOf]))
theorem Codec.vor (d : Reg) (a : Reg) (b : Reg) (k : KReg) (w : LaneW) (x : Bool) : Codec.Statement (.vor d a b k w x) := by
  cases w <;> cases x <;> exact Codec.of rfl ((decode_of_decValu _ (fld_major _ _ _)).trans (by simp only [decValu, rsv, fld_pack, extract_cat_hi, extract_cat_lo, BitVec.extractLsb'_eq_self, Nat.reduceLeDiff, Nat.reduceSub, Nat.reduceAdd, Nat.le_refl, Nat.sub_self, BitVec.reduceExtractLsb', BitVec.reduceBEq, beq_self_eq_true, if_true, if_false, Bool.and_self, Bool.false_eq_true, BitVec.ofBool_true, BitVec.ofBool_false, withLaneW, LaneW.bits, boolOf]))
theorem Codec.vxor (d : Reg) (a : Reg) (b : Reg) (k : KReg) (w : LaneW) (x : Bool) : Codec.Statement (.vxor d a b k w x) := by
  cases w <;> cases x <;> exact Codec.of rfl ((decode_of_decValu _ (fld_major _ _ _)).trans (by simp only [decValu, rsv, fld_pack, extract_cat_hi, extract_cat_lo, BitVec.extractLsb'_eq_self, Nat.reduceLeDiff, Nat.reduceSub, Nat.reduceAdd, Nat.le_refl, Nat.sub_self, BitVec.reduceExtractLsb', BitVec.reduceBEq, beq_self_eq_true, if_true, if_false, Bool.and_self, Bool.false_eq_true, BitVec.ofBool_true, BitVec.ofBool_false, withLaneW, LaneW.bits, boolOf]))
theorem Codec.vshl (d : Reg) (a : Reg) (b : Reg) (k : KReg) (w : LaneW) (x : Bool) : Codec.Statement (.vshl d a b k w x) := by
  cases w <;> cases x <;> exact Codec.of rfl ((decode_of_decValu _ (fld_major _ _ _)).trans (by simp only [decValu, rsv, fld_pack, extract_cat_hi, extract_cat_lo, BitVec.extractLsb'_eq_self, Nat.reduceLeDiff, Nat.reduceSub, Nat.reduceAdd, Nat.le_refl, Nat.sub_self, BitVec.reduceExtractLsb', BitVec.reduceBEq, beq_self_eq_true, if_true, if_false, Bool.and_self, Bool.false_eq_true, BitVec.ofBool_true, BitVec.ofBool_false, withLaneW, LaneW.bits, boolOf]))
theorem Codec.vshr (d : Reg) (a : Reg) (b : Reg) (k : KReg) (w : LaneW) (x : Bool) : Codec.Statement (.vshr d a b k w x) := by
  cases w <;> cases x <;> exact Codec.of rfl ((decode_of_decValu _ (fld_major _ _ _)).trans (by simp only [decValu, rsv, fld_pack, extract_cat_hi, extract_cat_lo, BitVec.extractLsb'_eq_self, Nat.reduceLeDiff, Nat.reduceSub, Nat.reduceAdd, Nat.le_refl, Nat.sub_self, BitVec.reduceExtractLsb', BitVec.reduceBEq, beq_self_eq_true, if_true, if_false, Bool.and_self, Bool.false_eq_true, BitVec.ofBool_true, BitVec.ofBool_false, withLaneW, LaneW.bits, boolOf]))
theorem Codec.vsar (d : Reg) (a : Reg) (b : Reg) (k : KReg) (w : LaneW) (x : Bool) : Codec.Statement (.vsar d a b k w x) := by
  cases w <;> cases x <;> exact Codec.of rfl ((decode_of_decValu _ (fld_major _ _ _)).trans (by simp only [decValu, rsv, fld_pack, extract_cat_hi, extract_cat_lo, BitVec.extractLsb'_eq_self, Nat.reduceLeDiff, Nat.reduceSub, Nat.reduceAdd, Nat.le_refl, Nat.sub_self, BitVec.reduceExtractLsb', BitVec.reduceBEq, beq_self_eq_true, if_true, if_false, Bool.and_self, Bool.false_eq_true, BitVec.ofBool_true, BitVec.ofBool_false, withLaneW, LaneW.bits, boolOf]))
theorem Codec.vmin (d : Reg) (a : Reg) (b : Reg) (k : KReg) (w : LaneW) (x : Bool) : Codec.Statement (.vmin d a b k w x) := by
  cases w <;> cases x <;> exact Codec.of rfl ((decode_of_decValu _ (fld_major _ _ _)).trans (by simp only [decValu, rsv, fld_pack, extract_cat_hi, extract_cat_lo, BitVec.extractLsb'_eq_self, Nat.reduceLeDiff, Nat.reduceSub, Nat.reduceAdd, Nat.le_refl, Nat.sub_self, BitVec.reduceExtractLsb', BitVec.reduceBEq, beq_self_eq_true, if_true, if_false, Bool.and_self, Bool.false_eq_true, BitVec.ofBool_true, BitVec.ofBool_false, withLaneW, LaneW.bits, boolOf]))
theorem Codec.vmax (d : Reg) (a : Reg) (b : Reg) (k : KReg) (w : LaneW) (x : Bool) : Codec.Statement (.vmax d a b k w x) := by
  cases w <;> cases x <;> exact Codec.of rfl ((decode_of_decValu _ (fld_major _ _ _)).trans (by simp only [decValu, rsv, fld_pack, extract_cat_hi, extract_cat_lo, BitVec.extractLsb'_eq_self, Nat.reduceLeDiff, Nat.reduceSub, Nat.reduceAdd, Nat.le_refl, Nat.sub_self, BitVec.reduceExtractLsb', BitVec.reduceBEq, beq_self_eq_true, if_true, if_false, Bool.and_self, Bool.false_eq_true, BitVec.ofBool_true, BitVec.ofBool_false, withLaneW, LaneW.bits, boolOf]))
theorem Codec.vfadd (d : Reg) (a : Reg) (b : Reg) (k : KReg) (t : FTy) (x : Bool) : Codec.Statement (.vfadd d a b k t x) := by
  cases t <;> cases x <;> exact Codec.of rfl ((decode_of_decVfp _ (fld_major _ _ _)).trans (by simp only [decVfp, rsv, fld_pack, extract_cat_hi, extract_cat_lo, BitVec.extractLsb'_eq_self, Nat.reduceLeDiff, Nat.reduceSub, Nat.reduceAdd, Nat.le_refl, Nat.sub_self, BitVec.reduceExtractLsb', BitVec.reduceBEq, beq_self_eq_true, if_true, if_false, Bool.and_self, Bool.false_eq_true, BitVec.ofBool_true, BitVec.ofBool_false, withFTy, FTy.bits, boolOf]))
theorem Codec.vfsub (d : Reg) (a : Reg) (b : Reg) (k : KReg) (t : FTy) (x : Bool) : Codec.Statement (.vfsub d a b k t x) := by
  cases t <;> cases x <;> exact Codec.of rfl ((decode_of_decVfp _ (fld_major _ _ _)).trans (by simp only [decVfp, rsv, fld_pack, extract_cat_hi, extract_cat_lo, BitVec.extractLsb'_eq_self, Nat.reduceLeDiff, Nat.reduceSub, Nat.reduceAdd, Nat.le_refl, Nat.sub_self, BitVec.reduceExtractLsb', BitVec.reduceBEq, beq_self_eq_true, if_true, if_false, Bool.and_self, Bool.false_eq_true, BitVec.ofBool_true, BitVec.ofBool_false, withFTy, FTy.bits, boolOf]))
theorem Codec.vfmul (d : Reg) (a : Reg) (b : Reg) (k : KReg) (t : FTy) (x : Bool) : Codec.Statement (.vfmul d a b k t x) := by
  cases t <;> cases x <;> exact Codec.of rfl ((decode_of_decVfp _ (fld_major _ _ _)).trans (by simp only [decVfp, rsv, fld_pack, extract_cat_hi, extract_cat_lo, BitVec.extractLsb'_eq_self, Nat.reduceLeDiff, Nat.reduceSub, Nat.reduceAdd, Nat.le_refl, Nat.sub_self, BitVec.reduceExtractLsb', BitVec.reduceBEq, beq_self_eq_true, if_true, if_false, Bool.and_self, Bool.false_eq_true, BitVec.ofBool_true, BitVec.ofBool_false, withFTy, FTy.bits, boolOf]))
theorem Codec.vfmin (d : Reg) (a : Reg) (b : Reg) (k : KReg) (t : FTy) (x : Bool) : Codec.Statement (.vfmin d a b k t x) := by
  cases t <;> cases x <;> exact Codec.of rfl ((decode_of_decVfp _ (fld_major _ _ _)).trans (by simp only [decVfp, rsv, fld_pack, extract_cat_hi, extract_cat_lo, BitVec.extractLsb'_eq_self, Nat.reduceLeDiff, Nat.reduceSub, Nat.reduceAdd, Nat.le_refl, Nat.sub_self, BitVec.reduceExtractLsb', BitVec.reduceBEq, beq_self_eq_true, if_true, if_false, Bool.and_self, Bool.false_eq_true, BitVec.ofBool_true, BitVec.ofBool_false, withFTy, FTy.bits, boolOf]))
theorem Codec.vfmax (d : Reg) (a : Reg) (b : Reg) (k : KReg) (t : FTy) (x : Bool) : Codec.Statement (.vfmax d a b k t x) := by
  cases t <;> cases x <;> exact Codec.of rfl ((decode_of_decVfp _ (fld_major _ _ _)).trans (by simp only [decVfp, rsv, fld_pack, extract_cat_hi, extract_cat_lo, BitVec.extractLsb'_eq_self, Nat.reduceLeDiff, Nat.reduceSub, Nat.reduceAdd, Nat.le_refl, Nat.sub_self, BitVec.reduceExtractLsb', BitVec.reduceBEq, beq_self_eq_true, if_true, if_false, Bool.and_self, Bool.false_eq_true, BitVec.ofBool_true, BitVec.ofBool_false, withFTy, FTy.bits, boolOf]))
theorem Codec.vfexp2 (d : Reg) (a : Reg) (k : KReg) (t : FTy) : Codec.Statement (.vfexp2 d a k t) := by
  cases t <;> exact Codec.of rfl ((decode_of_decVfp _ (fld_major _ _ _)).trans (by simp only [decVfp, rsv, fld_pack, extract_cat_hi, extract_cat_lo, BitVec.extractLsb'_eq_self, Nat.reduceLeDiff, Nat.reduceSub, Nat.reduceAdd, Nat.le_refl, Nat.sub_self, BitVec.reduceExtractLsb', BitVec.reduceBEq, beq_self_eq_true, if_true, if_false, Bool.and_self, Bool.false_eq_true, BitVec.ofBool_true, BitVec.ofBool_false, withFTy, FTy.bits]))
theorem Codec.vflog2 (d : Reg) (a : Reg) (k : KReg) (t : FTy) : Codec.Statement (.vflog2 d a k t) := by
  cases t <;> exact Codec.of rfl ((decode_of_decVfp _ (fld_major _ _ _)).trans (by simp only [decVfp, rsv, fld_pack, extract_cat_hi, extract_cat_lo, BitVec.extractLsb'_eq_self, Nat.reduceLeDiff, Nat.reduceSub, Nat.reduceAdd, Nat.le_refl, Nat.sub_self, BitVec.reduceExtractLsb', BitVec.reduceBEq, beq_self_eq_true, if_true, if_false, Bool.and_self, Bool.false_eq_true, BitVec.ofBool_true, BitVec.ofBool_false, withFTy, FTy.bits]))
theorem Codec.vfrcp (d : Reg) (a : Reg) (k : KReg) (t : FTy) : Codec.Statement (.vfrcp d a k t) := by
  cases t <;> exact Codec.of rfl ((decode_of_decVfp _ (fld_major _ _ _)).trans (by simp only [decVfp, rsv, fld_pack, extract_cat_hi, extract_cat_lo, BitVec.extractLsb'_eq_self, Nat.reduceLeDiff, Nat.reduceSub, Nat.reduceAdd, Nat.le_refl, Nat.sub_self, BitVec.reduceExtractLsb', BitVec.reduceBEq, beq_self_eq_true, if_true, if_false, Bool.and_self, Bool.false_eq_true, BitVec.ofBool_true, BitVec.ofBool_false, withFTy, FTy.bits]))
theorem Codec.vfrsq (d : Reg) (a : Reg) (k : KReg) (t : FTy) : Codec.Statement (.vfrsq d a k t) := by
  cases t <;> exact Codec.of rfl ((decode_of_decVfp _ (fld_major _ _ _)).trans (by simp only [decVfp, rsv, fld_pack, extract_cat_hi, extract_cat_lo, BitVec.extractLsb'_eq_self, Nat.reduceLeDiff, Nat.reduceSub, Nat.reduceAdd, Nat.le_refl, Nat.sub_self, BitVec.reduceExtractLsb', BitVec.reduceBEq, beq_self_eq_true, if_true, if_false, Bool.and_self, Bool.false_eq_true, BitVec.ofBool_true, BitVec.ofBool_false, withFTy, FTy.bits]))
theorem Codec.vfma (d : Reg) (a : Reg) (b : Reg) (c : Reg) (k : KReg) : Codec.Statement (.vfma d a b c k) := by
  exact Codec.of rfl ((decode_of_decVfma _ (fld_major _ _ _)).trans (by simp only [decVfma, rsv, fld_pack, extract_cat_hi, extract_cat_lo, BitVec.extractLsb'_eq_self, Nat.reduceLeDiff, Nat.reduceSub, Nat.reduceAdd, Nat.le_refl, Nat.sub_self, BitVec.reduceExtractLsb', BitVec.reduceBEq, beq_self_eq_true, if_true, if_false, Bool.and_self, Bool.false_eq_true, BitVec.ofBool_true, BitVec.ofBool_false]))
theorem Codec.vfms (d : Reg) (a : Reg) (b : Reg) (c : Reg) (k : KReg) : Codec.Statement (.vfms d a b c k) := by
  exact Codec.of rfl ((decode_of_decVfma _ (fld_major _ _ _)).trans (by simp only [decVfma, rsv, fld_pack, extract_cat_hi, extract_cat_lo, BitVec.extractLsb'_eq_self, Nat.reduceLeDiff, Nat.reduceSub, Nat.reduceAdd, Nat.le_refl, Nat.sub_self, BitVec.reduceExtractLsb', BitVec.reduceBEq, beq_self_eq_true, if_true, if_false, Bool.and_self, Bool.false_eq_true, BitVec.ofBool_true, BitVec.ofBool_false]))
theorem Codec.vfnma (d : Reg) (a : Reg) (b : Reg) (c : Reg) (k : KReg) : Codec.Statement (.vfnma d a b c k) := by
  exact Codec.of rfl ((decode_of_decVfma _ (fld_major _ _ _)).trans (by simp only [decVfma, rsv, fld_pack, extract_cat_hi, extract_cat_lo, BitVec.extractLsb'_eq_self, Nat.reduceLeDiff, Nat.reduceSub, Nat.reduceAdd, Nat.le_refl, Nat.sub_self, BitVec.reduceExtractLsb', BitVec.reduceBEq, beq_self_eq_true, if_true, if_false, Bool.and_self, Bool.false_eq_true, BitVec.ofBool_true, BitVec.ofBool_false]))
theorem Codec.vcvt (d : Reg) (a : Reg) (z : Bool) (p : BitVec 2) (k : KReg) : Codec.Statement (.vcvt d a z p k) := by
  cases z <;> exact Codec.of rfl ((decode_of_decVcvt _ (fld_major _ _ _)).trans (by simp only [decVcvt, rsv, fld_pack, extract_cat_hi, extract_cat_lo, BitVec.extractLsb'_eq_self, Nat.reduceLeDiff, Nat.reduceSub, Nat.reduceAdd, Nat.le_refl, Nat.sub_self, BitVec.reduceExtractLsb', BitVec.reduceBEq, beq_self_eq_true, if_true, if_false, Bool.and_self, Bool.false_eq_true, BitVec.ofBool_true, BitVec.ofBool_false, boolOf]))
theorem Codec.vqblk (d : Reg) (a : Reg) (p : BitVec 2) (k : KReg) : Codec.Statement (.vqblk d a p k) := by
  exact Codec.of rfl ((decode_of_decVcvt _ (fld_major _ _ _)).trans (by simp only [decVcvt, rsv, fld_pack, extract_cat_hi, extract_cat_lo, BitVec.extractLsb'_eq_self, Nat.reduceLeDiff, Nat.reduceSub, Nat.reduceAdd, Nat.le_refl, Nat.sub_self, BitVec.reduceExtractLsb', BitVec.reduceBEq, beq_self_eq_true, if_true, if_false, Bool.and_self, Bool.false_eq_true, BitVec.ofBool_true, BitVec.ofBool_false]))
theorem Codec.vdqblk (d : Reg) (a : Reg) (z : Bool) (p : BitVec 2) (k : KReg) : Codec.Statement (.vdqblk d a z p k) := by
  cases z <;> exact Codec.of rfl ((decode_of_decVcvt _ (fld_major _ _ _)).trans (by simp only [decVcvt, rsv, fld_pack, extract_cat_hi, extract_cat_lo, BitVec.extractLsb'_eq_self, Nat.reduceLeDiff, Nat.reduceSub, Nat.reduceAdd, Nat.le_refl, Nat.sub_self, BitVec.reduceExtractLsb', BitVec.reduceBEq, beq_self_eq_true, if_true, if_false, Bool.and_self, Bool.false_eq_true, BitVec.ofBool_true, BitVec.ofBool_false, boolOf]))
theorem Codec.vrsum (d : Reg) (a : Reg) (k : KReg) (t : RTy) : Codec.Statement (.vrsum d a k t) := by
  cases t <;> exact Codec.of rfl ((decode_of_decVred _ (fld_major _ _ _)).trans (by simp only [decVred, rsv, fld_pack, extract_cat_hi, extract_cat_lo, BitVec.extractLsb'_eq_self, Nat.reduceLeDiff, Nat.reduceSub, Nat.reduceAdd, Nat.le_refl, Nat.sub_self, BitVec.reduceExtractLsb', BitVec.reduceBEq, beq_self_eq_true, if_true, if_false, Bool.and_self, Bool.false_eq_true, BitVec.ofBool_true, BitVec.ofBool_false, rtyOf, RTy.bit]))
theorem Codec.vrmax (d : Reg) (a : Reg) (k : KReg) (t : RTy) : Codec.Statement (.vrmax d a k t) := by
  cases t <;> exact Codec.of rfl ((decode_of_decVred _ (fld_major _ _ _)).trans (by simp only [decVred, rsv, fld_pack, extract_cat_hi, extract_cat_lo, BitVec.extractLsb'_eq_self, Nat.reduceLeDiff, Nat.reduceSub, Nat.reduceAdd, Nat.le_refl, Nat.sub_self, BitVec.reduceExtractLsb', BitVec.reduceBEq, beq_self_eq_true, if_true, if_false, Bool.and_self, Bool.false_eq_true, BitVec.ofBool_true, BitVec.ofBool_false, rtyOf, RTy.bit]))
theorem Codec.vrmin (d : Reg) (a : Reg) (k : KReg) (t : RTy) : Codec.Statement (.vrmin d a k t) := by
  cases t <;> exact Codec.of rfl ((decode_of_decVred _ (fld_major _ _ _)).trans (by simp only [decVred, rsv, fld_pack, extract_cat_hi, extract_cat_lo, BitVec.extractLsb'_eq_self, Nat.reduceLeDiff, Nat.reduceSub, Nat.reduceAdd, Nat.le_refl, Nat.sub_self, BitVec.reduceExtractLsb', BitVec.reduceBEq, beq_self_eq_true, if_true, if_false, Bool.and_self, Bool.false_eq_true, BitVec.ofBool_true, BitVec.ofBool_false, rtyOf, RTy.bit]))
theorem Codec.vscan (d : Reg) (a : Reg) (k : KReg) (t : RTy) : Codec.Statement (.vscan d a k t) := by
  cases t <;> exact Codec.of rfl ((decode_of_decVred _ (fld_major _ _ _)).trans (by simp only [decVred, rsv, fld_pack, extract_cat_hi, extract_cat_lo, BitVec.extractLsb'_eq_self, Nat.reduceLeDiff, Nat.reduceSub, Nat.reduceAdd, Nat.le_refl, Nat.sub_self, BitVec.reduceExtractLsb', BitVec.reduceBEq, beq_self_eq_true, if_true, if_false, Bool.and_self, Bool.false_eq_true, BitVec.ofBool_true, BitVec.ofBool_false, rtyOf, RTy.bit]))
theorem Codec.vbcast (d : Reg) (a : Reg) (z : Bool) (w : PermW) (k : KReg) : Codec.Statement (.vbcast d a z w k) := by
  cases z <;> cases w <;> exact Codec.of rfl ((decode_of_decVperm _ (fld_major _ _ _)).trans (by simp only [decVperm, rsv, fld_pack, extract_cat_hi, extract_cat_lo, BitVec.extractLsb'_eq_self, Nat.reduceLeDiff, Nat.reduceSub, Nat.reduceAdd, Nat.le_refl, Nat.sub_self, BitVec.reduceExtractLsb', BitVec.reduceBEq, beq_self_eq_true, if_true, if_false, Bool.and_self, Bool.false_eq_true, BitVec.ofBool_true, BitVec.ofBool_false, permWOf, PermW.bits, boolOf]))
theorem Codec.vextr (d : Reg) (a : Reg) (b : Reg) (w : PermW) : Codec.Statement (.vextr d a b w) := by
  cases w <;> exact Codec.of rfl ((decode_of_decVperm _ (fld_major _ _ _)).trans (by simp only [decVperm, rsv, fld_pack, extract_cat_hi, extract_cat_lo, BitVec.extractLsb'_eq_self, Nat.reduceLeDiff, Nat.reduceSub, Nat.reduceAdd, Nat.le_refl, Nat.sub_self, BitVec.reduceExtractLsb', BitVec.reduceBEq, beq_self_eq_true, if_true, if_false, Bool.and_self, Bool.false_eq_true, BitVec.ofBool_true, BitVec.ofBool_false, permWOf, PermW.bits]))
theorem Codec.vins (d : Reg) (a : Reg) (b : Reg) (w : PermW) : Codec.Statement (.vins d a b w) := by
  cases w <;> exact Codec.of rfl ((decode_of_decVperm _ (fld_major _ _ _)).trans (by simp only [decVperm, rsv, fld_pack, extract_cat_hi, extract_cat_lo, BitVec.extractLsb'_eq_self, Nat.reduceLeDiff, Nat.reduceSub, Nat.reduceAdd, Nat.le_refl, Nat.sub_self, BitVec.reduceExtractLsb', BitVec.reduceBEq, beq_self_eq_true, if_true, if_false, Bool.and_self, Bool.false_eq_true, BitVec.ofBool_true, BitVec.ofBool_false, permWOf, PermW.bits]))
theorem Codec.vperm (d : Reg) (a : Reg) (b : Reg) (k : KReg) : Codec.Statement (.vperm d a b k) := by
  exact Codec.of rfl ((decode_of_decVperm _ (fld_major _ _ _)).trans (by simp only [decVperm, rsv, fld_pack, extract_cat_hi, extract_cat_lo, BitVec.extractLsb'_eq_self, Nat.reduceLeDiff, Nat.reduceSub, Nat.reduceAdd, Nat.le_refl, Nat.sub_self, BitVec.reduceExtractLsb', BitVec.reduceBEq, beq_self_eq_true, if_true, if_false, Bool.and_self, Bool.false_eq_true, BitVec.ofBool_true, BitVec.ofBool_false]))
theorem Codec.vslide (d : Reg) (a : Reg) (s : BitVec 5) (k : KReg) : Codec.Statement (.vslide d a s k) := by
  exact Codec.of rfl ((decode_of_decVperm _ (fld_major _ _ _)).trans (by simp only [decVperm, rsv, fld_pack, extract_cat_hi, extract_cat_lo, BitVec.extractLsb'_eq_self, Nat.reduceLeDiff, Nat.reduceSub, Nat.reduceAdd, Nat.le_refl, Nat.sub_self, BitVec.reduceExtractLsb', BitVec.reduceBEq, beq_self_eq_true, if_true, if_false, Bool.and_self, Bool.false_eq_true, BitVec.ofBool_true, BitVec.ofBool_false]))
theorem Codec.vsel (d : Reg) (a : Reg) (b : Reg) (k : KReg) : Codec.Statement (.vsel d a b k) := by
  exact Codec.of rfl ((decode_of_decVperm _ (fld_major _ _ _)).trans (by simp only [decVperm, rsv, fld_pack, extract_cat_hi, extract_cat_lo, BitVec.extractLsb'_eq_self, Nat.reduceLeDiff, Nat.reduceSub, Nat.reduceAdd, Nat.le_refl, Nat.sub_self, BitVec.reduceExtractLsb', BitVec.reduceBEq, beq_self_eq_true, if_true, if_false, Bool.and_self, Bool.false_eq_true, BitVec.ofBool_true, BitVec.ofBool_false]))
theorem Codec.vcmpEq (d : Reg) (a : Reg) (b : Reg) (k : KReg) : Codec.Statement (.vcmpEq d a b k) := by
  exact Codec.of rfl ((decode_of_decVmask _ (fld_major _ _ _)).trans (by simp only [decVmask, rsv, fld_pack, extract_cat_hi, extract_cat_lo, BitVec.extractLsb'_eq_self, Nat.reduceLeDiff, Nat.reduceSub, Nat.reduceAdd, Nat.le_refl, Nat.sub_self, BitVec.reduceExtractLsb', BitVec.reduceBEq, beq_self_eq_true, if_true, if_false, Bool.and_self, Bool.false_eq_true, BitVec.ofBool_true, BitVec.ofBool_false]))
theorem Codec.vcmpNe (d : Reg) (a : Reg) (b : Reg) (k : KReg) : Codec.Statement (.vcmpNe d a b k) := by
  exact Codec.of rfl ((decode_of_decVmask _ (fld_major _ _ _)).trans (by simp only [decVmask, rsv, fld_pack, extract_cat_hi, extract_cat_lo, BitVec.extractLsb'_eq_self, Nat.reduceLeDiff, Nat.reduceSub, Nat.reduceAdd, Nat.le_refl, Nat.sub_self, BitVec.reduceExtractLsb', BitVec.reduceBEq, beq_self_eq_true, if_true, if_false, Bool.and_self, Bool.false_eq_true, BitVec.ofBool_true, BitVec.ofBool_false]))
theorem Codec.vcmpLt (d : Reg) (a : Reg) (b : Reg) (k : KReg) : Codec.Statement (.vcmpLt d a b k) := by
  exact Codec.of rfl ((decode_of_decVmask _ (fld_major _ _ _)).trans (by simp only [decVmask, rsv, fld_pack, extract_cat_hi, extract_cat_lo, BitVec.extractLsb'_eq_self, Nat.reduceLeDiff, Nat.reduceSub, Nat.reduceAdd, Nat.le_refl, Nat.sub_self, BitVec.reduceExtractLsb', BitVec.reduceBEq, beq_self_eq_true, if_true, if_false, Bool.and_self, Bool.false_eq_true, BitVec.ofBool_true, BitVec.ofBool_false]))
theorem Codec.vcmpLe (d : Reg) (a : Reg) (b : Reg) (k : KReg) : Codec.Statement (.vcmpLe d a b k) := by
  exact Codec.of rfl ((decode_of_decVmask _ (fld_major _ _ _)).trans (by simp only [decVmask, rsv, fld_pack, extract_cat_hi, extract_cat_lo, BitVec.extractLsb'_eq_self, Nat.reduceLeDiff, Nat.reduceSub, Nat.reduceAdd, Nat.le_refl, Nat.sub_self, BitVec.reduceExtractLsb', BitVec.reduceBEq, beq_self_eq_true, if_true, if_false, Bool.and_self, Bool.false_eq_true, BitVec.ofBool_true, BitVec.ofBool_false]))
theorem Codec.vcmpLtu (d : Reg) (a : Reg) (b : Reg) (k : KReg) : Codec.Statement (.vcmpLtu d a b k) := by
  exact Codec.of rfl ((decode_of_decVmask _ (fld_major _ _ _)).trans (by simp only [decVmask, rsv, fld_pack, extract_cat_hi, extract_cat_lo, BitVec.extractLsb'_eq_self, Nat.reduceLeDiff, Nat.reduceSub, Nat.reduceAdd, Nat.le_refl, Nat.sub_self, BitVec.reduceExtractLsb', BitVec.reduceBEq, beq_self_eq_true, if_true, if_false, Bool.and_self, Bool.false_eq_true, BitVec.ofBool_true, BitVec.ofBool_false]))
theorem Codec.vcmpLeu (d : Reg) (a : Reg) (b : Reg) (k : KReg) : Codec.Statement (.vcmpLeu d a b k) := by
  exact Codec.of rfl ((decode_of_decVmask _ (fld_major _ _ _)).trans (by simp only [decVmask, rsv, fld_pack, extract_cat_hi, extract_cat_lo, BitVec.extractLsb'_eq_self, Nat.reduceLeDiff, Nat.reduceSub, Nat.reduceAdd, Nat.le_refl, Nat.sub_self, BitVec.reduceExtractLsb', BitVec.reduceBEq, beq_self_eq_true, if_true, if_false, Bool.and_self, Bool.false_eq_true, BitVec.ofBool_true, BitVec.ofBool_false]))
theorem Codec.vfcmpEq (d : Reg) (a : Reg) (b : Reg) (k : KReg) : Codec.Statement (.vfcmpEq d a b k) := by
  exact Codec.of rfl ((decode_of_decVmask _ (fld_major _ _ _)).trans (by simp only [decVmask, rsv, fld_pack, extract_cat_hi, extract_cat_lo, BitVec.extractLsb'_eq_self, Nat.reduceLeDiff, Nat.reduceSub, Nat.reduceAdd, Nat.le_refl, Nat.sub_self, BitVec.reduceExtractLsb', BitVec.reduceBEq, beq_self_eq_true, if_true, if_false, Bool.and_self, Bool.false_eq_true, BitVec.ofBool_true, BitVec.ofBool_false]))
theorem Codec.vfcmpLt (d : Reg) (a : Reg) (b : Reg) (k : KReg) : Codec.Statement (.vfcmpLt d a b k) := by
  exact Codec.of rfl ((decode_of_decVmask _ (fld_major _ _ _)).trans (by simp only [decVmask, rsv, fld_pack, extract_cat_hi, extract_cat_lo, BitVec.extractLsb'_eq_self, Nat.reduceLeDiff, Nat.reduceSub, Nat.reduceAdd, Nat.le_refl, Nat.sub_self, BitVec.reduceExtractLsb', BitVec.reduceBEq, beq_self_eq_true, if_true, if_false, Bool.and_self, Bool.false_eq_true, BitVec.ofBool_true, BitVec.ofBool_false]))
theorem Codec.vfcmpLe (d : Reg) (a : Reg) (b : Reg) (k : KReg) : Codec.Statement (.vfcmpLe d a b k) := by
  exact Codec.of rfl ((decode_of_decVmask _ (fld_major _ _ _)).trans (by simp only [decVmask, rsv, fld_pack, extract_cat_hi, extract_cat_lo, BitVec.extractLsb'_eq_self, Nat.reduceLeDiff, Nat.reduceSub, Nat.reduceAdd, Nat.le_refl, Nat.sub_self, BitVec.reduceExtractLsb', BitVec.reduceBEq, beq_self_eq_true, if_true, if_false, Bool.and_self, Bool.false_eq_true, BitVec.ofBool_true, BitVec.ofBool_false]))
theorem Codec.vfcmpUn (d : Reg) (a : Reg) (b : Reg) (k : KReg) : Codec.Statement (.vfcmpUn d a b k) := by
  exact Codec.of rfl ((decode_of_decVmask _ (fld_major _ _ _)).trans (by simp only [decVmask, rsv, fld_pack, extract_cat_hi, extract_cat_lo, BitVec.extractLsb'_eq_self, Nat.reduceLeDiff, Nat.reduceSub, Nat.reduceAdd, Nat.le_refl, Nat.sub_self, BitVec.reduceExtractLsb', BitVec.reduceBEq, beq_self_eq_true, if_true, if_false, Bool.and_self, Bool.false_eq_true, BitVec.ofBool_true, BitVec.ofBool_false]))
theorem Codec.kand (d : Reg) (a : Reg) (b : Reg) : Codec.Statement (.kand d a b) := by
  exact Codec.of rfl ((decode_of_decVmask _ (fld_major _ _ _)).trans (by simp only [decVmask, rsv, fld_pack, extract_cat_hi, extract_cat_lo, BitVec.extractLsb'_eq_self, Nat.reduceLeDiff, Nat.reduceSub, Nat.reduceAdd, Nat.le_refl, Nat.sub_self, BitVec.reduceExtractLsb', BitVec.reduceBEq, beq_self_eq_true, if_true, if_false, Bool.and_self, Bool.false_eq_true, BitVec.ofBool_true, BitVec.ofBool_false]))
theorem Codec.kor (d : Reg) (a : Reg) (b : Reg) : Codec.Statement (.kor d a b) := by
  exact Codec.of rfl ((decode_of_decVmask _ (fld_major _ _ _)).trans (by simp only [decVmask, rsv, fld_pack, extract_cat_hi, extract_cat_lo, BitVec.extractLsb'_eq_self, Nat.reduceLeDiff, Nat.reduceSub, Nat.reduceAdd, Nat.le_refl, Nat.sub_self, BitVec.reduceExtractLsb', BitVec.reduceBEq, beq_self_eq_true, if_true, if_false, Bool.and_self, Bool.false_eq_true, BitVec.ofBool_true, BitVec.ofBool_false]))
theorem Codec.kxor (d : Reg) (a : Reg) (b : Reg) : Codec.Statement (.kxor d a b) := by
  exact Codec.of rfl ((decode_of_decVmask _ (fld_major _ _ _)).trans (by simp only [decVmask, rsv, fld_pack, extract_cat_hi, extract_cat_lo, BitVec.extractLsb'_eq_self, Nat.reduceLeDiff, Nat.reduceSub, Nat.reduceAdd, Nat.le_refl, Nat.sub_self, BitVec.reduceExtractLsb', BitVec.reduceBEq, beq_self_eq_true, if_true, if_false, Bool.and_self, Bool.false_eq_true, BitVec.ofBool_true, BitVec.ofBool_false]))
theorem Codec.kandn (d : Reg) (a : Reg) (b : Reg) : Codec.Statement (.kandn d a b) := by
  exact Codec.of rfl ((decode_of_decVmask _ (fld_major _ _ _)).trans (by simp only [decVmask, rsv, fld_pack, extract_cat_hi, extract_cat_lo, BitVec.extractLsb'_eq_self, Nat.reduceLeDiff, Nat.reduceSub, Nat.reduceAdd, Nat.le_refl, Nat.sub_self, BitVec.reduceExtractLsb', BitVec.reduceBEq, beq_self_eq_true, if_true, if_false, Bool.and_self, Bool.false_eq_true, BitVec.ofBool_true, BitVec.ofBool_false]))
theorem Codec.kmovToG (d : Reg) (a : Reg) : Codec.Statement (.kmovToG d a) := by
  exact Codec.of rfl ((decode_of_decVmask _ (fld_major _ _ _)).trans (by simp only [decVmask, rsv, fld_pack, extract_cat_hi, extract_cat_lo, BitVec.extractLsb'_eq_self, Nat.reduceLeDiff, Nat.reduceSub, Nat.reduceAdd, Nat.le_refl, Nat.sub_self, BitVec.reduceExtractLsb', BitVec.reduceBEq, beq_self_eq_true, if_true, if_false, Bool.and_self, Bool.false_eq_true, BitVec.ofBool_true, BitVec.ofBool_false]))
theorem Codec.kmovFromG (d : Reg) (a : Reg) : Codec.Statement (.kmovFromG d a) := by
  exact Codec.of rfl ((decode_of_decVmask _ (fld_major _ _ _)).trans (by simp only [decVmask, rsv, fld_pack, extract_cat_hi, extract_cat_lo, BitVec.extractLsb'_eq_self, Nat.reduceLeDiff, Nat.reduceSub, Nat.reduceAdd, Nat.le_refl, Nat.sub_self, BitVec.reduceExtractLsb', BitVec.reduceBEq, beq_self_eq_true, if_true, if_false, Bool.and_self, Bool.false_eq_true, BitVec.ofBool_true, BitVec.ofBool_false]))
theorem Codec.kpopc (d : Reg) (a : Reg) : Codec.Statement (.kpopc d a) := by
  exact Codec.of rfl ((decode_of_decVmask _ (fld_major _ _ _)).trans (by simp only [decVmask, rsv, fld_pack, extract_cat_hi, extract_cat_lo, BitVec.extractLsb'_eq_self, Nat.reduceLeDiff, Nat.reduceSub, Nat.reduceAdd, Nat.le_refl, Nat.sub_self, BitVec.reduceExtractLsb', BitVec.reduceBEq, beq_self_eq_true, if_true, if_false, Bool.and_self, Bool.false_eq_true, BitVec.ofBool_true, BitVec.ofBool_false]))
theorem Codec.vaddc (d : Reg) (a : Reg) (b : Reg) (c : KReg) : Codec.Statement (.vaddc d a b c) := by
  exact Codec.of rfl ((decode_of_decVwide _ (fld_major _ _ _)).trans (by simp only [decVwide, rsv, fld_pack, extract_cat_hi, extract_cat_lo, BitVec.extractLsb'_eq_self, Nat.reduceLeDiff, Nat.reduceSub, Nat.reduceAdd, Nat.le_refl, Nat.sub_self, BitVec.reduceExtractLsb', BitVec.reduceBEq, beq_self_eq_true, if_true, if_false, Bool.and_self, Bool.false_eq_true, BitVec.ofBool_true, BitVec.ofBool_false]))
theorem Codec.vsubb (d : Reg) (a : Reg) (b : Reg) (c : KReg) : Codec.Statement (.vsubb d a b c) := by
  exact Codec.of rfl ((decode_of_decVwide _ (fld_major _ _ _)).trans (by simp only [decVwide, rsv, fld_pack, extract_cat_hi, extract_cat_lo, BitVec.extractLsb'_eq_self, Nat.reduceLeDiff, Nat.reduceSub, Nat.reduceAdd, Nat.le_refl, Nat.sub_self, BitVec.reduceExtractLsb', BitVec.reduceBEq, beq_self_eq_true, if_true, if_false, Bool.and_self, Bool.false_eq_true, BitVec.ofBool_true, BitVec.ofBool_false]))
theorem Codec.vrnsf (d : Reg) (a : Reg) (b : Reg) (k : KReg) : Codec.Statement (.vrnsf d a b k) := by
  exact Codec.of rfl ((decode_of_decVwide _ (fld_major _ _ _)).trans (by simp only [decVwide, rsv, fld_pack, extract_cat_hi, extract_cat_lo, BitVec.extractLsb'_eq_self, Nat.reduceLeDiff, Nat.reduceSub, Nat.reduceAdd, Nat.le_refl, Nat.sub_self, BitVec.reduceExtractLsb', BitVec.reduceBEq, beq_self_eq_true, if_true, if_false, Bool.and_self, Bool.false_eq_true, BitVec.ofBool_true, BitVec.ofBool_false]))
theorem Codec.vrnsr (d : Reg) (a : Reg) (b : Reg) (k : KReg) : Codec.Statement (.vrnsr d a b k) := by
  exact Codec.of rfl ((decode_of_decVwide _ (fld_major _ _ _)).trans (by simp only [decVwide, rsv, fld_pack, extract_cat_hi, extract_cat_lo, BitVec.extractLsb'_eq_self, Nat.reduceLeDiff, Nat.reduceSub, Nat.reduceAdd, Nat.le_refl, Nat.sub_self, BitVec.reduceExtractLsb', BitVec.reduceBEq, beq_self_eq_true, if_true, if_false, Bool.and_self, Bool.false_eq_true, BitVec.ofBool_true, BitVec.ofBool_false]))
theorem Codec.vld (v : Reg) (a : Reg) (k : KReg) (o : BitVec 5) : Codec.Statement (.vld v a k o) := by
  exact Codec.of rfl ((decode_of_decVmem _ (fld_major _ _ _)).trans (by simp only [decVmem, rsv, fld_pack, extract_cat_hi, extract_cat_lo, BitVec.extractLsb'_eq_self, Nat.reduceLeDiff, Nat.reduceSub, Nat.reduceAdd, Nat.le_refl, Nat.sub_self, BitVec.reduceExtractLsb', BitVec.reduceBEq, beq_self_eq_true, if_true, if_false, Bool.and_self, Bool.false_eq_true, BitVec.ofBool_true, BitVec.ofBool_false]))
theorem Codec.vst (v : Reg) (a : Reg) (k : KReg) (o : BitVec 5) : Codec.Statement (.vst v a k o) := by
  exact Codec.of rfl ((decode_of_decVmem _ (fld_major _ _ _)).trans (by simp only [decVmem, rsv, fld_pack, extract_cat_hi, extract_cat_lo, BitVec.extractLsb'_eq_self, Nat.reduceLeDiff, Nat.reduceSub, Nat.reduceAdd, Nat.le_refl, Nat.sub_self, BitVec.reduceExtractLsb', BitVec.reduceBEq, beq_self_eq_true, if_true, if_false, Bool.and_self, Bool.false_eq_true, BitVec.ofBool_true, BitVec.ofBool_false]))
theorem Codec.vlds (v : Reg) (a : Reg) (b : Reg) (k : KReg) (o : BitVec 5) : Codec.Statement (.vlds v a b k o) := by
  exact Codec.of rfl ((decode_of_decVmem _ (fld_major _ _ _)).trans (by simp only [decVmem, rsv, fld_pack, extract_cat_hi, extract_cat_lo, BitVec.extractLsb'_eq_self, Nat.reduceLeDiff, Nat.reduceSub, Nat.reduceAdd, Nat.le_refl, Nat.sub_self, BitVec.reduceExtractLsb', BitVec.reduceBEq, beq_self_eq_true, if_true, if_false, Bool.and_self, Bool.false_eq_true, BitVec.ofBool_true, BitVec.ofBool_false]))
theorem Codec.vsts (v : Reg) (a : Reg) (b : Reg) (k : KReg) (o : BitVec 5) : Codec.Statement (.vsts v a b k o) := by
  exact Codec.of rfl ((decode_of_decVmem _ (fld_major _ _ _)).trans (by simp only [decVmem, rsv, fld_pack, extract_cat_hi, extract_cat_lo, BitVec.extractLsb'_eq_self, Nat.reduceLeDiff, Nat.reduceSub, Nat.reduceAdd, Nat.le_refl, Nat.sub_self, BitVec.reduceExtractLsb', BitVec.reduceBEq, beq_self_eq_true, if_true, if_false, Bool.and_self, Bool.false_eq_true, BitVec.ofBool_true, BitVec.ofBool_false]))
theorem Codec.vldx (v : Reg) (a : Reg) (b : Reg) (k : KReg) (o : BitVec 5) : Codec.Statement (.vldx v a b k o) := by
  exact Codec.of rfl ((decode_of_decVmem _ (fld_major _ _ _)).trans (by simp only [decVmem, rsv, fld_pack, extract_cat_hi, extract_cat_lo, BitVec.extractLsb'_eq_self, Nat.reduceLeDiff, Nat.reduceSub, Nat.reduceAdd, Nat.le_refl, Nat.sub_self, BitVec.reduceExtractLsb', BitVec.reduceBEq, beq_self_eq_true, if_true, if_false, Bool.and_self, Bool.false_eq_true, BitVec.ofBool_true, BitVec.ofBool_false]))
theorem Codec.vstx (v : Reg) (a : Reg) (b : Reg) (k : KReg) (o : BitVec 5) : Codec.Statement (.vstx v a b k o) := by
  exact Codec.of rfl ((decode_of_decVmem _ (fld_major _ _ _)).trans (by simp only [decVmem, rsv, fld_pack, extract_cat_hi, extract_cat_lo, BitVec.extractLsb'_eq_self, Nat.reduceLeDiff, Nat.reduceSub, Nat.reduceAdd, Nat.le_refl, Nat.sub_self, BitVec.reduceExtractLsb', BitVec.reduceBEq, beq_self_eq_true, if_true, if_false, Bool.and_self, Bool.false_eq_true, BitVec.ofBool_true, BitVec.ofBool_false]))
theorem Codec.vscatadd (v : Reg) (a : Reg) (b : Reg) (k : KReg) (t : RTy) : Codec.Statement (.vscatadd v a b k t) := by
  cases t <;> exact Codec.of rfl ((decode_of_decVmem _ (fld_major _ _ _)).trans (by simp only [decVmem, rsv, fld_pack, extract_cat_hi, extract_cat_lo, BitVec.extractLsb'_eq_self, Nat.reduceLeDiff, Nat.reduceSub, Nat.reduceAdd, Nat.le_refl, Nat.sub_self, BitVec.reduceExtractLsb', BitVec.reduceBEq, beq_self_eq_true, if_true, if_false, Bool.and_self, Bool.false_eq_true, BitVec.ofBool_true, BitVec.ofBool_false, rtyOf, RTy.bit]))
theorem Codec.fmtx (a : BitVec 4) (b : BitVec 4) (c : BitVec 3) (s : BitVec 2) (r : BitVec 3) (t : Bool) (d : BitVec 4) : Codec.Statement (.fmtx a b c s r t d) := by
  cases t <;> exact Codec.of rfl ((decode_of_decFmtx _ (fld_major _ _ _)).trans (by simp only [decFmtx, rsv, fld_pack, extract_cat_hi, extract_cat_lo, BitVec.extractLsb'_eq_self, Nat.reduceLeDiff, Nat.reduceSub, Nat.reduceAdd, Nat.le_refl, Nat.sub_self, BitVec.reduceExtractLsb', BitVec.reduceBEq, beq_self_eq_true, if_true, if_false, Bool.and_self, Bool.false_eq_true, BitVec.ofBool_true, BitVec.ofBool_false, boolOf]))
theorem Codec.gets (d : Reg) (n : BitVec 12) : Codec.Statement (.gets d n) := by
  exact Codec.of rfl ((decode_of_decSys _ (fld_major _ _ _)).trans (by simp only [decSys, rsv, fld_pack, extract_cat_hi, extract_cat_lo, BitVec.extractLsb'_eq_self, Nat.reduceLeDiff, Nat.reduceSub, Nat.reduceAdd, Nat.le_refl, Nat.sub_self, BitVec.reduceExtractLsb', BitVec.reduceBEq, beq_self_eq_true, if_true, if_false, Bool.and_self, Bool.false_eq_true, BitVec.ofBool_true, BitVec.ofBool_false]))
theorem Codec.sets (s : Reg) (n : BitVec 12) : Codec.Statement (.sets s n) := by
  exact Codec.of rfl ((decode_of_decSys _ (fld_major _ _ _)).trans (by simp only [decSys, rsv, fld_pack, extract_cat_hi, extract_cat_lo, BitVec.extractLsb'_eq_self, Nat.reduceLeDiff, Nat.reduceSub, Nat.reduceAdd, Nat.le_refl, Nat.sub_self, BitVec.reduceExtractLsb', BitVec.reduceBEq, beq_self_eq_true, if_true, if_false, Bool.and_self, Bool.false_eq_true, BitVec.ofBool_true, BitVec.ofBool_false]))
theorem Codec.brk (c : BitVec 12) : Codec.Statement (.brk c) := by
  exact Codec.of rfl ((decode_of_decSys _ (fld_major _ _ _)).trans (by simp only [decSys, rsv, fld_pack, extract_cat_hi, extract_cat_lo, BitVec.extractLsb'_eq_self, Nat.reduceLeDiff, Nat.reduceSub, Nat.reduceAdd, Nat.le_refl, Nat.sub_self, BitVec.reduceExtractLsb', BitVec.reduceBEq, beq_self_eq_true, if_true, if_false, Bool.and_self, Bool.false_eq_true, BitVec.ofBool_true, BitVec.ofBool_false]))
theorem Codec.send (v : Bool) (a : Reg) (b : Reg) (n : BitVec 5) : Codec.Statement (.send v a b n) := by
  cases v <;> exact Codec.of rfl ((decode_of_decMsg _ (fld_major _ _ _)).trans (by simp only [decMsg, rsv, fld_pack, extract_cat_hi, extract_cat_lo, BitVec.extractLsb'_eq_self, Nat.reduceLeDiff, Nat.reduceSub, Nat.reduceAdd, Nat.le_refl, Nat.sub_self, BitVec.reduceExtractLsb', BitVec.reduceBEq, beq_self_eq_true, if_true, if_false, Bool.and_self, Bool.false_eq_true, BitVec.ofBool_true, BitVec.ofBool_false, boolOf]))
theorem Codec.reply (v : Bool) (a : Reg) (b : Reg) (n : BitVec 5) : Codec.Statement (.reply v a b n) := by
  cases v <;> exact Codec.of rfl ((decode_of_decMsg _ (fld_major _ _ _)).trans (by simp only [decMsg, rsv, fld_pack, extract_cat_hi, extract_cat_lo, BitVec.extractLsb'_eq_self, Nat.reduceLeDiff, Nat.reduceSub, Nat.reduceAdd, Nat.le_refl, Nat.sub_self, BitVec.reduceExtractLsb', BitVec.reduceBEq, beq_self_eq_true, if_true, if_false, Bool.and_self, Bool.false_eq_true, BitVec.ofBool_true, BitVec.ofBool_false, boolOf]))
theorem Codec.fwd (a : Reg) (n : Bool) : Codec.Statement (.fwd a n) := by
  cases n <;> exact Codec.of rfl ((decode_of_decMsg _ (fld_major _ _ _)).trans (by simp only [decMsg, rsv, fld_pack, extract_cat_hi, extract_cat_lo, BitVec.extractLsb'_eq_self, Nat.reduceLeDiff, Nat.reduceSub, Nat.reduceAdd, Nat.le_refl, Nat.sub_self, BitVec.reduceExtractLsb', BitVec.reduceBEq, beq_self_eq_true, if_true, if_false, Bool.and_self, Bool.false_eq_true, BitVec.ofBool_true, BitVec.ofBool_false, boolOf]))
theorem Codec.endAct : Codec.Statement (.endAct) := by
  exact Codec.of rfl ((decode_of_decMsg _ (fld_major _ _ _)).trans (by simp only [decMsg, rsv, fld_pack, extract_cat_hi, extract_cat_lo, BitVec.extractLsb'_eq_self, Nat.reduceLeDiff, Nat.reduceSub, Nat.reduceAdd, Nat.le_refl, Nat.sub_self, BitVec.reduceExtractLsb', BitVec.reduceBEq, beq_self_eq_true, if_true, if_false, Bool.and_self, Bool.false_eq_true, BitVec.ofBool_true, BitVec.ofBool_false]))
theorem Codec.defer : Codec.Statement (.defer) := by
  exact Codec.of rfl ((decode_of_decMsg _ (fld_major _ _ _)).trans (by simp only [decMsg, rsv, fld_pack, extract_cat_hi, extract_cat_lo, BitVec.extractLsb'_eq_self, Nat.reduceLeDiff, Nat.reduceSub, Nat.reduceAdd, Nat.le_refl, Nat.sub_self, BitVec.reduceExtractLsb', BitVec.reduceBEq, beq_self_eq_true, if_true, if_false, Bool.and_self, Bool.false_eq_true, BitVec.ofBool_true, BitVec.ofBool_false]))
theorem Codec.tgget (d : Reg) (f : BitVec 5) : Codec.Statement (.tgget d f) := by
  exact Codec.of rfl ((decode_of_decTag _ (fld_major _ _ _)).trans (by simp only [decTag, rsv, fld_pack, extract_cat_hi, extract_cat_lo, BitVec.extractLsb'_eq_self, Nat.reduceLeDiff, Nat.reduceSub, Nat.reduceAdd, Nat.le_refl, Nat.sub_self, BitVec.reduceExtractLsb', BitVec.reduceBEq, beq_self_eq_true, if_true, if_false, Bool.and_self, Bool.false_eq_true, BitVec.ofBool_true, BitVec.ofBool_false]))
theorem Codec.tgset (a : Reg) (f : BitVec 5) : Codec.Statement (.tgset a f) := by
  exact Codec.of rfl ((decode_of_decTag _ (fld_major _ _ _)).trans (by simp only [decTag, rsv, fld_pack, extract_cat_hi, extract_cat_lo, BitVec.extractLsb'_eq_self, Nat.reduceLeDiff, Nat.reduceSub, Nat.reduceAdd, Nat.le_refl, Nat.sub_self, BitVec.reduceExtractLsb', BitVec.reduceBEq, beq_self_eq_true, if_true, if_false, Bool.and_self, Bool.false_eq_true, BitVec.ofBool_true, BitVec.ofBool_false]))
theorem Codec.tginc (a : Reg) (i : BitVec 5) (f : BitVec 5) : Codec.Statement (.tginc a i f) := by
  exact Codec.of rfl ((decode_of_decTag _ (fld_major _ _ _)).trans (by simp only [decTag, rsv, fld_pack, extract_cat_hi, extract_cat_lo, BitVec.extractLsb'_eq_self, Nat.reduceLeDiff, Nat.reduceSub, Nat.reduceAdd, Nat.le_refl, Nat.sub_self, BitVec.reduceExtractLsb', BitVec.reduceBEq, beq_self_eq_true, if_true, if_false, Bool.and_self, Bool.false_eq_true, BitVec.ofBool_true, BitVec.ofBool_false]))
theorem Codec.tgpush (a : Reg) : Codec.Statement (.tgpush a) := by
  exact Codec.of rfl ((decode_of_decTag _ (fld_major _ _ _)).trans (by simp only [decTag, rsv, fld_pack, extract_cat_hi, extract_cat_lo, BitVec.extractLsb'_eq_self, Nat.reduceLeDiff, Nat.reduceSub, Nat.reduceAdd, Nat.le_refl, Nat.sub_self, BitVec.reduceExtractLsb', BitVec.reduceBEq, beq_self_eq_true, if_true, if_false, Bool.and_self, Bool.false_eq_true, BitVec.ofBool_true, BitVec.ofBool_false]))
theorem Codec.tgpop (d : Reg) : Codec.Statement (.tgpop d) := by
  exact Codec.of rfl ((decode_of_decTag _ (fld_major _ _ _)).trans (by simp only [decTag, rsv, fld_pack, extract_cat_hi, extract_cat_lo, BitVec.extractLsb'_eq_self, Nat.reduceLeDiff, Nat.reduceSub, Nat.reduceAdd, Nat.le_refl, Nat.sub_self, BitVec.reduceExtractLsb', BitVec.reduceBEq, beq_self_eq_true, if_true, if_false, Bool.and_self, Bool.false_eq_true, BitVec.ofBool_true, BitVec.ofBool_false]))
theorem Codec.tgnew (d : Reg) : Codec.Statement (.tgnew d) := by
  exact Codec.of rfl ((decode_of_decTag _ (fld_major _ _ _)).trans (by simp only [decTag, rsv, fld_pack, extract_cat_hi, extract_cat_lo, BitVec.extractLsb'_eq_self, Nat.reduceLeDiff, Nat.reduceSub, Nat.reduceAdd, Nat.le_refl, Nat.sub_self, BitVec.reduceExtractLsb', BitVec.reduceBEq, beq_self_eq_true, if_true, if_false, Bool.and_self, Bool.false_eq_true, BitVec.ofBool_true, BitVec.ofBool_false]))
theorem Codec.qget (d : Reg) (m : BitVec 5) (n : BitVec 2) : Codec.Statement (.qget d m n) := by
  exact Codec.of rfl ((decode_of_decQue _ (fld_major _ _ _)).trans (by simp only [decQue, rsv, fld_pack, extract_cat_hi, extract_cat_lo, BitVec.extractLsb'_eq_self, Nat.reduceLeDiff, Nat.reduceSub, Nat.reduceAdd, Nat.le_refl, Nat.sub_self, BitVec.reduceExtractLsb', BitVec.reduceBEq, beq_self_eq_true, if_true, if_false, Bool.and_self, Bool.false_eq_true, BitVec.ofBool_true, BitVec.ofBool_false]))
theorem Codec.qput (a : Reg) (m : Bool) (n : BitVec 2) : Codec.Statement (.qput a m n) := by
  cases m <;> exact Codec.of rfl ((decode_of_decQue _ (fld_major _ _ _)).trans (by simp only [decQue, rsv, fld_pack, extract_cat_hi, extract_cat_lo, BitVec.extractLsb'_eq_self, Nat.reduceLeDiff, Nat.reduceSub, Nat.reduceAdd, Nat.le_refl, Nat.sub_self, BitVec.reduceExtractLsb', BitVec.reduceBEq, beq_self_eq_true, if_true, if_false, Bool.and_self, Bool.false_eq_true, BitVec.ofBool_true, BitVec.ofBool_false, boolOf]))
theorem Codec.qpoll (d : Reg) (n : BitVec 2) : Codec.Statement (.qpoll d n) := by
  exact Codec.of rfl ((decode_of_decQue _ (fld_major _ _ _)).trans (by simp only [decQue, rsv, fld_pack, extract_cat_hi, extract_cat_lo, BitVec.extractLsb'_eq_self, Nat.reduceLeDiff, Nat.reduceSub, Nat.reduceAdd, Nat.le_refl, Nat.sub_self, BitVec.reduceExtractLsb', BitVec.reduceBEq, beq_self_eq_true, if_true, if_false, Bool.and_self, Bool.false_eq_true, BitVec.ofBool_true, BitVec.ofBool_false]))
theorem Codec.mrtn : Codec.Statement (.mrtn) := by
  exact Codec.of rfl ((decode_of_decQue _ (fld_major _ _ _)).trans (by simp only [decQue, rsv, fld_pack, extract_cat_hi, extract_cat_lo, BitVec.extractLsb'_eq_self, Nat.reduceLeDiff, Nat.reduceSub, Nat.reduceAdd, Nat.le_refl, Nat.sub_self, BitVec.reduceExtractLsb', BitVec.reduceBEq, beq_self_eq_true, if_true, if_false, Bool.and_self, Bool.false_eq_true, BitVec.ofBool_true, BitVec.ofBool_false]))
theorem Codec.cntadd (a : Reg) (b : Reg) (i : BitVec 5) : Codec.Statement (.cntadd a b i) := by
  exact Codec.of rfl ((decode_of_decQue _ (fld_major _ _ _)).trans (by simp only [decQue, rsv, fld_pack, extract_cat_hi, extract_cat_lo, BitVec.extractLsb'_eq_self, Nat.reduceLeDiff, Nat.reduceSub, Nat.reduceAdd, Nat.le_refl, Nat.sub_self, BitVec.reduceExtractLsb', BitVec.reduceBEq, beq_self_eq_true, if_true, if_false, Bool.and_self, Bool.false_eq_true, BitVec.ofBool_true, BitVec.ofBool_false]))
theorem Codec.cntset (a : Reg) (b : Reg) (c : Reg) : Codec.Statement (.cntset a b c) := by
  exact Codec.of rfl ((decode_of_decQue _ (fld_major _ _ _)).trans (by simp only [decQue, rsv, fld_pack, extract_cat_hi, extract_cat_lo, BitVec.extractLsb'_eq_self, Nat.reduceLeDiff, Nat.reduceSub, Nat.reduceAdd, Nat.le_refl, Nat.sub_self, BitVec.reduceExtractLsb', BitVec.reduceBEq, beq_self_eq_true, if_true, if_false, Bool.and_self, Bool.false_eq_true, BitVec.ofBool_true, BitVec.ofBool_false]))
theorem Codec.cntget (d : Reg) (a : Reg) : Codec.Statement (.cntget d a) := by
  exact Codec.of rfl ((decode_of_decQue _ (fld_major _ _ _)).trans (by simp only [decQue, rsv, fld_pack, extract_cat_hi, extract_cat_lo, BitVec.extractLsb'_eq_self, Nat.reduceLeDiff, Nat.reduceSub, Nat.reduceAdd, Nat.le_refl, Nat.sub_self, BitVec.reduceExtractLsb', BitVec.reduceBEq, beq_self_eq_true, if_true, if_false, Bool.and_self, Bool.false_eq_true, BitVec.ofBool_true, BitVec.ofBool_false]))
theorem Codec.barjoin (a : Reg) (b : Reg) (c : Reg) : Codec.Statement (.barjoin a b c) := by
  exact Codec.of rfl ((decode_of_decBar _ (fld_major _ _ _)).trans (by simp only [decBar, rsv, fld_pack, extract_cat_hi, extract_cat_lo, BitVec.extractLsb'_eq_self, Nat.reduceLeDiff, Nat.reduceSub, Nat.reduceAdd, Nat.le_refl, Nat.sub_self, BitVec.reduceExtractLsb', BitVec.reduceBEq, beq_self_eq_true, if_true, if_false, Bool.and_self, Bool.false_eq_true, BitVec.ofBool_true, BitVec.ofBool_false]))
theorem Codec.barval (d : Reg) (g : BitVec 4) : Codec.Statement (.barval d g) := by
  exact Codec.of rfl ((decode_of_decBar _ (fld_major _ _ _)).trans (by simp only [decBar, rsv, fld_pack, extract_cat_hi, extract_cat_lo, BitVec.extractLsb'_eq_self, Nat.reduceLeDiff, Nat.reduceSub, Nat.reduceAdd, Nat.le_refl, Nat.sub_self, BitVec.reduceExtractLsb', BitVec.reduceBEq, beq_self_eq_true, if_true, if_false, Bool.and_self, Bool.false_eq_true, BitVec.ofBool_true, BitVec.ofBool_false]))
theorem Codec.gldb (d : Reg) (a : Reg) (o : BitVec 13) : Codec.Statement (.gldb d a o) := by
  exact Codec.of rfl ((decode_of_decGld _ (fld_major _ _ _)).trans (by simp only [decGld, rsv, fld_pack, extract_cat_hi, extract_cat_lo, BitVec.extractLsb'_eq_self, Nat.reduceLeDiff, Nat.reduceSub, Nat.reduceAdd, Nat.le_refl, Nat.sub_self, BitVec.reduceExtractLsb', BitVec.reduceBEq, beq_self_eq_true, if_true, if_false, Bool.and_self, Bool.false_eq_true, BitVec.ofBool_true, BitVec.ofBool_false]))
theorem Codec.gldbu (d : Reg) (a : Reg) (o : BitVec 13) : Codec.Statement (.gldbu d a o) := by
  exact Codec.of rfl ((decode_of_decGld _ (fld_major _ _ _)).trans (by simp only [decGld, rsv, fld_pack, extract_cat_hi, extract_cat_lo, BitVec.extractLsb'_eq_self, Nat.reduceLeDiff, Nat.reduceSub, Nat.reduceAdd, Nat.le_refl, Nat.sub_self, BitVec.reduceExtractLsb', BitVec.reduceBEq, beq_self_eq_true, if_true, if_false, Bool.and_self, Bool.false_eq_true, BitVec.ofBool_true, BitVec.ofBool_false]))
theorem Codec.gldh (d : Reg) (a : Reg) (o : BitVec 13) : Codec.Statement (.gldh d a o) := by
  exact Codec.of rfl ((decode_of_decGld _ (fld_major _ _ _)).trans (by simp only [decGld, rsv, fld_pack, extract_cat_hi, extract_cat_lo, BitVec.extractLsb'_eq_self, Nat.reduceLeDiff, Nat.reduceSub, Nat.reduceAdd, Nat.le_refl, Nat.sub_self, BitVec.reduceExtractLsb', BitVec.reduceBEq, beq_self_eq_true, if_true, if_false, Bool.and_self, Bool.false_eq_true, BitVec.ofBool_true, BitVec.ofBool_false]))
theorem Codec.gldhu (d : Reg) (a : Reg) (o : BitVec 13) : Codec.Statement (.gldhu d a o) := by
  exact Codec.of rfl ((decode_of_decGld _ (fld_major _ _ _)).trans (by simp only [decGld, rsv, fld_pack, extract_cat_hi, extract_cat_lo, BitVec.extractLsb'_eq_self, Nat.reduceLeDiff, Nat.reduceSub, Nat.reduceAdd, Nat.le_refl, Nat.sub_self, BitVec.reduceExtractLsb', BitVec.reduceBEq, beq_self_eq_true, if_true, if_false, Bool.and_self, Bool.false_eq_true, BitVec.ofBool_true, BitVec.ofBool_false]))
theorem Codec.gldw (d : Reg) (a : Reg) (o : BitVec 13) : Codec.Statement (.gldw d a o) := by
  exact Codec.of rfl ((decode_of_decGld _ (fld_major _ _ _)).trans (by simp only [decGld, rsv, fld_pack, extract_cat_hi, extract_cat_lo, BitVec.extractLsb'_eq_self, Nat.reduceLeDiff, Nat.reduceSub, Nat.reduceAdd, Nat.le_refl, Nat.sub_self, BitVec.reduceExtractLsb', BitVec.reduceBEq, beq_self_eq_true, if_true, if_false, Bool.and_self, Bool.false_eq_true, BitVec.ofBool_true, BitVec.ofBool_false]))
theorem Codec.gldwu (d : Reg) (a : Reg) (o : BitVec 13) : Codec.Statement (.gldwu d a o) := by
  exact Codec.of rfl ((decode_of_decGld _ (fld_major _ _ _)).trans (by simp only [decGld, rsv, fld_pack, extract_cat_hi, extract_cat_lo, BitVec.extractLsb'_eq_self, Nat.reduceLeDiff, Nat.reduceSub, Nat.reduceAdd, Nat.le_refl, Nat.sub_self, BitVec.reduceExtractLsb', BitVec.reduceBEq, beq_self_eq_true, if_true, if_false, Bool.and_self, Bool.false_eq_true, BitVec.ofBool_true, BitVec.ofBool_false]))
theorem Codec.gldd (d : Reg) (a : Reg) (o : BitVec 13) : Codec.Statement (.gldd d a o) := by
  exact Codec.of rfl ((decode_of_decGld _ (fld_major _ _ _)).trans (by simp only [decGld, rsv, fld_pack, extract_cat_hi, extract_cat_lo, BitVec.extractLsb'_eq_self, Nat.reduceLeDiff, Nat.reduceSub, Nat.reduceAdd, Nat.le_refl, Nat.sub_self, BitVec.reduceExtractLsb', BitVec.reduceBEq, beq_self_eq_true, if_true, if_false, Bool.and_self, Bool.false_eq_true, BitVec.ofBool_true, BitVec.ofBool_false]))
theorem Codec.gldv (v : Reg) (a : Reg) (o : BitVec 13) : Codec.Statement (.gldv v a o) := by
  exact Codec.of rfl ((decode_of_decGld _ (fld_major _ _ _)).trans (by simp only [decGld, rsv, fld_pack, extract_cat_hi, extract_cat_lo, BitVec.extractLsb'_eq_self, Nat.reduceLeDiff, Nat.reduceSub, Nat.reduceAdd, Nat.le_refl, Nat.sub_self, BitVec.reduceExtractLsb', BitVec.reduceBEq, beq_self_eq_true, if_true, if_false, Bool.and_self, Bool.false_eq_true, BitVec.ofBool_true, BitVec.ofBool_false]))
theorem Codec.gstb (s : Reg) (a : Reg) (o : BitVec 13) : Codec.Statement (.gstb s a o) := by
  exact Codec.of rfl ((decode_of_decGst _ (fld_major _ _ _)).trans (by simp only [decGst, rsv, fld_pack, extract_cat_hi, extract_cat_lo, BitVec.extractLsb'_eq_self, Nat.reduceLeDiff, Nat.reduceSub, Nat.reduceAdd, Nat.le_refl, Nat.sub_self, BitVec.reduceExtractLsb', BitVec.reduceBEq, beq_self_eq_true, if_true, if_false, Bool.and_self, Bool.false_eq_true, BitVec.ofBool_true, BitVec.ofBool_false]))
theorem Codec.gsth (s : Reg) (a : Reg) (o : BitVec 13) : Codec.Statement (.gsth s a o) := by
  exact Codec.of rfl ((decode_of_decGst _ (fld_major _ _ _)).trans (by simp only [decGst, rsv, fld_pack, extract_cat_hi, extract_cat_lo, BitVec.extractLsb'_eq_self, Nat.reduceLeDiff, Nat.reduceSub, Nat.reduceAdd, Nat.le_refl, Nat.sub_self, BitVec.reduceExtractLsb', BitVec.reduceBEq, beq_self_eq_true, if_true, if_false, Bool.and_self, Bool.false_eq_true, BitVec.ofBool_true, BitVec.ofBool_false]))
theorem Codec.gstw (s : Reg) (a : Reg) (o : BitVec 13) : Codec.Statement (.gstw s a o) := by
  exact Codec.of rfl ((decode_of_decGst _ (fld_major _ _ _)).trans (by simp only [decGst, rsv, fld_pack, extract_cat_hi, extract_cat_lo, BitVec.extractLsb'_eq_self, Nat.reduceLeDiff, Nat.reduceSub, Nat.reduceAdd, Nat.le_refl, Nat.sub_self, BitVec.reduceExtractLsb', BitVec.reduceBEq, beq_self_eq_true, if_true, if_false, Bool.and_self, Bool.false_eq_true, BitVec.ofBool_true, BitVec.ofBool_false]))
theorem Codec.gstd (s : Reg) (a : Reg) (o : BitVec 13) : Codec.Statement (.gstd s a o) := by
  exact Codec.of rfl ((decode_of_decGst _ (fld_major _ _ _)).trans (by simp only [decGst, rsv, fld_pack, extract_cat_hi, extract_cat_lo, BitVec.extractLsb'_eq_self, Nat.reduceLeDiff, Nat.reduceSub, Nat.reduceAdd, Nat.le_refl, Nat.sub_self, BitVec.reduceExtractLsb', BitVec.reduceBEq, beq_self_eq_true, if_true, if_false, Bool.and_self, Bool.false_eq_true, BitVec.ofBool_true, BitVec.ofBool_false]))
theorem Codec.gatomAdd (d : Reg) (a : Reg) (b : Reg) : Codec.Statement (.gatomAdd d a b) := by
  exact Codec.of rfl ((decode_of_decMem _ (fld_major _ _ _)).trans (by simp only [decMem, rsv, fld_pack, extract_cat_hi, extract_cat_lo, BitVec.extractLsb'_eq_self, Nat.reduceLeDiff, Nat.reduceSub, Nat.reduceAdd, Nat.le_refl, Nat.sub_self, BitVec.reduceExtractLsb', BitVec.reduceBEq, beq_self_eq_true, if_true, if_false, Bool.and_self, Bool.false_eq_true, BitVec.ofBool_true, BitVec.ofBool_false]))
theorem Codec.gatomCas (d : Reg) (a : Reg) (b : Reg) : Codec.Statement (.gatomCas d a b) := by
  exact Codec.of rfl ((decode_of_decMem _ (fld_major _ _ _)).trans (by simp only [decMem, rsv, fld_pack, extract_cat_hi, extract_cat_lo, BitVec.extractLsb'_eq_self, Nat.reduceLeDiff, Nat.reduceSub, Nat.reduceAdd, Nat.le_refl, Nat.sub_self, BitVec.reduceExtractLsb', BitVec.reduceBEq, beq_self_eq_true, if_true, if_false, Bool.and_self, Bool.false_eq_true, BitVec.ofBool_true, BitVec.ofBool_false]))
theorem Codec.gatomSwap (d : Reg) (a : Reg) (b : Reg) : Codec.Statement (.gatomSwap d a b) := by
  exact Codec.of rfl ((decode_of_decMem _ (fld_major _ _ _)).trans (by simp only [decMem, rsv, fld_pack, extract_cat_hi, extract_cat_lo, BitVec.extractLsb'_eq_self, Nat.reduceLeDiff, Nat.reduceSub, Nat.reduceAdd, Nat.le_refl, Nat.sub_self, BitVec.reduceExtractLsb', BitVec.reduceBEq, beq_self_eq_true, if_true, if_false, Bool.and_self, Bool.false_eq_true, BitVec.ofBool_true, BitVec.ofBool_false]))
theorem Codec.gatomMax (d : Reg) (a : Reg) (b : Reg) : Codec.Statement (.gatomMax d a b) := by
  exact Codec.of rfl ((decode_of_decMem _ (fld_major _ _ _)).trans (by simp only [decMem, rsv, fld_pack, extract_cat_hi, extract_cat_lo, BitVec.extractLsb'_eq_self, Nat.reduceLeDiff, Nat.reduceSub, Nat.reduceAdd, Nat.le_refl, Nat.sub_self, BitVec.reduceExtractLsb', BitVec.reduceBEq, beq_self_eq_true, if_true, if_false, Bool.and_self, Bool.false_eq_true, BitVec.ofBool_true, BitVec.ofBool_false]))
theorem Codec.gatomMin (d : Reg) (a : Reg) (b : Reg) : Codec.Statement (.gatomMin d a b) := by
  exact Codec.of rfl ((decode_of_decMem _ (fld_major _ _ _)).trans (by simp only [decMem, rsv, fld_pack, extract_cat_hi, extract_cat_lo, BitVec.extractLsb'_eq_self, Nat.reduceLeDiff, Nat.reduceSub, Nat.reduceAdd, Nat.le_refl, Nat.sub_self, BitVec.reduceExtractLsb', BitVec.reduceBEq, beq_self_eq_true, if_true, if_false, Bool.and_self, Bool.false_eq_true, BitVec.ofBool_true, BitVec.ofBool_false]))
theorem Codec.gatomFxadd (a : Reg) (b : Reg) : Codec.Statement (.gatomFxadd a b) := by
  exact Codec.of rfl ((decode_of_decMem _ (fld_major _ _ _)).trans (by simp only [decMem, rsv, fld_pack, extract_cat_hi, extract_cat_lo, BitVec.extractLsb'_eq_self, Nat.reduceLeDiff, Nat.reduceSub, Nat.reduceAdd, Nat.le_refl, Nat.sub_self, BitVec.reduceExtractLsb', BitVec.reduceBEq, beq_self_eq_true, if_true, if_false, Bool.and_self, Bool.false_eq_true, BitVec.ofBool_true, BitVec.ofBool_false]))
theorem Codec.gatomFxrd (d : Reg) (a : Reg) (p : Prec) : Codec.Statement (.gatomFxrd d a p) := by
  cases p <;> exact Codec.of rfl ((decode_of_decMem _ (fld_major _ _ _)).trans (by simp only [decMem, rsv, fld_pack, extract_cat_hi, extract_cat_lo, BitVec.extractLsb'_eq_self, Nat.reduceLeDiff, Nat.reduceSub, Nat.reduceAdd, Nat.le_refl, Nat.sub_self, BitVec.reduceExtractLsb', BitVec.reduceBEq, beq_self_eq_true, if_true, if_false, Bool.and_self, Bool.false_eq_true, BitVec.ofBool_true, BitVec.ofBool_false, precOf, Prec.bit]))
theorem Codec.acq (d : Reg) (a : Reg) (b : Reg) (c : Reg) : Codec.Statement (.acq d a b c) := by
  exact Codec.of rfl ((decode_of_decMem _ (fld_major _ _ _)).trans (by simp only [decMem, rsv, fld_pack, extract_cat_hi, extract_cat_lo, BitVec.extractLsb'_eq_self, Nat.reduceLeDiff, Nat.reduceSub, Nat.reduceAdd, Nat.le_refl, Nat.sub_self, BitVec.reduceExtractLsb', BitVec.reduceBEq, beq_self_eq_true, if_true, if_false, Bool.and_self, Bool.false_eq_true, BitVec.ofBool_true, BitVec.ofBool_false]))
theorem Codec.rel (a : Reg) (b : Reg) : Codec.Statement (.rel a b) := by
  exact Codec.of rfl ((decode_of_decMem _ (fld_major _ _ _)).trans (by simp only [decMem, rsv, fld_pack, extract_cat_hi, extract_cat_lo, BitVec.extractLsb'_eq_self, Nat.reduceLeDiff, Nat.reduceSub, Nat.reduceAdd, Nat.le_refl, Nat.sub_self, BitVec.reduceExtractLsb', BitVec.reduceBEq, beq_self_eq_true, if_true, if_false, Bool.and_self, Bool.false_eq_true, BitVec.ofBool_true, BitVec.ofBool_false]))
theorem Codec.fenceLocal : Codec.Statement (.fenceLocal) := by
  exact Codec.of rfl ((decode_of_decMem _ (fld_major _ _ _)).trans (by simp only [decMem, rsv, fld_pack, extract_cat_hi, extract_cat_lo, BitVec.extractLsb'_eq_self, Nat.reduceLeDiff, Nat.reduceSub, Nat.reduceAdd, Nat.le_refl, Nat.sub_self, BitVec.reduceExtractLsb', BitVec.reduceBEq, beq_self_eq_true, if_true, if_false, Bool.and_self, Bool.false_eq_true, BitVec.ofBool_true, BitVec.ofBool_false]))
theorem Codec.fencePut : Codec.Statement (.fencePut) := by
  exact Codec.of rfl ((decode_of_decMem _ (fld_major _ _ _)).trans (by simp only [decMem, rsv, fld_pack, extract_cat_hi, extract_cat_lo, BitVec.extractLsb'_eq_self, Nat.reduceLeDiff, Nat.reduceSub, Nat.reduceAdd, Nat.le_refl, Nat.sub_self, BitVec.reduceExtractLsb', BitVec.reduceBEq, beq_self_eq_true, if_true, if_false, Bool.and_self, Bool.false_eq_true, BitVec.ofBool_true, BitVec.ofBool_false]))
theorem Codec.fenceDie : Codec.Statement (.fenceDie) := by
  exact Codec.of rfl ((decode_of_decMem _ (fld_major _ _ _)).trans (by simp only [decMem, rsv, fld_pack, extract_cat_hi, extract_cat_lo, BitVec.extractLsb'_eq_self, Nat.reduceLeDiff, Nat.reduceSub, Nat.reduceAdd, Nat.le_refl, Nat.sub_self, BitVec.reduceExtractLsb', BitVec.reduceBEq, beq_self_eq_true, if_true, if_false, Bool.and_self, Bool.false_eq_true, BitVec.ofBool_true, BitVec.ofBool_false]))
theorem Codec.fenceModule : Codec.Statement (.fenceModule) := by
  exact Codec.of rfl ((decode_of_decMem _ (fld_major _ _ _)).trans (by simp only [decMem, rsv, fld_pack, extract_cat_hi, extract_cat_lo, BitVec.extractLsb'_eq_self, Nat.reduceLeDiff, Nat.reduceSub, Nat.reduceAdd, Nat.le_refl, Nat.sub_self, BitVec.reduceExtractLsb', BitVec.reduceBEq, beq_self_eq_true, if_true, if_false, Bool.and_self, Bool.false_eq_true, BitVec.ofBool_true, BitVec.ofBool_false]))
theorem Codec.btld (d : Reg) (a : Reg) (b : Reg) : Codec.Statement (.btld d a b) := by
  exact Codec.of rfl ((decode_of_decBt _ (fld_major _ _ _)).trans (by simp only [decBt, rsv, fld_pack, extract_cat_hi, extract_cat_lo, BitVec.extractLsb'_eq_self, Nat.reduceLeDiff, Nat.reduceSub, Nat.reduceAdd, Nat.le_refl, Nat.sub_self, BitVec.reduceExtractLsb', BitVec.reduceBEq, beq_self_eq_true, if_true, if_false, Bool.and_self, Bool.false_eq_true, BitVec.ofBool_true, BitVec.ofBool_false]))
theorem Codec.btswap (d : Reg) (a : Reg) (b : Reg) : Codec.Statement (.btswap d a b) := by
  exact Codec.of rfl ((decode_of_decBt _ (fld_major _ _ _)).trans (by simp only [decBt, rsv, fld_pack, extract_cat_hi, extract_cat_lo, BitVec.extractLsb'_eq_self, Nat.reduceLeDiff, Nat.reduceSub, Nat.reduceAdd, Nat.le_refl, Nat.sub_self, BitVec.reduceExtractLsb', BitVec.reduceBEq, beq_self_eq_true, if_true, if_false, Bool.and_self, Bool.false_eq_true, BitVec.ofBool_true, BitVec.ofBool_false]))
theorem Codec.btref (d : Reg) (a : Reg) (b : Reg) : Codec.Statement (.btref d a b) := by
  exact Codec.of rfl ((decode_of_decBt _ (fld_major _ _ _)).trans (by simp only [decBt, rsv, fld_pack, extract_cat_hi, extract_cat_lo, BitVec.extractLsb'_eq_self, Nat.reduceLeDiff, Nat.reduceSub, Nat.reduceAdd, Nat.le_refl, Nat.sub_self, BitVec.reduceExtractLsb', BitVec.reduceBEq, beq_self_eq_true, if_true, if_false, Bool.and_self, Bool.false_eq_true, BitVec.ofBool_true, BitVec.ofBool_false]))
theorem Codec.get (t : Reg) (a : Reg) (b : Reg) (c : Reg) : Codec.Statement (.get t a b c) := by
  exact Codec.of rfl ((decode_of_decRma _ (fld_major _ _ _)).trans (by simp only [decRma, rsv, fld_pack, extract_cat_hi, extract_cat_lo, BitVec.extractLsb'_eq_self, Nat.reduceLeDiff, Nat.reduceSub, Nat.reduceAdd, Nat.le_refl, Nat.sub_self, BitVec.reduceExtractLsb', BitVec.reduceBEq, beq_self_eq_true, if_true, if_false, Bool.and_self, Bool.false_eq_true, BitVec.ofBool_true, BitVec.ofBool_false]))
theorem Codec.put (t : Reg) (a : Reg) (b : Reg) (c : Reg) : Codec.Statement (.put t a b c) := by
  exact Codec.of rfl ((decode_of_decRma _ (fld_major _ _ _)).trans (by simp only [decRma, rsv, fld_pack, extract_cat_hi, extract_cat_lo, BitVec.extractLsb'_eq_self, Nat.reduceLeDiff, Nat.reduceSub, Nat.reduceAdd, Nat.le_refl, Nat.sub_self, BitVec.reduceExtractLsb', BitVec.reduceBEq, beq_self_eq_true, if_true, if_false, Bool.and_self, Bool.false_eq_true, BitVec.ofBool_true, BitVec.ofBool_false]))
theorem Codec.getx (t : Reg) (a : Reg) (b : Reg) (c : Reg) : Codec.Statement (.getx t a b c) := by
  exact Codec.of rfl ((decode_of_decRma _ (fld_major _ _ _)).trans (by simp only [decRma, rsv, fld_pack, extract_cat_hi, extract_cat_lo, BitVec.extractLsb'_eq_self, Nat.reduceLeDiff, Nat.reduceSub, Nat.reduceAdd, Nat.le_refl, Nat.sub_self, BitVec.reduceExtractLsb', BitVec.reduceBEq, beq_self_eq_true, if_true, if_false, Bool.and_self, Bool.false_eq_true, BitVec.ofBool_true, BitVec.ofBool_false]))
theorem Codec.putx (t : Reg) (a : Reg) (b : Reg) (c : Reg) : Codec.Statement (.putx t a b c) := by
  exact Codec.of rfl ((decode_of_decRma _ (fld_major _ _ _)).trans (by simp only [decRma, rsv, fld_pack, extract_cat_hi, extract_cat_lo, BitVec.extractLsb'_eq_self, Nat.reduceLeDiff, Nat.reduceSub, Nat.reduceAdd, Nat.le_refl, Nat.sub_self, BitVec.reduceExtractLsb', BitVec.reduceBEq, beq_self_eq_true, if_true, if_false, Bool.and_self, Bool.false_eq_true, BitVec.ofBool_true, BitVec.ofBool_false]))
theorem Codec.ratomAdd (t : Reg) (a : Reg) (b : Reg) : Codec.Statement (.ratomAdd t a b) := by
  exact Codec.of rfl ((decode_of_decRma _ (fld_major _ _ _)).trans (by simp only [decRma, rsv, fld_pack, extract_cat_hi, extract_cat_lo, BitVec.extractLsb'_eq_self, Nat.reduceLeDiff, Nat.reduceSub, Nat.reduceAdd, Nat.le_refl, Nat.sub_self, BitVec.reduceExtractLsb', BitVec.reduceBEq, beq_self_eq_true, if_true, if_false, Bool.and_self, Bool.false_eq_true, BitVec.ofBool_true, BitVec.ofBool_false]))
theorem Codec.ratomCas (t : Reg) (a : Reg) (b : Reg) : Codec.Statement (.ratomCas t a b) := by
  exact Codec.of rfl ((decode_of_decRma _ (fld_major _ _ _)).trans (by simp only [decRma, rsv, fld_pack, extract_cat_hi, extract_cat_lo, BitVec.extractLsb'_eq_self, Nat.reduceLeDiff, Nat.reduceSub, Nat.reduceAdd, Nat.le_refl, Nat.sub_self, BitVec.reduceExtractLsb', BitVec.reduceBEq, beq_self_eq_true, if_true, if_false, Bool.and_self, Bool.false_eq_true, BitVec.ofBool_true, BitVec.ofBool_false]))
theorem Codec.ratomSwap (t : Reg) (a : Reg) (b : Reg) : Codec.Statement (.ratomSwap t a b) := by
  exact Codec.of rfl ((decode_of_decRma _ (fld_major _ _ _)).trans (by simp only [decRma, rsv, fld_pack, extract_cat_hi, extract_cat_lo, BitVec.extractLsb'_eq_self, Nat.reduceLeDiff, Nat.reduceSub, Nat.reduceAdd, Nat.le_refl, Nat.sub_self, BitVec.reduceExtractLsb', BitVec.reduceBEq, beq_self_eq_true, if_true, if_false, Bool.and_self, Bool.false_eq_true, BitVec.ofBool_true, BitVec.ofBool_false]))
theorem Codec.ratomMax (t : Reg) (a : Reg) (b : Reg) : Codec.Statement (.ratomMax t a b) := by
  exact Codec.of rfl ((decode_of_decRma _ (fld_major _ _ _)).trans (by simp only [decRma, rsv, fld_pack, extract_cat_hi, extract_cat_lo, BitVec.extractLsb'_eq_self, Nat.reduceLeDiff, Nat.reduceSub, Nat.reduceAdd, Nat.le_refl, Nat.sub_self, BitVec.reduceExtractLsb', BitVec.reduceBEq, beq_self_eq_true, if_true, if_false, Bool.and_self, Bool.false_eq_true, BitVec.ofBool_true, BitVec.ofBool_false]))
theorem Codec.ratomMin (t : Reg) (a : Reg) (b : Reg) : Codec.Statement (.ratomMin t a b) := by
  exact Codec.of rfl ((decode_of_decRma _ (fld_major _ _ _)).trans (by simp only [decRma, rsv, fld_pack, extract_cat_hi, extract_cat_lo, BitVec.extractLsb'_eq_self, Nat.reduceLeDiff, Nat.reduceSub, Nat.reduceAdd, Nat.le_refl, Nat.sub_self, BitVec.reduceExtractLsb', BitVec.reduceBEq, beq_self_eq_true, if_true, if_false, Bool.and_self, Bool.false_eq_true, BitVec.ofBool_true, BitVec.ofBool_false]))
theorem Codec.ratomFxadd (t : Reg) (a : Reg) (b : Reg) : Codec.Statement (.ratomFxadd t a b) := by
  exact Codec.of rfl ((decode_of_decRma _ (fld_major _ _ _)).trans (by simp only [decRma, rsv, fld_pack, extract_cat_hi, extract_cat_lo, BitVec.extractLsb'_eq_self, Nat.reduceLeDiff, Nat.reduceSub, Nat.reduceAdd, Nat.le_refl, Nat.sub_self, BitVec.reduceExtractLsb', BitVec.reduceBEq, beq_self_eq_true, if_true, if_false, Bool.and_self, Bool.false_eq_true, BitVec.ofBool_true, BitVec.ofBool_false]))
theorem Codec.ratomFxrd (t : Reg) (a : Reg) (b : Reg) : Codec.Statement (.ratomFxrd t a b) := by
  exact Codec.of rfl ((decode_of_decRma _ (fld_major _ _ _)).trans (by simp only [decRma, rsv, fld_pack, extract_cat_hi, extract_cat_lo, BitVec.extractLsb'_eq_self, Nat.reduceLeDiff, Nat.reduceSub, Nat.reduceAdd, Nat.le_refl, Nat.sub_self, BitVec.reduceExtractLsb', BitVec.reduceBEq, beq_self_eq_true, if_true, if_false, Bool.and_self, Bool.false_eq_true, BitVec.ofBool_true, BitVec.ofBool_false]))
theorem Codec.ratomSubst (t : Reg) (a : Reg) (b : Reg) : Codec.Statement (.ratomSubst t a b) := by
  exact Codec.of rfl ((decode_of_decRma _ (fld_major _ _ _)).trans (by simp only [decRma, rsv, fld_pack, extract_cat_hi, extract_cat_lo, BitVec.extractLsb'_eq_self, Nat.reduceLeDiff, Nat.reduceSub, Nat.reduceAdd, Nat.le_refl, Nat.sub_self, BitVec.reduceExtractLsb', BitVec.reduceBEq, beq_self_eq_true, if_true, if_false, Bool.and_self, Bool.false_eq_true, BitVec.ofBool_true, BitVec.ofBool_false]))
theorem Codec.give (a : Reg) (o : BitVec 5) : Codec.Statement (.give a o) := by
  exact Codec.of rfl ((decode_of_decPaneOp _ (fld_major _ _ _)).trans (by simp only [decPaneOp, rsv, fld_pack, extract_cat_hi, extract_cat_lo, BitVec.extractLsb'_eq_self, Nat.reduceLeDiff, Nat.reduceSub, Nat.reduceAdd, Nat.le_refl, Nat.sub_self, BitVec.reduceExtractLsb', BitVec.reduceBEq, beq_self_eq_true, if_true, if_false, Bool.and_self, Bool.false_eq_true, BitVec.ofBool_true, BitVec.ofBool_false]))
theorem Codec.take (a : Reg) : Codec.Statement (.take a) := by
  exact Codec.of rfl ((decode_of_decPaneOp _ (fld_major _ _ _)).trans (by simp only [decPaneOp, rsv, fld_pack, extract_cat_hi, extract_cat_lo, BitVec.extractLsb'_eq_self, Nat.reduceLeDiff, Nat.reduceSub, Nat.reduceAdd, Nat.le_refl, Nat.sub_self, BitVec.reduceExtractLsb', BitVec.reduceBEq, beq_self_eq_true, if_true, if_false, Bool.and_self, Bool.false_eq_true, BitVec.ofBool_true, BitVec.ofBool_false]))
theorem Codec.ttest (d : Reg) (a : Reg) : Codec.Statement (.ttest d a) := by
  exact Codec.of rfl ((decode_of_decPaneOp _ (fld_major _ _ _)).trans (by simp only [decPaneOp, rsv, fld_pack, extract_cat_hi, extract_cat_lo, BitVec.extractLsb'_eq_self, Nat.reduceLeDiff, Nat.reduceSub, Nat.reduceAdd, Nat.le_refl, Nat.sub_self, BitVec.reduceExtractLsb', BitVec.reduceBEq, beq_self_eq_true, if_true, if_false, Bool.and_self, Bool.false_eq_true, BitVec.ofBool_true, BitVec.ofBool_false]))
theorem Codec.mmrun (t : Reg) (a : Reg) (b : Reg) : Codec.Statement (.mmrun t a b) := by
  exact Codec.of rfl ((decode_of_decMm _ (fld_major _ _ _)).trans (by simp only [decMm, rsv, fld_pack, extract_cat_hi, extract_cat_lo, BitVec.extractLsb'_eq_self, Nat.reduceLeDiff, Nat.reduceSub, Nat.reduceAdd, Nat.le_refl, Nat.sub_self, BitVec.reduceExtractLsb', BitVec.reduceBEq, beq_self_eq_true, if_true, if_false, Bool.and_self, Bool.false_eq_true, BitVec.ofBool_true, BitVec.ofBool_false]))
theorem Codec.mmstat (d : Reg) : Codec.Statement (.mmstat d) := by
  exact Codec.of rfl ((decode_of_decMm _ (fld_major _ _ _)).trans (by simp only [decMm, rsv, fld_pack, extract_cat_hi, extract_cat_lo, BitVec.extractLsb'_eq_self, Nat.reduceLeDiff, Nat.reduceSub, Nat.reduceAdd, Nat.le_refl, Nat.sub_self, BitVec.reduceExtractLsb', BitVec.reduceBEq, beq_self_eq_true, if_true, if_false, Bool.and_self, Bool.false_eq_true, BitVec.ofBool_true, BitVec.ofBool_false]))
theorem Codec.slotld (a : Reg) (b : Reg) : Codec.Statement (.slotld a b) := by
  exact Codec.of rfl ((decode_of_decMm _ (fld_major _ _ _)).trans (by simp only [decMm, rsv, fld_pack, extract_cat_hi, extract_cat_lo, BitVec.extractLsb'_eq_self, Nat.reduceLeDiff, Nat.reduceSub, Nat.reduceAdd, Nat.le_refl, Nat.sub_self, BitVec.reduceExtractLsb', BitVec.reduceBEq, beq_self_eq_true, if_true, if_false, Bool.and_self, Bool.false_eq_true, BitVec.ofBool_true, BitVec.ofBool_false]))
theorem Codec.sego (t : Reg) (a : Reg) (b : Reg) : Codec.Statement (.sego t a b) := by
  exact Codec.of rfl ((decode_of_decSe _ (fld_major _ _ _)).trans (by simp only [decSe, rsv, fld_pack, extract_cat_hi, extract_cat_lo, BitVec.extractLsb'_eq_self, Nat.reduceLeDiff, Nat.reduceSub, Nat.reduceAdd, Nat.le_refl, Nat.sub_self, BitVec.reduceExtractLsb', BitVec.reduceBEq, beq_self_eq_true, if_true, if_false, Bool.and_self, Bool.false_eq_true, BitVec.ofBool_true, BitVec.ofBool_false]))
theorem Codec.sestat (d : Reg) (a : Reg) : Codec.Statement (.sestat d a) := by
  exact Codec.of rfl ((decode_of_decSe _ (fld_major _ _ _)).trans (by simp only [decSe, rsv, fld_pack, extract_cat_hi, extract_cat_lo, BitVec.extractLsb'_eq_self, Nat.reduceLeDiff, Nat.reduceSub, Nat.reduceAdd, Nat.le_refl, Nat.sub_self, BitVec.reduceExtractLsb', BitVec.reduceBEq, beq_self_eq_true, if_true, if_false, Bool.and_self, Bool.false_eq_true, BitVec.ofBool_true, BitVec.ofBool_false]))
theorem Codec.sacp (t : Reg) (a : Reg) (b : Reg) (c : Reg) : Codec.Statement (.sacp t a b c) := by
  exact Codec.of rfl ((decode_of_decSacOp _ (fld_major _ _ _)).trans (by simp only [decSacOp, rsv, fld_pack, extract_cat_hi, extract_cat_lo, BitVec.extractLsb'_eq_self, Nat.reduceLeDiff, Nat.reduceSub, Nat.reduceAdd, Nat.le_refl, Nat.sub_self, BitVec.reduceExtractLsb', BitVec.reduceBEq, beq_self_eq_true, if_true, if_false, Bool.and_self, Bool.false_eq_true, BitVec.ofBool_true, BitVec.ofBool_false]))
theorem Codec.sacc (t : Reg) (a : Reg) (b : Reg) (c : Reg) : Codec.Statement (.sacc t a b c) := by
  exact Codec.of rfl ((decode_of_decSacOp _ (fld_major _ _ _)).trans (by simp only [decSacOp, rsv, fld_pack, extract_cat_hi, extract_cat_lo, BitVec.extractLsb'_eq_self, Nat.reduceLeDiff, Nat.reduceSub, Nat.reduceAdd, Nat.le_refl, Nat.sub_self, BitVec.reduceExtractLsb', BitVec.reduceBEq, beq_self_eq_true, if_true, if_false, Bool.and_self, Bool.false_eq_true, BitVec.ofBool_true, BitVec.ofBool_false]))
theorem Codec.tret (d : Reg) (a : Reg) (b : Reg) : Codec.Statement (.tret d a b) := by
  exact Codec.of rfl ((decode_of_decPriv _ (fld_major _ _ _)).trans (by simp only [decPriv, rsv, fld_pack, extract_cat_hi, extract_cat_lo, BitVec.extractLsb'_eq_self, Nat.reduceLeDiff, Nat.reduceSub, Nat.reduceAdd, Nat.le_refl, Nat.sub_self, BitVec.reduceExtractLsb', BitVec.reduceBEq, beq_self_eq_true, if_true, if_false, Bool.and_self, Bool.false_eq_true, BitVec.ofBool_true, BitVec.ofBool_false]))
theorem Codec.tlbwr (d : Reg) (a : Reg) (b : Reg) : Codec.Statement (.tlbwr d a b) := by
  exact Codec.of rfl ((decode_of_decPriv _ (fld_major _ _ _)).trans (by simp only [decPriv, rsv, fld_pack, extract_cat_hi, extract_cat_lo, BitVec.extractLsb'_eq_self, Nat.reduceLeDiff, Nat.reduceSub, Nat.reduceAdd, Nat.le_refl, Nat.sub_self, BitVec.reduceExtractLsb', BitVec.reduceBEq, beq_self_eq_true, if_true, if_false, Bool.and_self, Bool.false_eq_true, BitVec.ofBool_true, BitVec.ofBool_false]))
theorem Codec.tlbinv (d : Reg) (a : Reg) (b : Reg) : Codec.Statement (.tlbinv d a b) := by
  exact Codec.of rfl ((decode_of_decPriv _ (fld_major _ _ _)).trans (by simp only [decPriv, rsv, fld_pack, extract_cat_hi, extract_cat_lo, BitVec.extractLsb'_eq_self, Nat.reduceLeDiff, Nat.reduceSub, Nat.reduceAdd, Nat.le_refl, Nat.sub_self, BitVec.reduceExtractLsb', BitVec.reduceBEq, beq_self_eq_true, if_true, if_false, Bool.and_self, Bool.false_eq_true, BitVec.ofBool_true, BitVec.ofBool_false]))
theorem Codec.domkill (a : Reg) : Codec.Statement (.domkill a) := by
  exact Codec.of rfl ((decode_of_decPriv _ (fld_major _ _ _)).trans (by simp only [decPriv, rsv, fld_pack, extract_cat_hi, extract_cat_lo, BitVec.extractLsb'_eq_self, Nat.reduceLeDiff, Nat.reduceSub, Nat.reduceAdd, Nat.le_refl, Nat.sub_self, BitVec.reduceExtractLsb', BitVec.reduceBEq, beq_self_eq_true, if_true, if_false, Bool.and_self, Bool.false_eq_true, BitVec.ofBool_true, BitVec.ofBool_false]))
theorem Codec.colkill (a : Reg) : Codec.Statement (.colkill a) := by
  exact Codec.of rfl ((decode_of_decPriv _ (fld_major _ _ _)).trans (by simp only [decPriv, rsv, fld_pack, extract_cat_hi, extract_cat_lo, BitVec.extractLsb'_eq_self, Nat.reduceLeDiff, Nat.reduceSub, Nat.reduceAdd, Nat.le_refl, Nat.sub_self, BitVec.reduceExtractLsb', BitVec.reduceBEq, beq_self_eq_true, if_true, if_false, Bool.and_self, Bool.false_eq_true, BitVec.ofBool_true, BitVec.ofBool_false]))
theorem Codec.gangsw (d : Reg) (a : Reg) (b : Reg) : Codec.Statement (.gangsw d a b) := by
  exact Codec.of rfl ((decode_of_decPriv _ (fld_major _ _ _)).trans (by simp only [decPriv, rsv, fld_pack, extract_cat_hi, extract_cat_lo, BitVec.extractLsb'_eq_self, Nat.reduceLeDiff, Nat.reduceSub, Nat.reduceAdd, Nat.le_refl, Nat.sub_self, BitVec.reduceExtractLsb', BitVec.reduceBEq, beq_self_eq_true, if_true, if_false, Bool.and_self, Bool.false_eq_true, BitVec.ofBool_true, BitVec.ofBool_false]))
theorem Codec.logctl (d : Reg) (a : Reg) (b : Reg) : Codec.Statement (.logctl d a b) := by
  exact Codec.of rfl ((decode_of_decPriv _ (fld_major _ _ _)).trans (by simp only [decPriv, rsv, fld_pack, extract_cat_hi, extract_cat_lo, BitVec.extractLsb'_eq_self, Nat.reduceLeDiff, Nat.reduceSub, Nat.reduceAdd, Nat.le_refl, Nat.sub_self, BitVec.reduceExtractLsb', BitVec.reduceBEq, beq_self_eq_true, if_true, if_false, Bool.and_self, Bool.false_eq_true, BitVec.ofBool_true, BitVec.ofBool_false]))
theorem Codec.halt (a : Reg) : Codec.Statement (.halt a) := by
  exact Codec.of rfl ((decode_of_decPriv _ (fld_major _ _ _)).trans (by simp only [decPriv, rsv, fld_pack, extract_cat_hi, extract_cat_lo, BitVec.extractLsb'_eq_self, Nat.reduceLeDiff, Nat.reduceSub, Nat.reduceAdd, Nat.le_refl, Nat.sub_self, BitVec.reduceExtractLsb', BitVec.reduceBEq, beq_self_eq_true, if_true, if_false, Bool.and_self, Bool.false_eq_true, BitVec.ofBool_true, BitVec.ofBool_false]))
theorem Codec.loopb (k : Bool) (r : Bool) (a : Reg) : Codec.Statement (.loopb k r a) := by
  cases k <;> cases r <;> exact Codec.of rfl ((decode_of_decPriv _ (fld_major _ _ _)).trans (by simp only [decPriv, rsv, fld_pack, extract_cat_hi, extract_cat_lo, BitVec.extractLsb'_eq_self, Nat.reduceLeDiff, Nat.reduceSub, Nat.reduceAdd, Nat.le_refl, Nat.sub_self, BitVec.reduceExtractLsb', BitVec.reduceBEq, beq_self_eq_true, if_true, if_false, Bool.and_self, Bool.false_eq_true, BitVec.ofBool_true, BitVec.ofBool_false, boolOf]))
theorem Codec.colourAllocatorAnswer (t : Nat) (c : Nat) : Codec.Statement (.colourAllocatorAnswer t c) := Codec.none rfl
theorem Codec.storeQueuePerform (t : Nat) (c : Nat) : Codec.Statement (.storeQueuePerform t c) := Codec.none rfl
theorem Codec.messageArrival (t : Nat) (cls : ArrClass) : Codec.Statement (.messageArrival t cls) := Codec.none rfl
theorem Codec.voteTimeout (t : Nat) (i : Nat) : Codec.Statement (.voteTimeout t i) := Codec.none rfl
theorem Codec.spillRefill (t : Nat) (q : Nat) : Codec.Statement (.spillRefill t q) := Codec.none rfl
theorem Codec.matchOverflowService (t : Nat) : Codec.Statement (.matchOverflowService t) := Codec.none rfl
theorem Codec.timerTick (t : Nat) : Codec.Statement (.timerTick t) := Codec.none rfl
theorem Codec.dispatch (t : Nat) : Codec.Statement (.dispatch t) := Codec.none rfl
theorem Codec.barrierJoinArrival (t : Nat) : Codec.Statement (.barrierJoinArrival t) := Codec.none rfl
theorem Codec.barrierCompletion (t : Nat) : Codec.Statement (.barrierCompletion t) := Codec.none rfl
theorem Codec.translationRequest (t : Nat) (c : Nat) : Codec.Statement (.translationRequest t c) := Codec.none rfl
theorem Codec.tlbFill (t : Nat) (entry : BitVec 128) : Codec.Statement (.tlbFill t entry) := Codec.none rfl
theorem Codec.tlbFaultAnswer (t : Nat) (va : Word) (prot : Bool) : Codec.Statement (.tlbFaultAnswer t va prot) := Codec.none rfl
theorem Codec.dupCollapse (t : Nat) (c : Nat) : Codec.Statement (.dupCollapse t c) := Codec.none rfl
theorem Codec.copyOnWrite (t : Nat) (c : Nat) : Codec.Statement (.copyOnWrite t c) := Codec.none rfl
theorem Codec.btCopyOnWrite (t : Nat) (c : Nat) : Codec.Statement (.btCopyOnWrite t c) := Codec.none rfl
theorem Codec.rmaPortOperation (t : Nat) : Codec.Statement (.rmaPortOperation t) := Codec.none rfl
theorem Codec.rmaCompletion (t : Nat) (n : Nat) : Codec.Statement (.rmaCompletion t n) := Codec.none rfl
theorem Codec.mmrunAccept (t : Nat) : Codec.Statement (.mmrunAccept t) := Codec.none rfl
theorem Codec.marimbaBlockAccumulate (t : Nat) : Codec.Statement (.marimbaBlockAccumulate t) := Codec.none rfl
theorem Codec.marimbaRunComplete (t : Nat) : Codec.Statement (.marimbaRunComplete t) := Codec.none rfl
theorem Codec.streamProgramStart (t : Nat) : Codec.Statement (.streamProgramStart t) := Codec.none rfl
theorem Codec.streamProgramEnd (e : Nat) : Codec.Statement (.streamProgramEnd e) := Codec.none rfl
theorem Codec.sacAccept (t : Nat) : Codec.Statement (.sacAccept t) := Codec.none rfl
theorem Codec.sacComplete (t : Nat) : Codec.Statement (.sacComplete t) := Codec.none rfl
theorem Codec.slotPhaseSwitch (t : Nat) : Codec.Statement (.slotPhaseSwitch t) := Codec.none rfl
theorem Codec.trapDelivery (t : Nat) (c : Nat) : Codec.Statement (.trapDelivery t c) := Codec.none rfl
theorem Codec.serviceVerdict (t : Nat) : Codec.Statement (.serviceVerdict t) := Codec.none rfl
theorem Codec.doubleFault (t : Nat) : Codec.Statement (.doubleFault t) := Codec.none rfl
theorem Codec.uncorrectableError (u : ErrUnit) : Codec.Statement (.uncorrectableError u) := Codec.none rfl
theorem Codec.correctedError (e : Corrected) : Codec.Statement (.correctedError e) := Codec.none rfl
theorem Codec.colourKillArrival (t : Nat) (dom : Nat) (col : Nat) (cause : Nat) (start : Nat) : Codec.Statement (.colourKillArrival t dom col cause start) := Codec.none rfl
theorem Codec.colourReclaimSweep (dom : Nat) : Codec.Statement (.colourReclaimSweep dom) := Codec.none rfl
theorem Codec.domainKill (dom : Nat) (cause : Nat) : Codec.Statement (.domainKill dom cause) := Codec.none rfl
theorem Codec.channelRemap (t : Nat) (u : Nat) : Codec.Statement (.channelRemap t u) := Codec.none rfl
theorem Codec.dieViral (d : Nat) : Codec.Statement (.dieViral d) := Codec.none rfl
theorem Codec.dieFence (d : Nat) : Codec.Statement (.dieFence d) := Codec.none rfl
theorem Codec.dieResetInPlace (d : Nat) (b : Boot) : Codec.Statement (.dieResetInPlace d b) := Codec.none rfl
theorem Codec.gongStop (dom : Nat) : Codec.Statement (.gongStop dom) := Codec.none rfl
theorem Codec.gangSwitch (dom : Nat) : Codec.Statement (.gangSwitch dom) := Codec.none rfl
theorem Codec.gangResume (dom : Nat) : Codec.Statement (.gangResume dom) := Codec.none rfl
theorem Codec.linkUp (x : LinkTarget) : Codec.Statement (.linkUp x) := Codec.none rfl
theorem Codec.forzenFrame (port : Nat) (good : Bool) : Codec.Statement (.forzenFrame port good) := Codec.none rfl
theorem Codec.linkRetrain (port : Nat) (x4 : Bool) : Codec.Statement (.linkRetrain port x4) := Codec.none rfl
theorem Codec.pathDown (m : Nat) : Codec.Statement (.pathDown m) := Codec.none rfl
theorem Codec.dropNotice (n : Nat) : Codec.Statement (.dropNotice n) := Codec.none rfl
theorem Codec.reservationGrant (m : Nat) (start : Nat) (rate : Nat) : Codec.Statement (.reservationGrant m start rate) := Codec.none rfl
theorem Codec.multicastStore (g : Nat) (off : Nat) (data : List Byte) : Codec.Statement (.multicastStore g off data) := Codec.none rfl
theorem Codec.federatedColourKill (dom : Nat) (col : Nat) (cause : Nat) (start : Nat) : Codec.Statement (.federatedColourKill dom col cause start) := Codec.none rfl
theorem Codec.federationModuleLoss (dom : Nat) (m : Nat) : Codec.Statement (.federationModuleLoss dom m) := Codec.none rfl
theorem Codec.launchRecord (f : Nat) (r : LaunchRec) : Codec.Statement (.launchRecord f r) := Codec.none rfl
theorem Codec.hostReturnRecord : Codec.Statement (.hostReturnRecord) := Codec.none rfl
theorem Codec.rsizeWrite (f : Nat) (v : Word) : Codec.Statement (.rsizeWrite f v) := Codec.none rfl
theorem Codec.rlostWrite (f : Nat) : Codec.Statement (.rlostWrite f) := Codec.none rfl
theorem Codec.debugStop (f : Nat) : Codec.Statement (.debugStop f) := Codec.none rfl
theorem Codec.debugResume (f : Nat) : Codec.Statement (.debugResume f) := Codec.none rfl
theorem Codec.debugKill (f : Nat) : Codec.Statement (.debugKill f) := Codec.none rfl
theorem Codec.hostRegisterWrite (f : Nat) (off : Nat) (v : Word) : Codec.Statement (.hostRegisterWrite f off v) := Codec.none rfl
theorem Codec.readConfig : Codec.Statement (.readConfig) := Codec.none rfl
theorem Codec.setMod (m : Nat) : Codec.Statement (.setMod m) := Codec.none rfl
theorem Codec.bindFn (f : Nat) (dom : Option Nat) : Codec.Statement (.bindFn f dom) := Codec.none rfl
theorem Codec.setKeys (dom : Nat) (keys : List (BitVec 256)) (req : Bool) : Codec.Statement (.setKeys dom keys req) := Codec.none rfl
theorem Codec.quote (nonce : BitVec 256) : Codec.Statement (.quote nonce) := Codec.none rfl
theorem Codec.readCert : Codec.Statement (.readCert) := Codec.none rfl
theorem Codec.readLifetime : Codec.Statement (.readLifetime) := Codec.none rfl
theorem Codec.setCap (kw : Nat) : Codec.Statement (.setCap kw) := Codec.none rfl
theorem Codec.containerLoad (f : Nat) (dom : Nat) (z : Container) : Codec.Statement (.containerLoad f dom z) := Codec.none rfl
theorem Codec.moduleReset (boots : List Boot) : Codec.Statement (.moduleReset boots) := Codec.none rfl
theorem Codec.avsWindowEnd (d : Nat) (temp : Nat) (thresholds : List (Nat × Nat)) : Codec.Statement (.avsWindowEnd d temp thresholds) := Codec.none rfl
theorem Codec.powerCapStep (watts : Nat) : Codec.Statement (.powerCapStep watts) := Codec.none rfl
theorem Codec.lifetimeCommit (down : Bool) (failed : Bool) : Codec.Statement (.lifetimeCommit down failed) := Codec.none rfl
theorem Codec.notAnInstruction (w : BitVec 32) : Codec.Statement (.notAnInstruction w) := Codec.none rfl
theorem Codec.instructionFetch : Codec.Statement (.instructionFetch) := Codec.none rfl
theorem Codec.pendingWrite (t : Nat) : Codec.Statement (.pendingWrite t) := Codec.none rfl
theorem Codec.globalAnswerReturn (t : Nat) (c : Nat) : Codec.Statement (.globalAnswerReturn t c) := Codec.none rfl
theorem Codec.btServiceAnswer (t : Nat) (c : Nat) : Codec.Statement (.btServiceAnswer t c) := Codec.none rfl
theorem Codec.engineAnswer (t : Nat) (c : Nat) : Codec.Statement (.engineAnswer t c) := Codec.none rfl
theorem Codec.gongRootAnswer (t : Nat) (c : Nat) : Codec.Statement (.gongRootAnswer t c) := Codec.none rfl
theorem Codec.packetHop (n : Nat) : Codec.Statement (.packetHop n) := Codec.none rfl
theorem Codec.reservationIdle (m : Nat) : Codec.Statement (.reservationIdle m) := Codec.none rfl
theorem Codec.linkFailure (x : LinkTarget) : Codec.Statement (.linkFailure x) := Codec.none rfl
theorem Codec.stackFailure (s : Nat) : Codec.Statement (.stackFailure s) := Codec.none rfl
theorem Codec.multicastGroupRegistration (g : Nat) (root : Nat) (dom : Nat) (base : Nat) (size : Nat) (members : List Nat) : Codec.Statement (.multicastGroupRegistration g root dom base size members) := Codec.none rfl
theorem Codec.federationRegistration (dom : Nat) (mods : List Nat) : Codec.Statement (.federationRegistration dom mods) := Codec.none rfl
theorem Codec.jobLeaves (dom : Nat) : Codec.Statement (.jobLeaves dom) := Codec.none rfl
theorem Codec.singleTileReplay (t : Nat) (dom : Nat) : Codec.Statement (.singleTileReplay t dom) := Codec.none rfl

end Sys2Proof.Laws
end

