-- ==== Sys2Proof/Laws/State.lean ====
section
/-! SUPPORT. One lemma per field per update: what each update of the state, of a tile and of a context leaves alone. -/

namespace Sys2Proof.Machine

/-! ### Updates of the state -/

@[simp] theorem State.setTile_beat (s : State) (t : Nat) (x : Tile) : (s.setTile t x).beat = s.beat := rfl
@[simp] theorem State.setTile_cur (s : State) (t : Nat) (x : Tile) : (s.setTile t x).cur = s.cur := rfl
@[simp] theorem State.setTile_who (s : State) (t : Nat) (x : Tile) : (s.setTile t x).who = s.who := rfl
@[simp] theorem State.setTile_phase (s : State) (t : Nat) (x : Tile) : (s.setTile t x).phase = s.phase := rfl
@[simp] theorem State.setTile_iw (s : State) (t : Nat) (x : Tile) : (s.setTile t x).iw = s.iw := rfl
@[simp] theorem State.setTile_now (s : State) (t : Nat) (x : Tile) : (s.setTile t x).now = s.now := rfl
@[simp] theorem State.setTile_later (s : State) (t : Nat) (x : Tile) : (s.setTile t x).later = s.later := rfl
@[simp] theorem State.setTile_fv (s : State) (t : Nat) (x : Tile) : (s.setTile t x).fv = s.fv := rfl
@[simp] theorem State.setTile_modNo (s : State) (t : Nat) (x : Tile) : (s.setTile t x).modNo = s.modNo := rfl
@[simp] theorem State.setTile_modSet (s : State) (t : Nat) (x : Tile) : (s.setTile t x).modSet = s.modSet := rfl
@[simp] theorem State.setTile_mem (s : State) (t : Nat) (x : Tile) : (s.setTile t x).mem = s.mem := rfl
@[simp] theorem State.setTile_memPoison (s : State) (t : Nat) (x : Tile) : (s.setTile t x).memPoison = s.memPoison := rfl
@[simp] theorem State.setTile_hostMem (s : State) (t : Nat) (x : Tile) : (s.setTile t x).hostMem = s.hostMem := rfl
@[simp] theorem State.setTile_code (s : State) (t : Nat) (x : Tile) : (s.setTile t x).code = s.code := rfl
@[simp] theorem State.setTile_caches (s : State) (t : Nat) (x : Tile) : (s.setTile t x).caches = s.caches := rfl
@[simp] theorem State.setTile_stackList (s : State) (t : Nat) (x : Tile) : (s.setTile t x).stackList = s.stackList := rfl
@[simp] theorem State.setTile_failedStacks (s : State) (t : Nat) (x : Tile) : (s.setTile t x).failedStacks = s.failedStacks := rfl
@[simp] theorem State.setTile_dies (s : State) (t : Nat) (x : Tile) : (s.setTile t x).dies = s.dies := rfl
@[simp] theorem State.setTile_domains (s : State) (t : Nat) (x : Tile) : (s.setTile t x).domains = s.domains := rfl
@[simp] theorem State.setTile_engines (s : State) (t : Nat) (x : Tile) : (s.setTile t x).engines = s.engines := rfl
@[simp] theorem State.setTile_net (s : State) (t : Nat) (x : Tile) : (s.setTile t x).net = s.net := rfl
@[simp] theorem State.setTile_gong (s : State) (t : Nat) (x : Tile) : (s.setTile t x).gong = s.gong := rfl
@[simp] theorem State.setTile_routes (s : State) (t : Nat) (x : Tile) : (s.setTile t x).routes = s.routes := rfl
@[simp] theorem State.setTile_downPaths (s : State) (t : Nat) (x : Tile) : (s.setTile t x).downPaths = s.downPaths := rfl
@[simp] theorem State.setTile_ports (s : State) (t : Nat) (x : Tile) : (s.setTile t x).ports = s.ports := rfl
@[simp] theorem State.setTile_groups (s : State) (t : Nat) (x : Tile) : (s.setTile t x).groups = s.groups := rfl
@[simp] theorem State.setTile_grants (s : State) (t : Nat) (x : Tile) : (s.setTile t x).grants = s.grants := rfl
@[simp] theorem State.setTile_asks (s : State) (t : Nat) (x : Tile) : (s.setTile t x).asks = s.asks := rfl
@[simp] theorem State.setTile_outKills (s : State) (t : Nat) (x : Tile) : (s.setTile t x).outKills = s.outKills := rfl
@[simp] theorem State.setTile_linkCount (s : State) (t : Nat) (x : Tile) : (s.setTile t x).linkCount = s.linkCount := rfl
@[simp] theorem State.setTile_downTargets (s : State) (t : Nat) (x : Tile) : (s.setTile t x).downTargets = s.downTargets := rfl
@[simp] theorem State.setTile_fns (s : State) (t : Nat) (x : Tile) : (s.setTile t x).fns = s.fns := rfl
@[simp] theorem State.setTile_keys (s : State) (t : Nat) (x : Tile) : (s.setTile t x).keys = s.keys := rfl
@[simp] theorem State.setTile_powerCap (s : State) (t : Nat) (x : Tile) : (s.setTile t x).powerCap = s.powerCap := rfl
@[simp] theorem State.setTile_clockStep (s : State) (t : Nat) (x : Tile) : (s.setTile t x).clockStep = s.clockStep := rfl
@[simp] theorem State.setTile_life (s : State) (t : Nat) (x : Tile) : (s.setTile t x).life = s.life := rfl
@[simp] theorem State.setTile_identity (s : State) (t : Nat) (x : Tile) : (s.setTile t x).identity = s.identity := rfl
@[simp] theorem State.setTile_mbox (s : State) (t : Nat) (x : Tile) : (s.setTile t x).mbox = s.mbox := rfl
@[simp] theorem State.setTile_mboxDone (s : State) (t : Nat) (x : Tile) : (s.setTile t x).mboxDone = s.mboxDone := rfl
@[simp] theorem State.setTile_unswept (s : State) (t : Nat) (x : Tile) : (s.setTile t x).unswept = s.unswept := rfl
@[simp] theorem State.setTile_tables (s : State) (t : Nat) (x : Tile) : (s.setTile t x).tables = s.tables := rfl
@[simp] theorem State.setTile_placed (s : State) (t : Nat) (x : Tile) : (s.setTile t x).placed = s.placed := rfl
@[simp] theorem State.setTile_federations (s : State) (t : Nat) (x : Tile) : (s.setTile t x).federations = s.federations := rfl

@[simp] theorem State.onTile_beat (s : State) (t : Nat) (f : Tile → Tile) : (s.onTile t f).beat = s.beat := rfl
@[simp] theorem State.onTile_cur (s : State) (t : Nat) (f : Tile → Tile) : (s.onTile t f).cur = s.cur := rfl
@[simp] theorem State.onTile_who (s : State) (t : Nat) (f : Tile → Tile) : (s.onTile t f).who = s.who := rfl
@[simp] theorem State.onTile_phase (s : State) (t : Nat) (f : Tile → Tile) : (s.onTile t f).phase = s.phase := rfl
@[simp] theorem State.onTile_iw (s : State) (t : Nat) (f : Tile → Tile) : (s.onTile t f).iw = s.iw := rfl
@[simp] theorem State.onTile_now (s : State) (t : Nat) (f : Tile → Tile) : (s.onTile t f).now = s.now := rfl
@[simp] theorem State.onTile_later (s : State) (t : Nat) (f : Tile → Tile) : (s.onTile t f).later = s.later := rfl
@[simp] theorem State.onTile_fv (s : State) (t : Nat) (f : Tile → Tile) : (s.onTile t f).fv = s.fv := rfl
@[simp] theorem State.onTile_modNo (s : State) (t : Nat) (f : Tile → Tile) : (s.onTile t f).modNo = s.modNo := rfl
@[simp] theorem State.onTile_modSet (s : State) (t : Nat) (f : Tile → Tile) : (s.onTile t f).modSet = s.modSet := rfl
@[simp] theorem State.onTile_mem (s : State) (t : Nat) (f : Tile → Tile) : (s.onTile t f).mem = s.mem := rfl
@[simp] theorem State.onTile_memPoison (s : State) (t : Nat) (f : Tile → Tile) : (s.onTile t f).memPoison = s.memPoison := rfl
@[simp] theorem State.onTile_hostMem (s : State) (t : Nat) (f : Tile → Tile) : (s.onTile t f).hostMem = s.hostMem := rfl
@[simp] theorem State.onTile_code (s : State) (t : Nat) (f : Tile → Tile) : (s.onTile t f).code = s.code := rfl
@[simp] theorem State.onTile_caches (s : State) (t : Nat) (f : Tile → Tile) : (s.onTile t f).caches = s.caches := rfl
@[simp] theorem State.onTile_stackList (s : State) (t : Nat) (f : Tile → Tile) : (s.onTile t f).stackList = s.stackList := rfl
@[simp] theorem State.onTile_failedStacks (s : State) (t : Nat) (f : Tile → Tile) : (s.onTile t f).failedStacks = s.failedStacks := rfl
@[simp] theorem State.onTile_dies (s : State) (t : Nat) (f : Tile → Tile) : (s.onTile t f).dies = s.dies := rfl
@[simp] theorem State.onTile_domains (s : State) (t : Nat) (f : Tile → Tile) : (s.onTile t f).domains = s.domains := rfl
@[simp] theorem State.onTile_engines (s : State) (t : Nat) (f : Tile → Tile) : (s.onTile t f).engines = s.engines := rfl
@[simp] theorem State.onTile_net (s : State) (t : Nat) (f : Tile → Tile) : (s.onTile t f).net = s.net := rfl
@[simp] theorem State.onTile_gong (s : State) (t : Nat) (f : Tile → Tile) : (s.onTile t f).gong = s.gong := rfl
@[simp] theorem State.onTile_routes (s : State) (t : Nat) (f : Tile → Tile) : (s.onTile t f).routes = s.routes := rfl
@[simp] theorem State.onTile_downPaths (s : State) (t : Nat) (f : Tile → Tile) : (s.onTile t f).downPaths = s.downPaths := rfl
@[simp] theorem State.onTile_ports (s : State) (t : Nat) (f : Tile → Tile) : (s.onTile t f).ports = s.ports := rfl
@[simp] theorem State.onTile_groups (s : State) (t : Nat) (f : Tile → Tile) : (s.onTile t f).groups = s.groups := rfl
@[simp] theorem State.onTile_grants (s : State) (t : Nat) (f : Tile → Tile) : (s.onTile t f).grants = s.grants := rfl
@[simp] theorem State.onTile_asks (s : State) (t : Nat) (f : Tile → Tile) : (s.onTile t f).asks = s.asks := rfl
@[simp] theorem State.onTile_outKills (s : State) (t : Nat) (f : Tile → Tile) : (s.onTile t f).outKills = s.outKills := rfl
@[simp] theorem State.onTile_linkCount (s : State) (t : Nat) (f : Tile → Tile) : (s.onTile t f).linkCount = s.linkCount := rfl
@[simp] theorem State.onTile_downTargets (s : State) (t : Nat) (f : Tile → Tile) : (s.onTile t f).downTargets = s.downTargets := rfl
@[simp] theorem State.onTile_fns (s : State) (t : Nat) (f : Tile → Tile) : (s.onTile t f).fns = s.fns := rfl
@[simp] theorem State.onTile_keys (s : State) (t : Nat) (f : Tile → Tile) : (s.onTile t f).keys = s.keys := rfl
@[simp] theorem State.onTile_powerCap (s : State) (t : Nat) (f : Tile → Tile) : (s.onTile t f).powerCap = s.powerCap := rfl
@[simp] theorem State.onTile_clockStep (s : State) (t : Nat) (f : Tile → Tile) : (s.onTile t f).clockStep = s.clockStep := rfl
@[simp] theorem State.onTile_life (s : State) (t : Nat) (f : Tile → Tile) : (s.onTile t f).life = s.life := rfl
@[simp] theorem State.onTile_identity (s : State) (t : Nat) (f : Tile → Tile) : (s.onTile t f).identity = s.identity := rfl
@[simp] theorem State.onTile_mbox (s : State) (t : Nat) (f : Tile → Tile) : (s.onTile t f).mbox = s.mbox := rfl
@[simp] theorem State.onTile_mboxDone (s : State) (t : Nat) (f : Tile → Tile) : (s.onTile t f).mboxDone = s.mboxDone := rfl
@[simp] theorem State.onTile_unswept (s : State) (t : Nat) (f : Tile → Tile) : (s.onTile t f).unswept = s.unswept := rfl
@[simp] theorem State.onTile_tables (s : State) (t : Nat) (f : Tile → Tile) : (s.onTile t f).tables = s.tables := rfl
@[simp] theorem State.onTile_placed (s : State) (t : Nat) (f : Tile → Tile) : (s.onTile t f).placed = s.placed := rfl
@[simp] theorem State.onTile_federations (s : State) (t : Nat) (f : Tile → Tile) : (s.onTile t f).federations = s.federations := rfl

@[simp] theorem State.onCtx_beat (s : State) (t c : Nat) (f : Ctx → Ctx) : (s.onCtx t c f).beat = s.beat := rfl
@[simp] theorem State.onCtx_cur (s : State) (t c : Nat) (f : Ctx → Ctx) : (s.onCtx t c f).cur = s.cur := rfl
@[simp] theorem State.onCtx_who (s : State) (t c : Nat) (f : Ctx → Ctx) : (s.onCtx t c f).who = s.who := rfl
@[simp] theorem State.onCtx_phase (s : State) (t c : Nat) (f : Ctx → Ctx) : (s.onCtx t c f).phase = s.phase := rfl
@[simp] theorem State.onCtx_iw (s : State) (t c : Nat) (f : Ctx → Ctx) : (s.onCtx t c f).iw = s.iw := rfl
@[simp] theorem State.onCtx_now (s : State) (t c : Nat) (f : Ctx → Ctx) : (s.onCtx t c f).now = s.now := rfl
@[simp] theorem State.onCtx_later (s : State) (t c : Nat) (f : Ctx → Ctx) : (s.onCtx t c f).later = s.later := rfl
@[simp] theorem State.onCtx_fv (s : State) (t c : Nat) (f : Ctx → Ctx) : (s.onCtx t c f).fv = s.fv := rfl
@[simp] theorem State.onCtx_modNo (s : State) (t c : Nat) (f : Ctx → Ctx) : (s.onCtx t c f).modNo = s.modNo := rfl
@[simp] theorem State.onCtx_modSet (s : State) (t c : Nat) (f : Ctx → Ctx) : (s.onCtx t c f).modSet = s.modSet := rfl
@[simp] theorem State.onCtx_mem (s : State) (t c : Nat) (f : Ctx → Ctx) : (s.onCtx t c f).mem = s.mem := rfl
@[simp] theorem State.onCtx_memPoison (s : State) (t c : Nat) (f : Ctx → Ctx) : (s.onCtx t c f).memPoison = s.memPoison := rfl
@[simp] theorem State.onCtx_hostMem (s : State) (t c : Nat) (f : Ctx → Ctx) : (s.onCtx t c f).hostMem = s.hostMem := rfl
@[simp] theorem State.onCtx_code (s : State) (t c : Nat) (f : Ctx → Ctx) : (s.onCtx t c f).code = s.code := rfl
@[simp] theorem State.onCtx_caches (s : State) (t c : Nat) (f : Ctx → Ctx) : (s.onCtx t c f).caches = s.caches := rfl
@[simp] theorem State.onCtx_stackList (s : State) (t c : Nat) (f : Ctx → Ctx) : (s.onCtx t c f).stackList = s.stackList := rfl
@[simp] theorem State.onCtx_failedStacks (s : State) (t c : Nat) (f : Ctx → Ctx) : (s.onCtx t c f).failedStacks = s.failedStacks := rfl
@[simp] theorem State.onCtx_dies (s : State) (t c : Nat) (f : Ctx → Ctx) : (s.onCtx t c f).dies = s.dies := rfl
@[simp] theorem State.onCtx_domains (s : State) (t c : Nat) (f : Ctx → Ctx) : (s.onCtx t c f).domains = s.domains := rfl
@[simp] theorem State.onCtx_engines (s : State) (t c : Nat) (f : Ctx → Ctx) : (s.onCtx t c f).engines = s.engines := rfl
@[simp] theorem State.onCtx_net (s : State) (t c : Nat) (f : Ctx → Ctx) : (s.onCtx t c f).net = s.net := rfl
@[simp] theorem State.onCtx_gong (s : State) (t c : Nat) (f : Ctx → Ctx) : (s.onCtx t c f).gong = s.gong := rfl
@[simp] theorem State.onCtx_routes (s : State) (t c : Nat) (f : Ctx → Ctx) : (s.onCtx t c f).routes = s.routes := rfl
@[simp] theorem State.onCtx_downPaths (s : State) (t c : Nat) (f : Ctx → Ctx) : (s.onCtx t c f).downPaths = s.downPaths := rfl
@[simp] theorem State.onCtx_ports (s : State) (t c : Nat) (f : Ctx → Ctx) : (s.onCtx t c f).ports = s.ports := rfl
@[simp] theorem State.onCtx_groups (s : State) (t c : Nat) (f : Ctx → Ctx) : (s.onCtx t c f).groups = s.groups := rfl
@[simp] theorem State.onCtx_grants (s : State) (t c : Nat) (f : Ctx → Ctx) : (s.onCtx t c f).grants = s.grants := rfl
@[simp] theorem State.onCtx_asks (s : State) (t c : Nat) (f : Ctx → Ctx) : (s.onCtx t c f).asks = s.asks := rfl
@[simp] theorem State.onCtx_outKills (s : State) (t c : Nat) (f : Ctx → Ctx) : (s.onCtx t c f).outKills = s.outKills := rfl
@[simp] theorem State.onCtx_linkCount (s : State) (t c : Nat) (f : Ctx → Ctx) : (s.onCtx t c f).linkCount = s.linkCount := rfl
@[simp] theorem State.onCtx_downTargets (s : State) (t c : Nat) (f : Ctx → Ctx) : (s.onCtx t c f).downTargets = s.downTargets := rfl
@[simp] theorem State.onCtx_fns (s : State) (t c : Nat) (f : Ctx → Ctx) : (s.onCtx t c f).fns = s.fns := rfl
@[simp] theorem State.onCtx_keys (s : State) (t c : Nat) (f : Ctx → Ctx) : (s.onCtx t c f).keys = s.keys := rfl
@[simp] theorem State.onCtx_powerCap (s : State) (t c : Nat) (f : Ctx → Ctx) : (s.onCtx t c f).powerCap = s.powerCap := rfl
@[simp] theorem State.onCtx_clockStep (s : State) (t c : Nat) (f : Ctx → Ctx) : (s.onCtx t c f).clockStep = s.clockStep := rfl
@[simp] theorem State.onCtx_life (s : State) (t c : Nat) (f : Ctx → Ctx) : (s.onCtx t c f).life = s.life := rfl
@[simp] theorem State.onCtx_identity (s : State) (t c : Nat) (f : Ctx → Ctx) : (s.onCtx t c f).identity = s.identity := rfl
@[simp] theorem State.onCtx_mbox (s : State) (t c : Nat) (f : Ctx → Ctx) : (s.onCtx t c f).mbox = s.mbox := rfl
@[simp] theorem State.onCtx_mboxDone (s : State) (t c : Nat) (f : Ctx → Ctx) : (s.onCtx t c f).mboxDone = s.mboxDone := rfl
@[simp] theorem State.onCtx_unswept (s : State) (t c : Nat) (f : Ctx → Ctx) : (s.onCtx t c f).unswept = s.unswept := rfl
@[simp] theorem State.onCtx_tables (s : State) (t c : Nat) (f : Ctx → Ctx) : (s.onCtx t c f).tables = s.tables := rfl
@[simp] theorem State.onCtx_placed (s : State) (t c : Nat) (f : Ctx → Ctx) : (s.onCtx t c f).placed = s.placed := rfl
@[simp] theorem State.onCtx_federations (s : State) (t c : Nat) (f : Ctx → Ctx) : (s.onCtx t c f).federations = s.federations := rfl

@[simp] theorem State.onMe_beat (s : State) (f : Ctx → Ctx) : (s.onMe f).beat = s.beat := rfl
@[simp] theorem State.onMe_cur (s : State) (f : Ctx → Ctx) : (s.onMe f).cur = s.cur := rfl
@[simp] theorem State.onMe_who (s : State) (f : Ctx → Ctx) : (s.onMe f).who = s.who := rfl
@[simp] theorem State.onMe_phase (s : State) (f : Ctx → Ctx) : (s.onMe f).phase = s.phase := rfl
@[simp] theorem State.onMe_iw (s : State) (f : Ctx → Ctx) : (s.onMe f).iw = s.iw := rfl
@[simp] theorem State.onMe_now (s : State) (f : Ctx → Ctx) : (s.onMe f).now = s.now := rfl
@[simp] theorem State.onMe_later (s : State) (f : Ctx → Ctx) : (s.onMe f).later = s.later := rfl
@[simp] theorem State.onMe_fv (s : State) (f : Ctx → Ctx) : (s.onMe f).fv = s.fv := rfl
@[simp] theorem State.onMe_modNo (s : State) (f : Ctx → Ctx) : (s.onMe f).modNo = s.modNo := rfl
@[simp] theorem State.onMe_modSet (s : State) (f : Ctx → Ctx) : (s.onMe f).modSet = s.modSet := rfl
@[simp] theorem State.onMe_mem (s : State) (f : Ctx → Ctx) : (s.onMe f).mem = s.mem := rfl
@[simp] theorem State.onMe_memPoison (s : State) (f : Ctx → Ctx) : (s.onMe f).memPoison = s.memPoison := rfl
@[simp] theorem State.onMe_hostMem (s : State) (f : Ctx → Ctx) : (s.onMe f).hostMem = s.hostMem := rfl
@[simp] theorem State.onMe_code (s : State) (f : Ctx → Ctx) : (s.onMe f).code = s.code := rfl
@[simp] theorem State.onMe_caches (s : State) (f : Ctx → Ctx) : (s.onMe f).caches = s.caches := rfl
@[simp] theorem State.onMe_stackList (s : State) (f : Ctx → Ctx) : (s.onMe f).stackList = s.stackList := rfl
@[simp] theorem State.onMe_failedStacks (s : State) (f : Ctx → Ctx) : (s.onMe f).failedStacks = s.failedStacks := rfl
@[simp] theorem State.onMe_dies (s : State) (f : Ctx → Ctx) : (s.onMe f).dies = s.dies := rfl
@[simp] theorem State.onMe_domains (s : State) (f : Ctx → Ctx) : (s.onMe f).domains = s.domains := rfl
@[simp] theorem State.onMe_engines (s : State) (f : Ctx → Ctx) : (s.onMe f).engines = s.engines := rfl
@[simp] theorem State.onMe_net (s : State) (f : Ctx → Ctx) : (s.onMe f).net = s.net := rfl
@[simp] theorem State.onMe_gong (s : State) (f : Ctx → Ctx) : (s.onMe f).gong = s.gong := rfl
@[simp] theorem State.onMe_routes (s : State) (f : Ctx → Ctx) : (s.onMe f).routes = s.routes := rfl
@[simp] theorem State.onMe_downPaths (s : State) (f : Ctx → Ctx) : (s.onMe f).downPaths = s.downPaths := rfl
@[simp] theorem State.onMe_ports (s : State) (f : Ctx → Ctx) : (s.onMe f).ports = s.ports := rfl
@[simp] theorem State.onMe_groups (s : State) (f : Ctx → Ctx) : (s.onMe f).groups = s.groups := rfl
@[simp] theorem State.onMe_grants (s : State) (f : Ctx → Ctx) : (s.onMe f).grants = s.grants := rfl
@[simp] theorem State.onMe_asks (s : State) (f : Ctx → Ctx) : (s.onMe f).asks = s.asks := rfl
@[simp] theorem State.onMe_outKills (s : State) (f : Ctx → Ctx) : (s.onMe f).outKills = s.outKills := rfl
@[simp] theorem State.onMe_linkCount (s : State) (f : Ctx → Ctx) : (s.onMe f).linkCount = s.linkCount := rfl
@[simp] theorem State.onMe_downTargets (s : State) (f : Ctx → Ctx) : (s.onMe f).downTargets = s.downTargets := rfl
@[simp] theorem State.onMe_fns (s : State) (f : Ctx → Ctx) : (s.onMe f).fns = s.fns := rfl
@[simp] theorem State.onMe_keys (s : State) (f : Ctx → Ctx) : (s.onMe f).keys = s.keys := rfl
@[simp] theorem State.onMe_powerCap (s : State) (f : Ctx → Ctx) : (s.onMe f).powerCap = s.powerCap := rfl
@[simp] theorem State.onMe_clockStep (s : State) (f : Ctx → Ctx) : (s.onMe f).clockStep = s.clockStep := rfl
@[simp] theorem State.onMe_life (s : State) (f : Ctx → Ctx) : (s.onMe f).life = s.life := rfl
@[simp] theorem State.onMe_identity (s : State) (f : Ctx → Ctx) : (s.onMe f).identity = s.identity := rfl
@[simp] theorem State.onMe_mbox (s : State) (f : Ctx → Ctx) : (s.onMe f).mbox = s.mbox := rfl
@[simp] theorem State.onMe_mboxDone (s : State) (f : Ctx → Ctx) : (s.onMe f).mboxDone = s.mboxDone := rfl
@[simp] theorem State.onMe_unswept (s : State) (f : Ctx → Ctx) : (s.onMe f).unswept = s.unswept := rfl
@[simp] theorem State.onMe_tables (s : State) (f : Ctx → Ctx) : (s.onMe f).tables = s.tables := rfl
@[simp] theorem State.onMe_placed (s : State) (f : Ctx → Ctx) : (s.onMe f).placed = s.placed := rfl
@[simp] theorem State.onMe_federations (s : State) (f : Ctx → Ctx) : (s.onMe f).federations = s.federations := rfl

@[simp] theorem State.onMy_beat (s : State) (f : Tile → Tile) : (s.onMy f).beat = s.beat := rfl
@[simp] theorem State.onMy_cur (s : State) (f : Tile → Tile) : (s.onMy f).cur = s.cur := rfl
@[simp] theorem State.onMy_who (s : State) (f : Tile → Tile) : (s.onMy f).who = s.who := rfl
@[simp] theorem State.onMy_phase (s : State) (f : Tile → Tile) : (s.onMy f).phase = s.phase := rfl
@[simp] theorem State.onMy_iw (s : State) (f : Tile → Tile) : (s.onMy f).iw = s.iw := rfl
@[simp] theorem State.onMy_now (s : State) (f : Tile → Tile) : (s.onMy f).now = s.now := rfl
@[simp] theorem State.onMy_later (s : State) (f : Tile → Tile) : (s.onMy f).later = s.later := rfl
@[simp] theorem State.onMy_fv (s : State) (f : Tile → Tile) : (s.onMy f).fv = s.fv := rfl
@[simp] theorem State.onMy_modNo (s : State) (f : Tile → Tile) : (s.onMy f).modNo = s.modNo := rfl
@[simp] theorem State.onMy_modSet (s : State) (f : Tile → Tile) : (s.onMy f).modSet = s.modSet := rfl
@[simp] theorem State.onMy_mem (s : State) (f : Tile → Tile) : (s.onMy f).mem = s.mem := rfl
@[simp] theorem State.onMy_memPoison (s : State) (f : Tile → Tile) : (s.onMy f).memPoison = s.memPoison := rfl
@[simp] theorem State.onMy_hostMem (s : State) (f : Tile → Tile) : (s.onMy f).hostMem = s.hostMem := rfl
@[simp] theorem State.onMy_code (s : State) (f : Tile → Tile) : (s.onMy f).code = s.code := rfl
@[simp] theorem State.onMy_caches (s : State) (f : Tile → Tile) : (s.onMy f).caches = s.caches := rfl
@[simp] theorem State.onMy_stackList (s : State) (f : Tile → Tile) : (s.onMy f).stackList = s.stackList := rfl
@[simp] theorem State.onMy_failedStacks (s : State) (f : Tile → Tile) : (s.onMy f).failedStacks = s.failedStacks := rfl
@[simp] theorem State.onMy_dies (s : State) (f : Tile → Tile) : (s.onMy f).dies = s.dies := rfl
@[simp] theorem State.onMy_domains (s : State) (f : Tile → Tile) : (s.onMy f).domains = s.domains := rfl
@[simp] theorem State.onMy_engines (s : State) (f : Tile → Tile) : (s.onMy f).engines = s.engines := rfl
@[simp] theorem State.onMy_net (s : State) (f : Tile → Tile) : (s.onMy f).net = s.net := rfl
@[simp] theorem State.onMy_gong (s : State) (f : Tile → Tile) : (s.onMy f).gong = s.gong := rfl
@[simp] theorem State.onMy_routes (s : State) (f : Tile → Tile) : (s.onMy f).routes = s.routes := rfl
@[simp] theorem State.onMy_downPaths (s : State) (f : Tile → Tile) : (s.onMy f).downPaths = s.downPaths := rfl
@[simp] theorem State.onMy_ports (s : State) (f : Tile → Tile) : (s.onMy f).ports = s.ports := rfl
@[simp] theorem State.onMy_groups (s : State) (f : Tile → Tile) : (s.onMy f).groups = s.groups := rfl
@[simp] theorem State.onMy_grants (s : State) (f : Tile → Tile) : (s.onMy f).grants = s.grants := rfl
@[simp] theorem State.onMy_asks (s : State) (f : Tile → Tile) : (s.onMy f).asks = s.asks := rfl
@[simp] theorem State.onMy_outKills (s : State) (f : Tile → Tile) : (s.onMy f).outKills = s.outKills := rfl
@[simp] theorem State.onMy_linkCount (s : State) (f : Tile → Tile) : (s.onMy f).linkCount = s.linkCount := rfl
@[simp] theorem State.onMy_downTargets (s : State) (f : Tile → Tile) : (s.onMy f).downTargets = s.downTargets := rfl
@[simp] theorem State.onMy_fns (s : State) (f : Tile → Tile) : (s.onMy f).fns = s.fns := rfl
@[simp] theorem State.onMy_keys (s : State) (f : Tile → Tile) : (s.onMy f).keys = s.keys := rfl
@[simp] theorem State.onMy_powerCap (s : State) (f : Tile → Tile) : (s.onMy f).powerCap = s.powerCap := rfl
@[simp] theorem State.onMy_clockStep (s : State) (f : Tile → Tile) : (s.onMy f).clockStep = s.clockStep := rfl
@[simp] theorem State.onMy_life (s : State) (f : Tile → Tile) : (s.onMy f).life = s.life := rfl
@[simp] theorem State.onMy_identity (s : State) (f : Tile → Tile) : (s.onMy f).identity = s.identity := rfl
@[simp] theorem State.onMy_mbox (s : State) (f : Tile → Tile) : (s.onMy f).mbox = s.mbox := rfl
@[simp] theorem State.onMy_mboxDone (s : State) (f : Tile → Tile) : (s.onMy f).mboxDone = s.mboxDone := rfl
@[simp] theorem State.onMy_unswept (s : State) (f : Tile → Tile) : (s.onMy f).unswept = s.unswept := rfl
@[simp] theorem State.onMy_tables (s : State) (f : Tile → Tile) : (s.onMy f).tables = s.tables := rfl
@[simp] theorem State.onMy_placed (s : State) (f : Tile → Tile) : (s.onMy f).placed = s.placed := rfl
@[simp] theorem State.onMy_federations (s : State) (f : Tile → Tile) : (s.onMy f).federations = s.federations := rfl

@[simp] theorem State.retire_beat (s : State) (pc : Word) : (s.retire pc).beat = s.beat := rfl
@[simp] theorem State.retire_cur (s : State) (pc : Word) : (s.retire pc).cur = s.cur := rfl
@[simp] theorem State.retire_who (s : State) (pc : Word) : (s.retire pc).who = s.who := rfl
@[simp] theorem State.retire_phase (s : State) (pc : Word) : (s.retire pc).phase = s.phase := rfl
@[simp] theorem State.retire_iw (s : State) (pc : Word) : (s.retire pc).iw = s.iw := rfl
@[simp] theorem State.retire_now (s : State) (pc : Word) : (s.retire pc).now = s.now := rfl
@[simp] theorem State.retire_later (s : State) (pc : Word) : (s.retire pc).later = s.later := rfl
@[simp] theorem State.retire_fv (s : State) (pc : Word) : (s.retire pc).fv = s.fv := rfl
@[simp] theorem State.retire_modNo (s : State) (pc : Word) : (s.retire pc).modNo = s.modNo := rfl
@[simp] theorem State.retire_modSet (s : State) (pc : Word) : (s.retire pc).modSet = s.modSet := rfl
@[simp] theorem State.retire_mem (s : State) (pc : Word) : (s.retire pc).mem = s.mem := rfl
@[simp] theorem State.retire_memPoison (s : State) (pc : Word) : (s.retire pc).memPoison = s.memPoison := rfl
@[simp] theorem State.retire_hostMem (s : State) (pc : Word) : (s.retire pc).hostMem = s.hostMem := rfl
@[simp] theorem State.retire_code (s : State) (pc : Word) : (s.retire pc).code = s.code := rfl
@[simp] theorem State.retire_caches (s : State) (pc : Word) : (s.retire pc).caches = s.caches := rfl
@[simp] theorem State.retire_stackList (s : State) (pc : Word) : (s.retire pc).stackList = s.stackList := rfl
@[simp] theorem State.retire_failedStacks (s : State) (pc : Word) : (s.retire pc).failedStacks = s.failedStacks := rfl
@[simp] theorem State.retire_dies (s : State) (pc : Word) : (s.retire pc).dies = s.dies := rfl
@[simp] theorem State.retire_domains (s : State) (pc : Word) : (s.retire pc).domains = s.domains := rfl
@[simp] theorem State.retire_engines (s : State) (pc : Word) : (s.retire pc).engines = s.engines := rfl
@[simp] theorem State.retire_net (s : State) (pc : Word) : (s.retire pc).net = s.net := rfl
@[simp] theorem State.retire_gong (s : State) (pc : Word) : (s.retire pc).gong = s.gong := rfl
@[simp] theorem State.retire_routes (s : State) (pc : Word) : (s.retire pc).routes = s.routes := rfl
@[simp] theorem State.retire_downPaths (s : State) (pc : Word) : (s.retire pc).downPaths = s.downPaths := rfl
@[simp] theorem State.retire_ports (s : State) (pc : Word) : (s.retire pc).ports = s.ports := rfl
@[simp] theorem State.retire_groups (s : State) (pc : Word) : (s.retire pc).groups = s.groups := rfl
@[simp] theorem State.retire_grants (s : State) (pc : Word) : (s.retire pc).grants = s.grants := rfl
@[simp] theorem State.retire_asks (s : State) (pc : Word) : (s.retire pc).asks = s.asks := rfl
@[simp] theorem State.retire_outKills (s : State) (pc : Word) : (s.retire pc).outKills = s.outKills := rfl
@[simp] theorem State.retire_linkCount (s : State) (pc : Word) : (s.retire pc).linkCount = s.linkCount := rfl
@[simp] theorem State.retire_downTargets (s : State) (pc : Word) : (s.retire pc).downTargets = s.downTargets := rfl
@[simp] theorem State.retire_fns (s : State) (pc : Word) : (s.retire pc).fns = s.fns := rfl
@[simp] theorem State.retire_keys (s : State) (pc : Word) : (s.retire pc).keys = s.keys := rfl
@[simp] theorem State.retire_powerCap (s : State) (pc : Word) : (s.retire pc).powerCap = s.powerCap := rfl
@[simp] theorem State.retire_clockStep (s : State) (pc : Word) : (s.retire pc).clockStep = s.clockStep := rfl
@[simp] theorem State.retire_life (s : State) (pc : Word) : (s.retire pc).life = s.life := rfl
@[simp] theorem State.retire_identity (s : State) (pc : Word) : (s.retire pc).identity = s.identity := rfl
@[simp] theorem State.retire_mbox (s : State) (pc : Word) : (s.retire pc).mbox = s.mbox := rfl
@[simp] theorem State.retire_mboxDone (s : State) (pc : Word) : (s.retire pc).mboxDone = s.mboxDone := rfl
@[simp] theorem State.retire_unswept (s : State) (pc : Word) : (s.retire pc).unswept = s.unswept := rfl
@[simp] theorem State.retire_tables (s : State) (pc : Word) : (s.retire pc).tables = s.tables := rfl
@[simp] theorem State.retire_placed (s : State) (pc : Word) : (s.retire pc).placed = s.placed := rfl
@[simp] theorem State.retire_federations (s : State) (pc : Word) : (s.retire pc).federations = s.federations := rfl

@[simp] theorem State.raise_beat (s : State) (f : Fl) : (s.raise f).beat = s.beat := rfl
@[simp] theorem State.raise_cur (s : State) (f : Fl) : (s.raise f).cur = s.cur := rfl
@[simp] theorem State.raise_who (s : State) (f : Fl) : (s.raise f).who = s.who := rfl
@[simp] theorem State.raise_phase (s : State) (f : Fl) : (s.raise f).phase = s.phase := rfl
@[simp] theorem State.raise_iw (s : State) (f : Fl) : (s.raise f).iw = s.iw := rfl
@[simp] theorem State.raise_now (s : State) (f : Fl) : (s.raise f).now = s.now := rfl
@[simp] theorem State.raise_later (s : State) (f : Fl) : (s.raise f).later = s.later := rfl
@[simp] theorem State.raise_fv (s : State) (f : Fl) : (s.raise f).fv = s.fv := rfl
@[simp] theorem State.raise_modNo (s : State) (f : Fl) : (s.raise f).modNo = s.modNo := rfl
@[simp] theorem State.raise_modSet (s : State) (f : Fl) : (s.raise f).modSet = s.modSet := rfl
@[simp] theorem State.raise_mem (s : State) (f : Fl) : (s.raise f).mem = s.mem := rfl
@[simp] theorem State.raise_memPoison (s : State) (f : Fl) : (s.raise f).memPoison = s.memPoison := rfl
@[simp] theorem State.raise_hostMem (s : State) (f : Fl) : (s.raise f).hostMem = s.hostMem := rfl
@[simp] theorem State.raise_code (s : State) (f : Fl) : (s.raise f).code = s.code := rfl
@[simp] theorem State.raise_caches (s : State) (f : Fl) : (s.raise f).caches = s.caches := rfl
@[simp] theorem State.raise_stackList (s : State) (f : Fl) : (s.raise f).stackList = s.stackList := rfl
@[simp] theorem State.raise_failedStacks (s : State) (f : Fl) : (s.raise f).failedStacks = s.failedStacks := rfl
@[simp] theorem State.raise_dies (s : State) (f : Fl) : (s.raise f).dies = s.dies := rfl
@[simp] theorem State.raise_domains (s : State) (f : Fl) : (s.raise f).domains = s.domains := rfl
@[simp] theorem State.raise_engines (s : State) (f : Fl) : (s.raise f).engines = s.engines := rfl
@[simp] theorem State.raise_net (s : State) (f : Fl) : (s.raise f).net = s.net := rfl
@[simp] theorem State.raise_gong (s : State) (f : Fl) : (s.raise f).gong = s.gong := rfl
@[simp] theorem State.raise_routes (s : State) (f : Fl) : (s.raise f).routes = s.routes := rfl
@[simp] theorem State.raise_downPaths (s : State) (f : Fl) : (s.raise f).downPaths = s.downPaths := rfl
@[simp] theorem State.raise_ports (s : State) (f : Fl) : (s.raise f).ports = s.ports := rfl
@[simp] theorem State.raise_groups (s : State) (f : Fl) : (s.raise f).groups = s.groups := rfl
@[simp] theorem State.raise_grants (s : State) (f : Fl) : (s.raise f).grants = s.grants := rfl
@[simp] theorem State.raise_asks (s : State) (f : Fl) : (s.raise f).asks = s.asks := rfl
@[simp] theorem State.raise_outKills (s : State) (f : Fl) : (s.raise f).outKills = s.outKills := rfl
@[simp] theorem State.raise_linkCount (s : State) (f : Fl) : (s.raise f).linkCount = s.linkCount := rfl
@[simp] theorem State.raise_downTargets (s : State) (f : Fl) : (s.raise f).downTargets = s.downTargets := rfl
@[simp] theorem State.raise_fns (s : State) (f : Fl) : (s.raise f).fns = s.fns := rfl
@[simp] theorem State.raise_keys (s : State) (f : Fl) : (s.raise f).keys = s.keys := rfl
@[simp] theorem State.raise_powerCap (s : State) (f : Fl) : (s.raise f).powerCap = s.powerCap := rfl
@[simp] theorem State.raise_clockStep (s : State) (f : Fl) : (s.raise f).clockStep = s.clockStep := rfl
@[simp] theorem State.raise_life (s : State) (f : Fl) : (s.raise f).life = s.life := rfl
@[simp] theorem State.raise_identity (s : State) (f : Fl) : (s.raise f).identity = s.identity := rfl
@[simp] theorem State.raise_mbox (s : State) (f : Fl) : (s.raise f).mbox = s.mbox := rfl
@[simp] theorem State.raise_mboxDone (s : State) (f : Fl) : (s.raise f).mboxDone = s.mboxDone := rfl
@[simp] theorem State.raise_unswept (s : State) (f : Fl) : (s.raise f).unswept = s.unswept := rfl
@[simp] theorem State.raise_tables (s : State) (f : Fl) : (s.raise f).tables = s.tables := rfl
@[simp] theorem State.raise_placed (s : State) (f : Fl) : (s.raise f).placed = s.placed := rfl
@[simp] theorem State.raise_federations (s : State) (f : Fl) : (s.raise f).federations = s.federations := rfl

@[simp] theorem State.put_beat (s : State) (d : Dst) (v : VReg) (lat : Nat) : (s.put d v lat).beat = s.beat := by unfold State.put; split <;> rfl
@[simp] theorem State.put_cur (s : State) (d : Dst) (v : VReg) (lat : Nat) : (s.put d v lat).cur = s.cur := by unfold State.put; split <;> rfl
@[simp] theorem State.put_who (s : State) (d : Dst) (v : VReg) (lat : Nat) : (s.put d v lat).who = s.who := by unfold State.put; split <;> rfl
@[simp] theorem State.put_phase (s : State) (d : Dst) (v : VReg) (lat : Nat) : (s.put d v lat).phase = s.phase := by unfold State.put; split <;> rfl
@[simp] theorem State.put_iw (s : State) (d : Dst) (v : VReg) (lat : Nat) : (s.put d v lat).iw = s.iw := by unfold State.put; split <;> rfl
@[simp] theorem State.put_now (s : State) (d : Dst) (v : VReg) (lat : Nat) : (s.put d v lat).now = s.now := by unfold State.put; split <;> rfl
@[simp] theorem State.put_later (s : State) (d : Dst) (v : VReg) (lat : Nat) : (s.put d v lat).later = s.later := by unfold State.put; split <;> rfl
@[simp] theorem State.put_fv (s : State) (d : Dst) (v : VReg) (lat : Nat) : (s.put d v lat).fv = s.fv := by unfold State.put; split <;> rfl
@[simp] theorem State.put_modNo (s : State) (d : Dst) (v : VReg) (lat : Nat) : (s.put d v lat).modNo = s.modNo := by unfold State.put; split <;> rfl
@[simp] theorem State.put_modSet (s : State) (d : Dst) (v : VReg) (lat : Nat) : (s.put d v lat).modSet = s.modSet := by unfold State.put; split <;> rfl
@[simp] theorem State.put_mem (s : State) (d : Dst) (v : VReg) (lat : Nat) : (s.put d v lat).mem = s.mem := by unfold State.put; split <;> rfl
@[simp] theorem State.put_memPoison (s : State) (d : Dst) (v : VReg) (lat : Nat) : (s.put d v lat).memPoison = s.memPoison := by unfold State.put; split <;> rfl
@[simp] theorem State.put_hostMem (s : State) (d : Dst) (v : VReg) (lat : Nat) : (s.put d v lat).hostMem = s.hostMem := by unfold State.put; split <;> rfl
@[simp] theorem State.put_code (s : State) (d : Dst) (v : VReg) (lat : Nat) : (s.put d v lat).code = s.code := by unfold State.put; split <;> rfl
@[simp] theorem State.put_caches (s : State) (d : Dst) (v : VReg) (lat : Nat) : (s.put d v lat).caches = s.caches := by unfold State.put; split <;> rfl
@[simp] theorem State.put_stackList (s : State) (d : Dst) (v : VReg) (lat : Nat) : (s.put d v lat).stackList = s.stackList := by unfold State.put; split <;> rfl
@[simp] theorem State.put_failedStacks (s : State) (d : Dst) (v : VReg) (lat : Nat) : (s.put d v lat).failedStacks = s.failedStacks := by unfold State.put; split <;> rfl
@[simp] theorem State.put_dies (s : State) (d : Dst) (v : VReg) (lat : Nat) : (s.put d v lat).dies = s.dies := by unfold State.put; split <;> rfl
@[simp] theorem State.put_domains (s : State) (d : Dst) (v : VReg) (lat : Nat) : (s.put d v lat).domains = s.domains := by unfold State.put; split <;> rfl
@[simp] theorem State.put_engines (s : State) (d : Dst) (v : VReg) (lat : Nat) : (s.put d v lat).engines = s.engines := by unfold State.put; split <;> rfl
@[simp] theorem State.put_net (s : State) (d : Dst) (v : VReg) (lat : Nat) : (s.put d v lat).net = s.net := by unfold State.put; split <;> rfl
@[simp] theorem State.put_gong (s : State) (d : Dst) (v : VReg) (lat : Nat) : (s.put d v lat).gong = s.gong := by unfold State.put; split <;> rfl
@[simp] theorem State.put_routes (s : State) (d : Dst) (v : VReg) (lat : Nat) : (s.put d v lat).routes = s.routes := by unfold State.put; split <;> rfl
@[simp] theorem State.put_downPaths (s : State) (d : Dst) (v : VReg) (lat : Nat) : (s.put d v lat).downPaths = s.downPaths := by unfold State.put; split <;> rfl
@[simp] theorem State.put_ports (s : State) (d : Dst) (v : VReg) (lat : Nat) : (s.put d v lat).ports = s.ports := by unfold State.put; split <;> rfl
@[simp] theorem State.put_groups (s : State) (d : Dst) (v : VReg) (lat : Nat) : (s.put d v lat).groups = s.groups := by unfold State.put; split <;> rfl
@[simp] theorem State.put_grants (s : State) (d : Dst) (v : VReg) (lat : Nat) : (s.put d v lat).grants = s.grants := by unfold State.put; split <;> rfl
@[simp] theorem State.put_asks (s : State) (d : Dst) (v : VReg) (lat : Nat) : (s.put d v lat).asks = s.asks := by unfold State.put; split <;> rfl
@[simp] theorem State.put_outKills (s : State) (d : Dst) (v : VReg) (lat : Nat) : (s.put d v lat).outKills = s.outKills := by unfold State.put; split <;> rfl
@[simp] theorem State.put_linkCount (s : State) (d : Dst) (v : VReg) (lat : Nat) : (s.put d v lat).linkCount = s.linkCount := by unfold State.put; split <;> rfl
@[simp] theorem State.put_downTargets (s : State) (d : Dst) (v : VReg) (lat : Nat) : (s.put d v lat).downTargets = s.downTargets := by unfold State.put; split <;> rfl
@[simp] theorem State.put_fns (s : State) (d : Dst) (v : VReg) (lat : Nat) : (s.put d v lat).fns = s.fns := by unfold State.put; split <;> rfl
@[simp] theorem State.put_keys (s : State) (d : Dst) (v : VReg) (lat : Nat) : (s.put d v lat).keys = s.keys := by unfold State.put; split <;> rfl
@[simp] theorem State.put_powerCap (s : State) (d : Dst) (v : VReg) (lat : Nat) : (s.put d v lat).powerCap = s.powerCap := by unfold State.put; split <;> rfl
@[simp] theorem State.put_clockStep (s : State) (d : Dst) (v : VReg) (lat : Nat) : (s.put d v lat).clockStep = s.clockStep := by unfold State.put; split <;> rfl
@[simp] theorem State.put_life (s : State) (d : Dst) (v : VReg) (lat : Nat) : (s.put d v lat).life = s.life := by unfold State.put; split <;> rfl
@[simp] theorem State.put_identity (s : State) (d : Dst) (v : VReg) (lat : Nat) : (s.put d v lat).identity = s.identity := by unfold State.put; split <;> rfl
@[simp] theorem State.put_mbox (s : State) (d : Dst) (v : VReg) (lat : Nat) : (s.put d v lat).mbox = s.mbox := by unfold State.put; split <;> rfl
@[simp] theorem State.put_mboxDone (s : State) (d : Dst) (v : VReg) (lat : Nat) : (s.put d v lat).mboxDone = s.mboxDone := by unfold State.put; split <;> rfl
@[simp] theorem State.put_unswept (s : State) (d : Dst) (v : VReg) (lat : Nat) : (s.put d v lat).unswept = s.unswept := by unfold State.put; split <;> rfl
@[simp] theorem State.put_tables (s : State) (d : Dst) (v : VReg) (lat : Nat) : (s.put d v lat).tables = s.tables := by unfold State.put; split <;> rfl
@[simp] theorem State.put_placed (s : State) (d : Dst) (v : VReg) (lat : Nat) : (s.put d v lat).placed = s.placed := by unfold State.put; split <;> rfl
@[simp] theorem State.put_federations (s : State) (d : Dst) (v : VReg) (lat : Nat) : (s.put d v lat).federations = s.federations := by unfold State.put; split <;> rfl

@[simp] theorem State.putG_beat (s : State) (r : Reg) (w : Word) (lat : Nat) : (s.putG r w lat).beat = s.beat := by unfold State.putG State.put; split <;> rfl
@[simp] theorem State.putG_cur (s : State) (r : Reg) (w : Word) (lat : Nat) : (s.putG r w lat).cur = s.cur := by unfold State.putG State.put; split <;> rfl
@[simp] theorem State.putG_who (s : State) (r : Reg) (w : Word) (lat : Nat) : (s.putG r w lat).who = s.who := by unfold State.putG State.put; split <;> rfl
@[simp] theorem State.putG_phase (s : State) (r : Reg) (w : Word) (lat : Nat) : (s.putG r w lat).phase = s.phase := by unfold State.putG State.put; split <;> rfl
@[simp] theorem State.putG_iw (s : State) (r : Reg) (w : Word) (lat : Nat) : (s.putG r w lat).iw = s.iw := by unfold State.putG State.put; split <;> rfl
@[simp] theorem State.putG_now (s : State) (r : Reg) (w : Word) (lat : Nat) : (s.putG r w lat).now = s.now := by unfold State.putG State.put; split <;> rfl
@[simp] theorem State.putG_later (s : State) (r : Reg) (w : Word) (lat : Nat) : (s.putG r w lat).later = s.later := by unfold State.putG State.put; split <;> rfl
@[simp] theorem State.putG_fv (s : State) (r : Reg) (w : Word) (lat : Nat) : (s.putG r w lat).fv = s.fv := by unfold State.putG State.put; split <;> rfl
@[simp] theorem State.putG_modNo (s : State) (r : Reg) (w : Word) (lat : Nat) : (s.putG r w lat).modNo = s.modNo := by unfold State.putG State.put; split <;> rfl
@[simp] theorem State.putG_modSet (s : State) (r : Reg) (w : Word) (lat : Nat) : (s.putG r w lat).modSet = s.modSet := by unfold State.putG State.put; split <;> rfl
@[simp] theorem State.putG_mem (s : State) (r : Reg) (w : Word) (lat : Nat) : (s.putG r w lat).mem = s.mem := by unfold State.putG State.put; split <;> rfl
@[simp] theorem State.putG_memPoison (s : State) (r : Reg) (w : Word) (lat : Nat) : (s.putG r w lat).memPoison = s.memPoison := by unfold State.putG State.put; split <;> rfl
@[simp] theorem State.putG_hostMem (s : State) (r : Reg) (w : Word) (lat : Nat) : (s.putG r w lat).hostMem = s.hostMem := by unfold State.putG State.put; split <;> rfl
@[simp] theorem State.putG_code (s : State) (r : Reg) (w : Word) (lat : Nat) : (s.putG r w lat).code = s.code := by unfold State.putG State.put; split <;> rfl
@[simp] theorem State.putG_caches (s : State) (r : Reg) (w : Word) (lat : Nat) : (s.putG r w lat).caches = s.caches := by unfold State.putG State.put; split <;> rfl
@[simp] theorem State.putG_stackList (s : State) (r : Reg) (w : Word) (lat : Nat) : (s.putG r w lat).stackList = s.stackList := by unfold State.putG State.put; split <;> rfl
@[simp] theorem State.putG_failedStacks (s : State) (r : Reg) (w : Word) (lat : Nat) : (s.putG r w lat).failedStacks = s.failedStacks := by unfold State.putG State.put; split <;> rfl
@[simp] theorem State.putG_dies (s : State) (r : Reg) (w : Word) (lat : Nat) : (s.putG r w lat).dies = s.dies := by unfold State.putG State.put; split <;> rfl
@[simp] theorem State.putG_domains (s : State) (r : Reg) (w : Word) (lat : Nat) : (s.putG r w lat).domains = s.domains := by unfold State.putG State.put; split <;> rfl
@[simp] theorem State.putG_engines (s : State) (r : Reg) (w : Word) (lat : Nat) : (s.putG r w lat).engines = s.engines := by unfold State.putG State.put; split <;> rfl
@[simp] theorem State.putG_net (s : State) (r : Reg) (w : Word) (lat : Nat) : (s.putG r w lat).net = s.net := by unfold State.putG State.put; split <;> rfl
@[simp] theorem State.putG_gong (s : State) (r : Reg) (w : Word) (lat : Nat) : (s.putG r w lat).gong = s.gong := by unfold State.putG State.put; split <;> rfl
@[simp] theorem State.putG_routes (s : State) (r : Reg) (w : Word) (lat : Nat) : (s.putG r w lat).routes = s.routes := by unfold State.putG State.put; split <;> rfl
@[simp] theorem State.putG_downPaths (s : State) (r : Reg) (w : Word) (lat : Nat) : (s.putG r w lat).downPaths = s.downPaths := by unfold State.putG State.put; split <;> rfl
@[simp] theorem State.putG_ports (s : State) (r : Reg) (w : Word) (lat : Nat) : (s.putG r w lat).ports = s.ports := by unfold State.putG State.put; split <;> rfl
@[simp] theorem State.putG_groups (s : State) (r : Reg) (w : Word) (lat : Nat) : (s.putG r w lat).groups = s.groups := by unfold State.putG State.put; split <;> rfl
@[simp] theorem State.putG_grants (s : State) (r : Reg) (w : Word) (lat : Nat) : (s.putG r w lat).grants = s.grants := by unfold State.putG State.put; split <;> rfl
@[simp] theorem State.putG_asks (s : State) (r : Reg) (w : Word) (lat : Nat) : (s.putG r w lat).asks = s.asks := by unfold State.putG State.put; split <;> rfl
@[simp] theorem State.putG_outKills (s : State) (r : Reg) (w : Word) (lat : Nat) : (s.putG r w lat).outKills = s.outKills := by unfold State.putG State.put; split <;> rfl
@[simp] theorem State.putG_linkCount (s : State) (r : Reg) (w : Word) (lat : Nat) : (s.putG r w lat).linkCount = s.linkCount := by unfold State.putG State.put; split <;> rfl
@[simp] theorem State.putG_downTargets (s : State) (r : Reg) (w : Word) (lat : Nat) : (s.putG r w lat).downTargets = s.downTargets := by unfold State.putG State.put; split <;> rfl
@[simp] theorem State.putG_fns (s : State) (r : Reg) (w : Word) (lat : Nat) : (s.putG r w lat).fns = s.fns := by unfold State.putG State.put; split <;> rfl
@[simp] theorem State.putG_keys (s : State) (r : Reg) (w : Word) (lat : Nat) : (s.putG r w lat).keys = s.keys := by unfold State.putG State.put; split <;> rfl
@[simp] theorem State.putG_powerCap (s : State) (r : Reg) (w : Word) (lat : Nat) : (s.putG r w lat).powerCap = s.powerCap := by unfold State.putG State.put; split <;> rfl
@[simp] theorem State.putG_clockStep (s : State) (r : Reg) (w : Word) (lat : Nat) : (s.putG r w lat).clockStep = s.clockStep := by unfold State.putG State.put; split <;> rfl
@[simp] theorem State.putG_life (s : State) (r : Reg) (w : Word) (lat : Nat) : (s.putG r w lat).life = s.life := by unfold State.putG State.put; split <;> rfl
@[simp] theorem State.putG_identity (s : State) (r : Reg) (w : Word) (lat : Nat) : (s.putG r w lat).identity = s.identity := by unfold State.putG State.put; split <;> rfl
@[simp] theorem State.putG_mbox (s : State) (r : Reg) (w : Word) (lat : Nat) : (s.putG r w lat).mbox = s.mbox := by unfold State.putG State.put; split <;> rfl
@[simp] theorem State.putG_mboxDone (s : State) (r : Reg) (w : Word) (lat : Nat) : (s.putG r w lat).mboxDone = s.mboxDone := by unfold State.putG State.put; split <;> rfl
@[simp] theorem State.putG_unswept (s : State) (r : Reg) (w : Word) (lat : Nat) : (s.putG r w lat).unswept = s.unswept := by unfold State.putG State.put; split <;> rfl
@[simp] theorem State.putG_tables (s : State) (r : Reg) (w : Word) (lat : Nat) : (s.putG r w lat).tables = s.tables := by unfold State.putG State.put; split <;> rfl
@[simp] theorem State.putG_placed (s : State) (r : Reg) (w : Word) (lat : Nat) : (s.putG r w lat).placed = s.placed := by unfold State.putG State.put; split <;> rfl
@[simp] theorem State.putG_federations (s : State) (r : Reg) (w : Word) (lat : Nat) : (s.putG r w lat).federations = s.federations := by unfold State.putG State.put; split <;> rfl

@[simp] theorem State.post_beat (s : State) (e : Event) : (s.post e).beat = s.beat := rfl
@[simp] theorem State.post_cur (s : State) (e : Event) : (s.post e).cur = s.cur := rfl
@[simp] theorem State.post_who (s : State) (e : Event) : (s.post e).who = s.who := rfl
@[simp] theorem State.post_phase (s : State) (e : Event) : (s.post e).phase = s.phase := rfl
@[simp] theorem State.post_iw (s : State) (e : Event) : (s.post e).iw = s.iw := rfl
@[simp] theorem State.post_now (s : State) (e : Event) : (s.post e).now = s.now := rfl
@[simp] theorem State.post_fv (s : State) (e : Event) : (s.post e).fv = s.fv := rfl
@[simp] theorem State.post_tiles (s : State) (e : Event) : (s.post e).tiles = s.tiles := rfl
@[simp] theorem State.post_modNo (s : State) (e : Event) : (s.post e).modNo = s.modNo := rfl
@[simp] theorem State.post_modSet (s : State) (e : Event) : (s.post e).modSet = s.modSet := rfl
@[simp] theorem State.post_mem (s : State) (e : Event) : (s.post e).mem = s.mem := rfl
@[simp] theorem State.post_memPoison (s : State) (e : Event) : (s.post e).memPoison = s.memPoison := rfl
@[simp] theorem State.post_hostMem (s : State) (e : Event) : (s.post e).hostMem = s.hostMem := rfl
@[simp] theorem State.post_code (s : State) (e : Event) : (s.post e).code = s.code := rfl
@[simp] theorem State.post_caches (s : State) (e : Event) : (s.post e).caches = s.caches := rfl
@[simp] theorem State.post_stackList (s : State) (e : Event) : (s.post e).stackList = s.stackList := rfl
@[simp] theorem State.post_failedStacks (s : State) (e : Event) : (s.post e).failedStacks = s.failedStacks := rfl
@[simp] theorem State.post_dies (s : State) (e : Event) : (s.post e).dies = s.dies := rfl
@[simp] theorem State.post_domains (s : State) (e : Event) : (s.post e).domains = s.domains := rfl
@[simp] theorem State.post_engines (s : State) (e : Event) : (s.post e).engines = s.engines := rfl
@[simp] theorem State.post_net (s : State) (e : Event) : (s.post e).net = s.net := rfl
@[simp] theorem State.post_gong (s : State) (e : Event) : (s.post e).gong = s.gong := rfl
@[simp] theorem State.post_routes (s : State) (e : Event) : (s.post e).routes = s.routes := rfl
@[simp] theorem State.post_downPaths (s : State) (e : Event) : (s.post e).downPaths = s.downPaths := rfl
@[simp] theorem State.post_ports (s : State) (e : Event) : (s.post e).ports = s.ports := rfl
@[simp] theorem State.post_groups (s : State) (e : Event) : (s.post e).groups = s.groups := rfl
@[simp] theorem State.post_grants (s : State) (e : Event) : (s.post e).grants = s.grants := rfl
@[simp] theorem State.post_asks (s : State) (e : Event) : (s.post e).asks = s.asks := rfl
@[simp] theorem State.post_outKills (s : State) (e : Event) : (s.post e).outKills = s.outKills := rfl
@[simp] theorem State.post_linkCount (s : State) (e : Event) : (s.post e).linkCount = s.linkCount := rfl
@[simp] theorem State.post_downTargets (s : State) (e : Event) : (s.post e).downTargets = s.downTargets := rfl
@[simp] theorem State.post_fns (s : State) (e : Event) : (s.post e).fns = s.fns := rfl
@[simp] theorem State.post_keys (s : State) (e : Event) : (s.post e).keys = s.keys := rfl
@[simp] theorem State.post_powerCap (s : State) (e : Event) : (s.post e).powerCap = s.powerCap := rfl
@[simp] theorem State.post_clockStep (s : State) (e : Event) : (s.post e).clockStep = s.clockStep := rfl
@[simp] theorem State.post_life (s : State) (e : Event) : (s.post e).life = s.life := rfl
@[simp] theorem State.post_identity (s : State) (e : Event) : (s.post e).identity = s.identity := rfl
@[simp] theorem State.post_mbox (s : State) (e : Event) : (s.post e).mbox = s.mbox := rfl
@[simp] theorem State.post_mboxDone (s : State) (e : Event) : (s.post e).mboxDone = s.mboxDone := rfl
@[simp] theorem State.post_unswept (s : State) (e : Event) : (s.post e).unswept = s.unswept := rfl
@[simp] theorem State.post_tables (s : State) (e : Event) : (s.post e).tables = s.tables := rfl
@[simp] theorem State.post_placed (s : State) (e : Event) : (s.post e).placed = s.placed := rfl
@[simp] theorem State.post_federations (s : State) (e : Event) : (s.post e).federations = s.federations := rfl

@[simp] theorem State.next_beat (s : State) (e : Event) : (s.next e).beat = s.beat := rfl
@[simp] theorem State.next_cur (s : State) (e : Event) : (s.next e).cur = s.cur := rfl
@[simp] theorem State.next_who (s : State) (e : Event) : (s.next e).who = s.who := rfl
@[simp] theorem State.next_phase (s : State) (e : Event) : (s.next e).phase = s.phase := rfl
@[simp] theorem State.next_iw (s : State) (e : Event) : (s.next e).iw = s.iw := rfl
@[simp] theorem State.next_later (s : State) (e : Event) : (s.next e).later = s.later := rfl
@[simp] theorem State.next_fv (s : State) (e : Event) : (s.next e).fv = s.fv := rfl
@[simp] theorem State.next_tiles (s : State) (e : Event) : (s.next e).tiles = s.tiles := rfl
@[simp] theorem State.next_modNo (s : State) (e : Event) : (s.next e).modNo = s.modNo := rfl
@[simp] theorem State.next_modSet (s : State) (e : Event) : (s.next e).modSet = s.modSet := rfl
@[simp] theorem State.next_mem (s : State) (e : Event) : (s.next e).mem = s.mem := rfl
@[simp] theorem State.next_memPoison (s : State) (e : Event) : (s.next e).memPoison = s.memPoison := rfl
@[simp] theorem State.next_hostMem (s : State) (e : Event) : (s.next e).hostMem = s.hostMem := rfl
@[simp] theorem State.next_code (s : State) (e : Event) : (s.next e).code = s.code := rfl
@[simp] theorem State.next_caches (s : State) (e : Event) : (s.next e).caches = s.caches := rfl
@[simp] theorem State.next_stackList (s : State) (e : Event) : (s.next e).stackList = s.stackList := rfl
@[simp] theorem State.next_failedStacks (s : State) (e : Event) : (s.next e).failedStacks = s.failedStacks := rfl
@[simp] theorem State.next_dies (s : State) (e : Event) : (s.next e).dies = s.dies := rfl
@[simp] theorem State.next_domains (s : State) (e : Event) : (s.next e).domains = s.domains := rfl
@[simp] theorem State.next_engines (s : State) (e : Event) : (s.next e).engines = s.engines := rfl
@[simp] theorem State.next_net (s : State) (e : Event) : (s.next e).net = s.net := rfl
@[simp] theorem State.next_gong (s : State) (e : Event) : (s.next e).gong = s.gong := rfl
@[simp] theorem State.next_routes (s : State) (e : Event) : (s.next e).routes = s.routes := rfl
@[simp] theorem State.next_downPaths (s : State) (e : Event) : (s.next e).downPaths = s.downPaths := rfl
@[simp] theorem State.next_ports (s : State) (e : Event) : (s.next e).ports = s.ports := rfl
@[simp] theorem State.next_groups (s : State) (e : Event) : (s.next e).groups = s.groups := rfl
@[simp] theorem State.next_grants (s : State) (e : Event) : (s.next e).grants = s.grants := rfl
@[simp] theorem State.next_asks (s : State) (e : Event) : (s.next e).asks = s.asks := rfl
@[simp] theorem State.next_outKills (s : State) (e : Event) : (s.next e).outKills = s.outKills := rfl
@[simp] theorem State.next_linkCount (s : State) (e : Event) : (s.next e).linkCount = s.linkCount := rfl
@[simp] theorem State.next_downTargets (s : State) (e : Event) : (s.next e).downTargets = s.downTargets := rfl
@[simp] theorem State.next_fns (s : State) (e : Event) : (s.next e).fns = s.fns := rfl
@[simp] theorem State.next_keys (s : State) (e : Event) : (s.next e).keys = s.keys := rfl
@[simp] theorem State.next_powerCap (s : State) (e : Event) : (s.next e).powerCap = s.powerCap := rfl
@[simp] theorem State.next_clockStep (s : State) (e : Event) : (s.next e).clockStep = s.clockStep := rfl
@[simp] theorem State.next_life (s : State) (e : Event) : (s.next e).life = s.life := rfl
@[simp] theorem State.next_identity (s : State) (e : Event) : (s.next e).identity = s.identity := rfl
@[simp] theorem State.next_mbox (s : State) (e : Event) : (s.next e).mbox = s.mbox := rfl
@[simp] theorem State.next_mboxDone (s : State) (e : Event) : (s.next e).mboxDone = s.mboxDone := rfl
@[simp] theorem State.next_unswept (s : State) (e : Event) : (s.next e).unswept = s.unswept := rfl
@[simp] theorem State.next_tables (s : State) (e : Event) : (s.next e).tables = s.tables := rfl
@[simp] theorem State.next_placed (s : State) (e : Event) : (s.next e).placed = s.placed := rfl
@[simp] theorem State.next_federations (s : State) (e : Event) : (s.next e).federations = s.federations := rfl

@[simp] theorem State.mapTiles_beat (s : State) (f : Nat → Tile → Tile) : (s.mapTiles f).beat = s.beat := rfl
@[simp] theorem State.mapTiles_cur (s : State) (f : Nat → Tile → Tile) : (s.mapTiles f).cur = s.cur := rfl
@[simp] theorem State.mapTiles_who (s : State) (f : Nat → Tile → Tile) : (s.mapTiles f).who = s.who := rfl
@[simp] theorem State.mapTiles_phase (s : State) (f : Nat → Tile → Tile) : (s.mapTiles f).phase = s.phase := rfl
@[simp] theorem State.mapTiles_iw (s : State) (f : Nat → Tile → Tile) : (s.mapTiles f).iw = s.iw := rfl
@[simp] theorem State.mapTiles_now (s : State) (f : Nat → Tile → Tile) : (s.mapTiles f).now = s.now := rfl
@[simp] theorem State.mapTiles_later (s : State) (f : Nat → Tile → Tile) : (s.mapTiles f).later = s.later := rfl
@[simp] theorem State.mapTiles_fv (s : State) (f : Nat → Tile → Tile) : (s.mapTiles f).fv = s.fv := rfl
@[simp] theorem State.mapTiles_modNo (s : State) (f : Nat → Tile → Tile) : (s.mapTiles f).modNo = s.modNo := rfl
@[simp] theorem State.mapTiles_modSet (s : State) (f : Nat → Tile → Tile) : (s.mapTiles f).modSet = s.modSet := rfl
@[simp] theorem State.mapTiles_mem (s : State) (f : Nat → Tile → Tile) : (s.mapTiles f).mem = s.mem := rfl
@[simp] theorem State.mapTiles_memPoison (s : State) (f : Nat → Tile → Tile) : (s.mapTiles f).memPoison = s.memPoison := rfl
@[simp] theorem State.mapTiles_hostMem (s : State) (f : Nat → Tile → Tile) : (s.mapTiles f).hostMem = s.hostMem := rfl
@[simp] theorem State.mapTiles_code (s : State) (f : Nat → Tile → Tile) : (s.mapTiles f).code = s.code := rfl
@[simp] theorem State.mapTiles_caches (s : State) (f : Nat → Tile → Tile) : (s.mapTiles f).caches = s.caches := rfl
@[simp] theorem State.mapTiles_stackList (s : State) (f : Nat → Tile → Tile) : (s.mapTiles f).stackList = s.stackList := rfl
@[simp] theorem State.mapTiles_failedStacks (s : State) (f : Nat → Tile → Tile) : (s.mapTiles f).failedStacks = s.failedStacks := rfl
@[simp] theorem State.mapTiles_dies (s : State) (f : Nat → Tile → Tile) : (s.mapTiles f).dies = s.dies := rfl
@[simp] theorem State.mapTiles_domains (s : State) (f : Nat → Tile → Tile) : (s.mapTiles f).domains = s.domains := rfl
@[simp] theorem State.mapTiles_engines (s : State) (f : Nat → Tile → Tile) : (s.mapTiles f).engines = s.engines := rfl
@[simp] theorem State.mapTiles_net (s : State) (f : Nat → Tile → Tile) : (s.mapTiles f).net = s.net := rfl
@[simp] theorem State.mapTiles_gong (s : State) (f : Nat → Tile → Tile) : (s.mapTiles f).gong = s.gong := rfl
@[simp] theorem State.mapTiles_routes (s : State) (f : Nat → Tile → Tile) : (s.mapTiles f).routes = s.routes := rfl
@[simp] theorem State.mapTiles_downPaths (s : State) (f : Nat → Tile → Tile) : (s.mapTiles f).downPaths = s.downPaths := rfl
@[simp] theorem State.mapTiles_ports (s : State) (f : Nat → Tile → Tile) : (s.mapTiles f).ports = s.ports := rfl
@[simp] theorem State.mapTiles_groups (s : State) (f : Nat → Tile → Tile) : (s.mapTiles f).groups = s.groups := rfl
@[simp] theorem State.mapTiles_grants (s : State) (f : Nat → Tile → Tile) : (s.mapTiles f).grants = s.grants := rfl
@[simp] theorem State.mapTiles_asks (s : State) (f : Nat → Tile → Tile) : (s.mapTiles f).asks = s.asks := rfl
@[simp] theorem State.mapTiles_outKills (s : State) (f : Nat → Tile → Tile) : (s.mapTiles f).outKills = s.outKills := rfl
@[simp] theorem State.mapTiles_linkCount (s : State) (f : Nat → Tile → Tile) : (s.mapTiles f).linkCount = s.linkCount := rfl
@[simp] theorem State.mapTiles_downTargets (s : State) (f : Nat → Tile → Tile) : (s.mapTiles f).downTargets = s.downTargets := rfl
@[simp] theorem State.mapTiles_fns (s : State) (f : Nat → Tile → Tile) : (s.mapTiles f).fns = s.fns := rfl
@[simp] theorem State.mapTiles_keys (s : State) (f : Nat → Tile → Tile) : (s.mapTiles f).keys = s.keys := rfl
@[simp] theorem State.mapTiles_powerCap (s : State) (f : Nat → Tile → Tile) : (s.mapTiles f).powerCap = s.powerCap := rfl
@[simp] theorem State.mapTiles_clockStep (s : State) (f : Nat → Tile → Tile) : (s.mapTiles f).clockStep = s.clockStep := rfl
@[simp] theorem State.mapTiles_life (s : State) (f : Nat → Tile → Tile) : (s.mapTiles f).life = s.life := rfl
@[simp] theorem State.mapTiles_identity (s : State) (f : Nat → Tile → Tile) : (s.mapTiles f).identity = s.identity := rfl
@[simp] theorem State.mapTiles_mbox (s : State) (f : Nat → Tile → Tile) : (s.mapTiles f).mbox = s.mbox := rfl
@[simp] theorem State.mapTiles_mboxDone (s : State) (f : Nat → Tile → Tile) : (s.mapTiles f).mboxDone = s.mboxDone := rfl
@[simp] theorem State.mapTiles_unswept (s : State) (f : Nat → Tile → Tile) : (s.mapTiles f).unswept = s.unswept := rfl
@[simp] theorem State.mapTiles_tables (s : State) (f : Nat → Tile → Tile) : (s.mapTiles f).tables = s.tables := rfl
@[simp] theorem State.mapTiles_placed (s : State) (f : Nat → Tile → Tile) : (s.mapTiles f).placed = s.placed := rfl
@[simp] theorem State.mapTiles_federations (s : State) (f : Nat → Tile → Tile) : (s.mapTiles f).federations = s.federations := rfl

@[simp] theorem State.dropEvents_beat (s : State) (f : Event → Bool) : (s.dropEvents f).beat = s.beat := rfl
@[simp] theorem State.dropEvents_cur (s : State) (f : Event → Bool) : (s.dropEvents f).cur = s.cur := rfl
@[simp] theorem State.dropEvents_who (s : State) (f : Event → Bool) : (s.dropEvents f).who = s.who := rfl
@[simp] theorem State.dropEvents_phase (s : State) (f : Event → Bool) : (s.dropEvents f).phase = s.phase := rfl
@[simp] theorem State.dropEvents_iw (s : State) (f : Event → Bool) : (s.dropEvents f).iw = s.iw := rfl
@[simp] theorem State.dropEvents_now (s : State) (f : Event → Bool) : (s.dropEvents f).now = s.now := rfl
@[simp] theorem State.dropEvents_fv (s : State) (f : Event → Bool) : (s.dropEvents f).fv = s.fv := rfl
@[simp] theorem State.dropEvents_tiles (s : State) (f : Event → Bool) : (s.dropEvents f).tiles = s.tiles := rfl
@[simp] theorem State.dropEvents_modNo (s : State) (f : Event → Bool) : (s.dropEvents f).modNo = s.modNo := rfl
@[simp] theorem State.dropEvents_modSet (s : State) (f : Event → Bool) : (s.dropEvents f).modSet = s.modSet := rfl
@[simp] theorem State.dropEvents_mem (s : State) (f : Event → Bool) : (s.dropEvents f).mem = s.mem := rfl
@[simp] theorem State.dropEvents_memPoison (s : State) (f : Event → Bool) : (s.dropEvents f).memPoison = s.memPoison := rfl
@[simp] theorem State.dropEvents_hostMem (s : State) (f : Event → Bool) : (s.dropEvents f).hostMem = s.hostMem := rfl
@[simp] theorem State.dropEvents_code (s : State) (f : Event → Bool) : (s.dropEvents f).code = s.code := rfl
@[simp] theorem State.dropEvents_caches (s : State) (f : Event → Bool) : (s.dropEvents f).caches = s.caches := rfl
@[simp] theorem State.dropEvents_stackList (s : State) (f : Event → Bool) : (s.dropEvents f).stackList = s.stackList := rfl
@[simp] theorem State.dropEvents_failedStacks (s : State) (f : Event → Bool) : (s.dropEvents f).failedStacks = s.failedStacks := rfl
@[simp] theorem State.dropEvents_dies (s : State) (f : Event → Bool) : (s.dropEvents f).dies = s.dies := rfl
@[simp] theorem State.dropEvents_domains (s : State) (f : Event → Bool) : (s.dropEvents f).domains = s.domains := rfl
@[simp] theorem State.dropEvents_engines (s : State) (f : Event → Bool) : (s.dropEvents f).engines = s.engines := rfl
@[simp] theorem State.dropEvents_net (s : State) (f : Event → Bool) : (s.dropEvents f).net = s.net := rfl
@[simp] theorem State.dropEvents_gong (s : State) (f : Event → Bool) : (s.dropEvents f).gong = s.gong := rfl
@[simp] theorem State.dropEvents_routes (s : State) (f : Event → Bool) : (s.dropEvents f).routes = s.routes := rfl
@[simp] theorem State.dropEvents_downPaths (s : State) (f : Event → Bool) : (s.dropEvents f).downPaths = s.downPaths := rfl
@[simp] theorem State.dropEvents_ports (s : State) (f : Event → Bool) : (s.dropEvents f).ports = s.ports := rfl
@[simp] theorem State.dropEvents_groups (s : State) (f : Event → Bool) : (s.dropEvents f).groups = s.groups := rfl
@[simp] theorem State.dropEvents_grants (s : State) (f : Event → Bool) : (s.dropEvents f).grants = s.grants := rfl
@[simp] theorem State.dropEvents_asks (s : State) (f : Event → Bool) : (s.dropEvents f).asks = s.asks := rfl
@[simp] theorem State.dropEvents_outKills (s : State) (f : Event → Bool) : (s.dropEvents f).outKills = s.outKills := rfl
@[simp] theorem State.dropEvents_linkCount (s : State) (f : Event → Bool) : (s.dropEvents f).linkCount = s.linkCount := rfl
@[simp] theorem State.dropEvents_downTargets (s : State) (f : Event → Bool) : (s.dropEvents f).downTargets = s.downTargets := rfl
@[simp] theorem State.dropEvents_fns (s : State) (f : Event → Bool) : (s.dropEvents f).fns = s.fns := rfl
@[simp] theorem State.dropEvents_keys (s : State) (f : Event → Bool) : (s.dropEvents f).keys = s.keys := rfl
@[simp] theorem State.dropEvents_powerCap (s : State) (f : Event → Bool) : (s.dropEvents f).powerCap = s.powerCap := rfl
@[simp] theorem State.dropEvents_clockStep (s : State) (f : Event → Bool) : (s.dropEvents f).clockStep = s.clockStep := rfl
@[simp] theorem State.dropEvents_life (s : State) (f : Event → Bool) : (s.dropEvents f).life = s.life := rfl
@[simp] theorem State.dropEvents_identity (s : State) (f : Event → Bool) : (s.dropEvents f).identity = s.identity := rfl
@[simp] theorem State.dropEvents_mbox (s : State) (f : Event → Bool) : (s.dropEvents f).mbox = s.mbox := rfl
@[simp] theorem State.dropEvents_mboxDone (s : State) (f : Event → Bool) : (s.dropEvents f).mboxDone = s.mboxDone := rfl
@[simp] theorem State.dropEvents_unswept (s : State) (f : Event → Bool) : (s.dropEvents f).unswept = s.unswept := rfl
@[simp] theorem State.dropEvents_tables (s : State) (f : Event → Bool) : (s.dropEvents f).tables = s.tables := rfl
@[simp] theorem State.dropEvents_placed (s : State) (f : Event → Bool) : (s.dropEvents f).placed = s.placed := rfl
@[simp] theorem State.dropEvents_federations (s : State) (f : Event → Bool) : (s.dropEvents f).federations = s.federations := rfl

/-! ### Updates of a tile -/

@[simp] theorem Tile.setCtx_enabled (x : Tile) (c : Nat) (k : Ctx) : (x.setCtx c k).enabled = x.enabled := rfl
@[simp] theorem Tile.setCtx_withdrawn (x : Tile) (c : Nat) (k : Ctx) : (x.setCtx c k).withdrawn = x.withdrawn := rfl
@[simp] theorem Tile.setCtx_dom (x : Tile) (c : Nat) (k : Ctx) : (x.setCtx c k).dom = x.dom := rfl
@[simp] theorem Tile.setCtx_lastL (x : Tile) (c : Nat) (k : Ctx) : (x.setCtx c k).lastL = x.lastL := rfl
@[simp] theorem Tile.setCtx_sp (x : Tile) (c : Nat) (k : Ctx) : (x.setCtx c k).sp = x.sp := rfl
@[simp] theorem Tile.setCtx_spPoison (x : Tile) (c : Nat) (k : Ctx) : (x.setCtx c k).spPoison = x.spPoison := rfl
@[simp] theorem Tile.setCtx_panes (x : Tile) (c : Nat) (k : Ctx) : (x.setCtx c k).panes = x.panes := rfl
@[simp] theorem Tile.setCtx_evc (x : Tile) (c : Nat) (k : Ctx) : (x.setCtx c k).evc = x.evc := rfl
@[simp] theorem Tile.setCtx_evcAt (x : Tile) (c : Nat) (k : Ctx) : (x.setCtx c k).evcAt = x.evcAt := rfl
@[simp] theorem Tile.setCtx_evcNew (x : Tile) (c : Nat) (k : Ctx) : (x.setCtx c k).evcNew = x.evcNew := rfl
@[simp] theorem Tile.setCtx_rnsmap (x : Tile) (c : Nat) (k : Ctx) : (x.setCtx c k).rnsmap = x.rnsmap := rfl
@[simp] theorem Tile.setCtx_errinj (x : Tile) (c : Nat) (k : Ctx) : (x.setCtx c k).errinj = x.errinj := rfl
@[simp] theorem Tile.setCtx_corr (x : Tile) (c : Nat) (k : Ctx) : (x.setCtx c k).corr = x.corr := rfl
@[simp] theorem Tile.setCtx_lanes (x : Tile) (c : Nat) (k : Ctx) : (x.setCtx c k).lanes = x.lanes := rfl
@[simp] theorem Tile.setCtx_queues (x : Tile) (c : Nat) (k : Ctx) : (x.setCtx c k).queues = x.queues := rfl
@[simp] theorem Tile.setCtx_order (x : Tile) (c : Nat) (k : Ctx) : (x.setCtx c k).order = x.order := rfl
@[simp] theorem Tile.setCtx_seq (x : Tile) (c : Nat) (k : Ctx) : (x.setCtx c k).seq = x.seq := rfl
@[simp] theorem Tile.setCtx_store (x : Tile) (c : Nat) (k : Ctx) : (x.setCtx c k).store = x.store := rfl
@[simp] theorem Tile.setCtx_votes (x : Tile) (c : Nat) (k : Ctx) : (x.setCtx c k).votes = x.votes := rfl
@[simp] theorem Tile.setCtx_area (x : Tile) (c : Nat) (k : Ctx) : (x.setCtx c k).area = x.area := rfl
@[simp] theorem Tile.setCtx_counters (x : Tile) (c : Nat) (k : Ctx) : (x.setCtx c k).counters = x.counters := rfl
@[simp] theorem Tile.setCtx_freshCnt (x : Tile) (c : Nat) (k : Ctx) : (x.setCtx c k).freshCnt = x.freshCnt := rfl
@[simp] theorem Tile.setCtx_hcache (x : Tile) (c : Nat) (k : Ctx) : (x.setCtx c k).hcache = x.hcache := rfl
@[simp] theorem Tile.setCtx_svc (x : Tile) (c : Nat) (k : Ctx) : (x.setCtx c k).svc = x.svc := rfl
@[simp] theorem Tile.setCtx_sEvents (x : Tile) (c : Nat) (k : Ctx) : (x.setCtx c k).sEvents = x.sEvents := rfl
@[simp] theorem Tile.setCtx_serving (x : Tile) (c : Nat) (k : Ctx) : (x.setCtx c k).serving = x.serving := rfl
@[simp] theorem Tile.setCtx_trapQ (x : Tile) (c : Nat) (k : Ctx) : (x.setCtx c k).trapQ = x.trapQ := rfl
@[simp] theorem Tile.setCtx_fifo (x : Tile) (c : Nat) (k : Ctx) : (x.setCtx c k).fifo = x.fifo := rfl
@[simp] theorem Tile.setCtx_barval (x : Tile) (c : Nat) (k : Ctx) : (x.setCtx c k).barval = x.barval := rfl
@[simp] theorem Tile.setCtx_joins (x : Tile) (c : Nat) (k : Ctx) : (x.setCtx c k).joins = x.joins := rfl
@[simp] theorem Tile.setCtx_kills (x : Tile) (c : Nat) (k : Ctx) : (x.setCtx c k).kills = x.kills := rfl
@[simp] theorem Tile.setCtx_tlb (x : Tile) (c : Nat) (k : Ctx) : (x.setCtx c k).tlb = x.tlb := rfl
@[simp] theorem Tile.setCtx_linkUp (x : Tile) (c : Nat) (k : Ctx) : (x.setCtx c k).linkUp = x.linkUp := rfl
@[simp] theorem Tile.setCtx_asyncQ (x : Tile) (c : Nat) (k : Ctx) : (x.setCtx c k).asyncQ = x.asyncQ := rfl
@[simp] theorem Tile.setCtx_rmaOps (x : Tile) (c : Nat) (k : Ctx) : (x.setCtx c k).rmaOps = x.rmaOps := rfl
@[simp] theorem Tile.setCtx_rmaDone (x : Tile) (c : Nat) (k : Ctx) : (x.setCtx c k).rmaDone = x.rmaDone := rfl
@[simp] theorem Tile.setCtx_running (x : Tile) (c : Nat) (k : Ctx) : (x.setCtx c k).running = x.running := rfl
@[simp] theorem Tile.setCtx_queued (x : Tile) (c : Nat) (k : Ctx) : (x.setCtx c k).queued = x.queued := rfl
@[simp] theorem Tile.setCtx_prog (x : Tile) (c : Nat) (k : Ctx) : (x.setCtx c k).prog = x.prog := rfl
@[simp] theorem Tile.setCtx_last (x : Tile) (c : Nat) (k : Ctx) : (x.setCtx c k).last = x.last := rfl
@[simp] theorem Tile.setCtx_injected (x : Tile) (c : Nat) (k : Ctx) : (x.setCtx c k).injected = x.injected := rfl
@[simp] theorem Tile.setCtx_phases (x : Tile) (c : Nat) (k : Ctx) : (x.setCtx c k).phases = x.phases := rfl
@[simp] theorem Tile.setCtx_active (x : Tile) (c : Nat) (k : Ctx) : (x.setCtx c k).active = x.active := rfl
@[simp] theorem Tile.setCtx_pending (x : Tile) (c : Nat) (k : Ctx) : (x.setCtx c k).pending = x.pending := rfl
@[simp] theorem Tile.setCtx_past (x : Tile) (c : Nat) (k : Ctx) : (x.setCtx c k).past = x.past := rfl
@[simp] theorem Tile.setCtx_left (x : Tile) (c : Nat) (k : Ctx) : (x.setCtx c k).left = x.left := rfl
@[simp] theorem Tile.setCtx_sac (x : Tile) (c : Nat) (k : Ctx) : (x.setCtx c k).sac = x.sac := rfl
@[simp] theorem Tile.setCtx_seStat (x : Tile) (c : Nat) (k : Ctx) : (x.setCtx c k).seStat = x.seStat := rfl
@[simp] theorem Tile.setCtx_loopIn (x : Tile) (c : Nat) (k : Ctx) : (x.setCtx c k).loopIn = x.loopIn := rfl
@[simp] theorem Tile.setCtx_completions (x : Tile) (c : Nat) (k : Ctx) : (x.setCtx c k).completions = x.completions := rfl
@[simp] theorem Tile.setCtx_stopRec (x : Tile) (c : Nat) (k : Ctx) : (x.setCtx c k).stopRec = x.stopRec := rfl
@[simp] theorem Tile.setCtx_sent (x : Tile) (c : Nat) (k : Ctx) : (x.setCtx c k).sent = x.sent := rfl
@[simp] theorem Tile.setCtx_resolved (x : Tile) (c : Nat) (k : Ctx) : (x.setCtx c k).resolved = x.resolved := rfl
@[simp] theorem Tile.setCtx_frozen (x : Tile) (c : Nat) (k : Ctx) : (x.setCtx c k).frozen = x.frozen := rfl
@[simp] theorem Tile.setCtx_log (x : Tile) (c : Nat) (k : Ctx) : (x.setCtx c k).log = x.log := rfl
@[simp] theorem Tile.setCtx_logFull (x : Tile) (c : Nat) (k : Ctx) : (x.setCtx c k).logFull = x.logFull := rfl
@[simp] theorem Tile.setCtx_logBase (x : Tile) (c : Nat) (k : Ctx) : (x.setCtx c k).logBase = x.logBase := rfl
@[simp] theorem Tile.setCtx_logUsed (x : Tile) (c : Nat) (k : Ctx) : (x.setCtx c k).logUsed = x.logUsed := rfl
@[simp] theorem Tile.setCtx_replay (x : Tile) (c : Nat) (k : Ctx) : (x.setCtx c k).replay = x.replay := rfl
@[simp] theorem Tile.setCtx_feed (x : Tile) (c : Nat) (k : Ctx) : (x.setCtx c k).feed = x.feed := rfl

@[simp] theorem Tile.onCtx_enabled (x : Tile) (c : Nat) (f : Ctx → Ctx) : (x.onCtx c f).enabled = x.enabled := rfl
@[simp] theorem Tile.onCtx_withdrawn (x : Tile) (c : Nat) (f : Ctx → Ctx) : (x.onCtx c f).withdrawn = x.withdrawn := rfl
@[simp] theorem Tile.onCtx_dom (x : Tile) (c : Nat) (f : Ctx → Ctx) : (x.onCtx c f).dom = x.dom := rfl
@[simp] theorem Tile.onCtx_lastL (x : Tile) (c : Nat) (f : Ctx → Ctx) : (x.onCtx c f).lastL = x.lastL := rfl
@[simp] theorem Tile.onCtx_sp (x : Tile) (c : Nat) (f : Ctx → Ctx) : (x.onCtx c f).sp = x.sp := rfl
@[simp] theorem Tile.onCtx_spPoison (x : Tile) (c : Nat) (f : Ctx → Ctx) : (x.onCtx c f).spPoison = x.spPoison := rfl
@[simp] theorem Tile.onCtx_panes (x : Tile) (c : Nat) (f : Ctx → Ctx) : (x.onCtx c f).panes = x.panes := rfl
@[simp] theorem Tile.onCtx_evc (x : Tile) (c : Nat) (f : Ctx → Ctx) : (x.onCtx c f).evc = x.evc := rfl
@[simp] theorem Tile.onCtx_evcAt (x : Tile) (c : Nat) (f : Ctx → Ctx) : (x.onCtx c f).evcAt = x.evcAt := rfl
@[simp] theorem Tile.onCtx_evcNew (x : Tile) (c : Nat) (f : Ctx → Ctx) : (x.onCtx c f).evcNew = x.evcNew := rfl
@[simp] theorem Tile.onCtx_rnsmap (x : Tile) (c : Nat) (f : Ctx → Ctx) : (x.onCtx c f).rnsmap = x.rnsmap := rfl
@[simp] theorem Tile.onCtx_errinj (x : Tile) (c : Nat) (f : Ctx → Ctx) : (x.onCtx c f).errinj = x.errinj := rfl
@[simp] theorem Tile.onCtx_corr (x : Tile) (c : Nat) (f : Ctx → Ctx) : (x.onCtx c f).corr = x.corr := rfl
@[simp] theorem Tile.onCtx_lanes (x : Tile) (c : Nat) (f : Ctx → Ctx) : (x.onCtx c f).lanes = x.lanes := rfl
@[simp] theorem Tile.onCtx_queues (x : Tile) (c : Nat) (f : Ctx → Ctx) : (x.onCtx c f).queues = x.queues := rfl
@[simp] theorem Tile.onCtx_order (x : Tile) (c : Nat) (f : Ctx → Ctx) : (x.onCtx c f).order = x.order := rfl
@[simp] theorem Tile.onCtx_seq (x : Tile) (c : Nat) (f : Ctx → Ctx) : (x.onCtx c f).seq = x.seq := rfl
@[simp] theorem Tile.onCtx_store (x : Tile) (c : Nat) (f : Ctx → Ctx) : (x.onCtx c f).store = x.store := rfl
@[simp] theorem Tile.onCtx_votes (x : Tile) (c : Nat) (f : Ctx → Ctx) : (x.onCtx c f).votes = x.votes := rfl
@[simp] theorem Tile.onCtx_area (x : Tile) (c : Nat) (f : Ctx → Ctx) : (x.onCtx c f).area = x.area := rfl
@[simp] theorem Tile.onCtx_counters (x : Tile) (c : Nat) (f : Ctx → Ctx) : (x.onCtx c f).counters = x.counters := rfl
@[simp] theorem Tile.onCtx_freshCnt (x : Tile) (c : Nat) (f : Ctx → Ctx) : (x.onCtx c f).freshCnt = x.freshCnt := rfl
@[simp] theorem Tile.onCtx_hcache (x : Tile) (c : Nat) (f : Ctx → Ctx) : (x.onCtx c f).hcache = x.hcache := rfl
@[simp] theorem Tile.onCtx_svc (x : Tile) (c : Nat) (f : Ctx → Ctx) : (x.onCtx c f).svc = x.svc := rfl
@[simp] theorem Tile.onCtx_sEvents (x : Tile) (c : Nat) (f : Ctx → Ctx) : (x.onCtx c f).sEvents = x.sEvents := rfl
@[simp] theorem Tile.onCtx_serving (x : Tile) (c : Nat) (f : Ctx → Ctx) : (x.onCtx c f).serving = x.serving := rfl
@[simp] theorem Tile.onCtx_trapQ (x : Tile) (c : Nat) (f : Ctx → Ctx) : (x.onCtx c f).trapQ = x.trapQ := rfl
@[simp] theorem Tile.onCtx_fifo (x : Tile) (c : Nat) (f : Ctx → Ctx) : (x.onCtx c f).fifo = x.fifo := rfl
@[simp] theorem Tile.onCtx_barval (x : Tile) (c : Nat) (f : Ctx → Ctx) : (x.onCtx c f).barval = x.barval := rfl
@[simp] theorem Tile.onCtx_joins (x : Tile) (c : Nat) (f : Ctx → Ctx) : (x.onCtx c f).joins = x.joins := rfl
@[simp] theorem Tile.onCtx_kills (x : Tile) (c : Nat) (f : Ctx → Ctx) : (x.onCtx c f).kills = x.kills := rfl
@[simp] theorem Tile.onCtx_tlb (x : Tile) (c : Nat) (f : Ctx → Ctx) : (x.onCtx c f).tlb = x.tlb := rfl
@[simp] theorem Tile.onCtx_linkUp (x : Tile) (c : Nat) (f : Ctx → Ctx) : (x.onCtx c f).linkUp = x.linkUp := rfl
@[simp] theorem Tile.onCtx_asyncQ (x : Tile) (c : Nat) (f : Ctx → Ctx) : (x.onCtx c f).asyncQ = x.asyncQ := rfl
@[simp] theorem Tile.onCtx_rmaOps (x : Tile) (c : Nat) (f : Ctx → Ctx) : (x.onCtx c f).rmaOps = x.rmaOps := rfl
@[simp] theorem Tile.onCtx_rmaDone (x : Tile) (c : Nat) (f : Ctx → Ctx) : (x.onCtx c f).rmaDone = x.rmaDone := rfl
@[simp] theorem Tile.onCtx_running (x : Tile) (c : Nat) (f : Ctx → Ctx) : (x.onCtx c f).running = x.running := rfl
@[simp] theorem Tile.onCtx_queued (x : Tile) (c : Nat) (f : Ctx → Ctx) : (x.onCtx c f).queued = x.queued := rfl
@[simp] theorem Tile.onCtx_prog (x : Tile) (c : Nat) (f : Ctx → Ctx) : (x.onCtx c f).prog = x.prog := rfl
@[simp] theorem Tile.onCtx_last (x : Tile) (c : Nat) (f : Ctx → Ctx) : (x.onCtx c f).last = x.last := rfl
@[simp] theorem Tile.onCtx_injected (x : Tile) (c : Nat) (f : Ctx → Ctx) : (x.onCtx c f).injected = x.injected := rfl
@[simp] theorem Tile.onCtx_phases (x : Tile) (c : Nat) (f : Ctx → Ctx) : (x.onCtx c f).phases = x.phases := rfl
@[simp] theorem Tile.onCtx_active (x : Tile) (c : Nat) (f : Ctx → Ctx) : (x.onCtx c f).active = x.active := rfl
@[simp] theorem Tile.onCtx_pending (x : Tile) (c : Nat) (f : Ctx → Ctx) : (x.onCtx c f).pending = x.pending := rfl
@[simp] theorem Tile.onCtx_past (x : Tile) (c : Nat) (f : Ctx → Ctx) : (x.onCtx c f).past = x.past := rfl
@[simp] theorem Tile.onCtx_left (x : Tile) (c : Nat) (f : Ctx → Ctx) : (x.onCtx c f).left = x.left := rfl
@[simp] theorem Tile.onCtx_sac (x : Tile) (c : Nat) (f : Ctx → Ctx) : (x.onCtx c f).sac = x.sac := rfl
@[simp] theorem Tile.onCtx_seStat (x : Tile) (c : Nat) (f : Ctx → Ctx) : (x.onCtx c f).seStat = x.seStat := rfl
@[simp] theorem Tile.onCtx_loopIn (x : Tile) (c : Nat) (f : Ctx → Ctx) : (x.onCtx c f).loopIn = x.loopIn := rfl
@[simp] theorem Tile.onCtx_completions (x : Tile) (c : Nat) (f : Ctx → Ctx) : (x.onCtx c f).completions = x.completions := rfl
@[simp] theorem Tile.onCtx_stopRec (x : Tile) (c : Nat) (f : Ctx → Ctx) : (x.onCtx c f).stopRec = x.stopRec := rfl
@[simp] theorem Tile.onCtx_sent (x : Tile) (c : Nat) (f : Ctx → Ctx) : (x.onCtx c f).sent = x.sent := rfl
@[simp] theorem Tile.onCtx_resolved (x : Tile) (c : Nat) (f : Ctx → Ctx) : (x.onCtx c f).resolved = x.resolved := rfl
@[simp] theorem Tile.onCtx_frozen (x : Tile) (c : Nat) (f : Ctx → Ctx) : (x.onCtx c f).frozen = x.frozen := rfl
@[simp] theorem Tile.onCtx_log (x : Tile) (c : Nat) (f : Ctx → Ctx) : (x.onCtx c f).log = x.log := rfl
@[simp] theorem Tile.onCtx_logFull (x : Tile) (c : Nat) (f : Ctx → Ctx) : (x.onCtx c f).logFull = x.logFull := rfl
@[simp] theorem Tile.onCtx_logBase (x : Tile) (c : Nat) (f : Ctx → Ctx) : (x.onCtx c f).logBase = x.logBase := rfl
@[simp] theorem Tile.onCtx_logUsed (x : Tile) (c : Nat) (f : Ctx → Ctx) : (x.onCtx c f).logUsed = x.logUsed := rfl
@[simp] theorem Tile.onCtx_replay (x : Tile) (c : Nat) (f : Ctx → Ctx) : (x.onCtx c f).replay = x.replay := rfl
@[simp] theorem Tile.onCtx_feed (x : Tile) (c : Nat) (f : Ctx → Ctx) : (x.onCtx c f).feed = x.feed := rfl

@[simp] theorem Tile.bumpEvc_enabled (x : Tile) (i n : Nat) : (x.bumpEvc i n).enabled = x.enabled := rfl
@[simp] theorem Tile.bumpEvc_withdrawn (x : Tile) (i n : Nat) : (x.bumpEvc i n).withdrawn = x.withdrawn := rfl
@[simp] theorem Tile.bumpEvc_dom (x : Tile) (i n : Nat) : (x.bumpEvc i n).dom = x.dom := rfl
@[simp] theorem Tile.bumpEvc_ctxs (x : Tile) (i n : Nat) : (x.bumpEvc i n).ctxs = x.ctxs := rfl
@[simp] theorem Tile.bumpEvc_lastL (x : Tile) (i n : Nat) : (x.bumpEvc i n).lastL = x.lastL := rfl
@[simp] theorem Tile.bumpEvc_sp (x : Tile) (i n : Nat) : (x.bumpEvc i n).sp = x.sp := rfl
@[simp] theorem Tile.bumpEvc_spPoison (x : Tile) (i n : Nat) : (x.bumpEvc i n).spPoison = x.spPoison := rfl
@[simp] theorem Tile.bumpEvc_panes (x : Tile) (i n : Nat) : (x.bumpEvc i n).panes = x.panes := rfl
@[simp] theorem Tile.bumpEvc_evcAt (x : Tile) (i n : Nat) : (x.bumpEvc i n).evcAt = x.evcAt := rfl
@[simp] theorem Tile.bumpEvc_rnsmap (x : Tile) (i n : Nat) : (x.bumpEvc i n).rnsmap = x.rnsmap := rfl
@[simp] theorem Tile.bumpEvc_errinj (x : Tile) (i n : Nat) : (x.bumpEvc i n).errinj = x.errinj := rfl
@[simp] theorem Tile.bumpEvc_corr (x : Tile) (i n : Nat) : (x.bumpEvc i n).corr = x.corr := rfl
@[simp] theorem Tile.bumpEvc_lanes (x : Tile) (i n : Nat) : (x.bumpEvc i n).lanes = x.lanes := rfl
@[simp] theorem Tile.bumpEvc_queues (x : Tile) (i n : Nat) : (x.bumpEvc i n).queues = x.queues := rfl
@[simp] theorem Tile.bumpEvc_order (x : Tile) (i n : Nat) : (x.bumpEvc i n).order = x.order := rfl
@[simp] theorem Tile.bumpEvc_seq (x : Tile) (i n : Nat) : (x.bumpEvc i n).seq = x.seq := rfl
@[simp] theorem Tile.bumpEvc_store (x : Tile) (i n : Nat) : (x.bumpEvc i n).store = x.store := rfl
@[simp] theorem Tile.bumpEvc_votes (x : Tile) (i n : Nat) : (x.bumpEvc i n).votes = x.votes := rfl
@[simp] theorem Tile.bumpEvc_area (x : Tile) (i n : Nat) : (x.bumpEvc i n).area = x.area := rfl
@[simp] theorem Tile.bumpEvc_counters (x : Tile) (i n : Nat) : (x.bumpEvc i n).counters = x.counters := rfl
@[simp] theorem Tile.bumpEvc_freshCnt (x : Tile) (i n : Nat) : (x.bumpEvc i n).freshCnt = x.freshCnt := rfl
@[simp] theorem Tile.bumpEvc_hcache (x : Tile) (i n : Nat) : (x.bumpEvc i n).hcache = x.hcache := rfl
@[simp] theorem Tile.bumpEvc_svc (x : Tile) (i n : Nat) : (x.bumpEvc i n).svc = x.svc := rfl
@[simp] theorem Tile.bumpEvc_sEvents (x : Tile) (i n : Nat) : (x.bumpEvc i n).sEvents = x.sEvents := rfl
@[simp] theorem Tile.bumpEvc_serving (x : Tile) (i n : Nat) : (x.bumpEvc i n).serving = x.serving := rfl
@[simp] theorem Tile.bumpEvc_trapQ (x : Tile) (i n : Nat) : (x.bumpEvc i n).trapQ = x.trapQ := rfl
@[simp] theorem Tile.bumpEvc_fifo (x : Tile) (i n : Nat) : (x.bumpEvc i n).fifo = x.fifo := rfl
@[simp] theorem Tile.bumpEvc_barval (x : Tile) (i n : Nat) : (x.bumpEvc i n).barval = x.barval := rfl
@[simp] theorem Tile.bumpEvc_joins (x : Tile) (i n : Nat) : (x.bumpEvc i n).joins = x.joins := rfl
@[simp] theorem Tile.bumpEvc_kills (x : Tile) (i n : Nat) : (x.bumpEvc i n).kills = x.kills := rfl
@[simp] theorem Tile.bumpEvc_tlb (x : Tile) (i n : Nat) : (x.bumpEvc i n).tlb = x.tlb := rfl
@[simp] theorem Tile.bumpEvc_linkUp (x : Tile) (i n : Nat) : (x.bumpEvc i n).linkUp = x.linkUp := rfl
@[simp] theorem Tile.bumpEvc_asyncQ (x : Tile) (i n : Nat) : (x.bumpEvc i n).asyncQ = x.asyncQ := rfl
@[simp] theorem Tile.bumpEvc_rmaOps (x : Tile) (i n : Nat) : (x.bumpEvc i n).rmaOps = x.rmaOps := rfl
@[simp] theorem Tile.bumpEvc_rmaDone (x : Tile) (i n : Nat) : (x.bumpEvc i n).rmaDone = x.rmaDone := rfl
@[simp] theorem Tile.bumpEvc_running (x : Tile) (i n : Nat) : (x.bumpEvc i n).running = x.running := rfl
@[simp] theorem Tile.bumpEvc_queued (x : Tile) (i n : Nat) : (x.bumpEvc i n).queued = x.queued := rfl
@[simp] theorem Tile.bumpEvc_prog (x : Tile) (i n : Nat) : (x.bumpEvc i n).prog = x.prog := rfl
@[simp] theorem Tile.bumpEvc_last (x : Tile) (i n : Nat) : (x.bumpEvc i n).last = x.last := rfl
@[simp] theorem Tile.bumpEvc_injected (x : Tile) (i n : Nat) : (x.bumpEvc i n).injected = x.injected := rfl
@[simp] theorem Tile.bumpEvc_phases (x : Tile) (i n : Nat) : (x.bumpEvc i n).phases = x.phases := rfl
@[simp] theorem Tile.bumpEvc_active (x : Tile) (i n : Nat) : (x.bumpEvc i n).active = x.active := rfl
@[simp] theorem Tile.bumpEvc_pending (x : Tile) (i n : Nat) : (x.bumpEvc i n).pending = x.pending := rfl
@[simp] theorem Tile.bumpEvc_past (x : Tile) (i n : Nat) : (x.bumpEvc i n).past = x.past := rfl
@[simp] theorem Tile.bumpEvc_left (x : Tile) (i n : Nat) : (x.bumpEvc i n).left = x.left := rfl
@[simp] theorem Tile.bumpEvc_sac (x : Tile) (i n : Nat) : (x.bumpEvc i n).sac = x.sac := rfl
@[simp] theorem Tile.bumpEvc_seStat (x : Tile) (i n : Nat) : (x.bumpEvc i n).seStat = x.seStat := rfl
@[simp] theorem Tile.bumpEvc_loopIn (x : Tile) (i n : Nat) : (x.bumpEvc i n).loopIn = x.loopIn := rfl
@[simp] theorem Tile.bumpEvc_completions (x : Tile) (i n : Nat) : (x.bumpEvc i n).completions = x.completions := rfl
@[simp] theorem Tile.bumpEvc_stopRec (x : Tile) (i n : Nat) : (x.bumpEvc i n).stopRec = x.stopRec := rfl
@[simp] theorem Tile.bumpEvc_sent (x : Tile) (i n : Nat) : (x.bumpEvc i n).sent = x.sent := rfl
@[simp] theorem Tile.bumpEvc_resolved (x : Tile) (i n : Nat) : (x.bumpEvc i n).resolved = x.resolved := rfl
@[simp] theorem Tile.bumpEvc_frozen (x : Tile) (i n : Nat) : (x.bumpEvc i n).frozen = x.frozen := rfl
@[simp] theorem Tile.bumpEvc_log (x : Tile) (i n : Nat) : (x.bumpEvc i n).log = x.log := rfl
@[simp] theorem Tile.bumpEvc_logFull (x : Tile) (i n : Nat) : (x.bumpEvc i n).logFull = x.logFull := rfl
@[simp] theorem Tile.bumpEvc_logBase (x : Tile) (i n : Nat) : (x.bumpEvc i n).logBase = x.logBase := rfl
@[simp] theorem Tile.bumpEvc_logUsed (x : Tile) (i n : Nat) : (x.bumpEvc i n).logUsed = x.logUsed := rfl
@[simp] theorem Tile.bumpEvc_replay (x : Tile) (i n : Nat) : (x.bumpEvc i n).replay = x.replay := rfl
@[simp] theorem Tile.bumpEvc_feed (x : Tile) (i n : Nat) : (x.bumpEvc i n).feed = x.feed := rfl

@[simp] theorem Tile.countEvents_enabled (x : Tile) (a b c d : Nat) : (x.countEvents a b c d).enabled = x.enabled := by simp only [Tile.countEvents, Tile.bumpEvc_enabled]
@[simp] theorem Tile.countEvents_withdrawn (x : Tile) (a b c d : Nat) : (x.countEvents a b c d).withdrawn = x.withdrawn := by simp only [Tile.countEvents, Tile.bumpEvc_withdrawn]
@[simp] theorem Tile.countEvents_dom (x : Tile) (a b c d : Nat) : (x.countEvents a b c d).dom = x.dom := by simp only [Tile.countEvents, Tile.bumpEvc_dom]
@[simp] theorem Tile.countEvents_ctxs (x : Tile) (a b c d : Nat) : (x.countEvents a b c d).ctxs = x.ctxs := by simp only [Tile.countEvents, Tile.bumpEvc_ctxs]
@[simp] theorem Tile.countEvents_lastL (x : Tile) (a b c d : Nat) : (x.countEvents a b c d).lastL = x.lastL := by simp only [Tile.countEvents, Tile.bumpEvc_lastL]
@[simp] theorem Tile.countEvents_sp (x : Tile) (a b c d : Nat) : (x.countEvents a b c d).sp = x.sp := by simp only [Tile.countEvents, Tile.bumpEvc_sp]
@[simp] theorem Tile.countEvents_spPoison (x : Tile) (a b c d : Nat) : (x.countEvents a b c d).spPoison = x.spPoison := by simp only [Tile.countEvents, Tile.bumpEvc_spPoison]
@[simp] theorem Tile.countEvents_panes (x : Tile) (a b c d : Nat) : (x.countEvents a b c d).panes = x.panes := by simp only [Tile.countEvents, Tile.bumpEvc_panes]
@[simp] theorem Tile.countEvents_evcAt (x : Tile) (a b c d : Nat) : (x.countEvents a b c d).evcAt = x.evcAt := by simp only [Tile.countEvents, Tile.bumpEvc_evcAt]
@[simp] theorem Tile.countEvents_rnsmap (x : Tile) (a b c d : Nat) : (x.countEvents a b c d).rnsmap = x.rnsmap := by simp only [Tile.countEvents, Tile.bumpEvc_rnsmap]
@[simp] theorem Tile.countEvents_errinj (x : Tile) (a b c d : Nat) : (x.countEvents a b c d).errinj = x.errinj := by simp only [Tile.countEvents, Tile.bumpEvc_errinj]
@[simp] theorem Tile.countEvents_corr (x : Tile) (a b c d : Nat) : (x.countEvents a b c d).corr = x.corr := by simp only [Tile.countEvents, Tile.bumpEvc_corr]
@[simp] theorem Tile.countEvents_lanes (x : Tile) (a b c d : Nat) : (x.countEvents a b c d).lanes = x.lanes := by simp only [Tile.countEvents, Tile.bumpEvc_lanes]
@[simp] theorem Tile.countEvents_queues (x : Tile) (a b c d : Nat) : (x.countEvents a b c d).queues = x.queues := by simp only [Tile.countEvents, Tile.bumpEvc_queues]
@[simp] theorem Tile.countEvents_order (x : Tile) (a b c d : Nat) : (x.countEvents a b c d).order = x.order := by simp only [Tile.countEvents, Tile.bumpEvc_order]
@[simp] theorem Tile.countEvents_seq (x : Tile) (a b c d : Nat) : (x.countEvents a b c d).seq = x.seq := by simp only [Tile.countEvents, Tile.bumpEvc_seq]
@[simp] theorem Tile.countEvents_store (x : Tile) (a b c d : Nat) : (x.countEvents a b c d).store = x.store := by simp only [Tile.countEvents, Tile.bumpEvc_store]
@[simp] theorem Tile.countEvents_votes (x : Tile) (a b c d : Nat) : (x.countEvents a b c d).votes = x.votes := by simp only [Tile.countEvents, Tile.bumpEvc_votes]
@[simp] theorem Tile.countEvents_area (x : Tile) (a b c d : Nat) : (x.countEvents a b c d).area = x.area := by simp only [Tile.countEvents, Tile.bumpEvc_area]
@[simp] theorem Tile.countEvents_counters (x : Tile) (a b c d : Nat) : (x.countEvents a b c d).counters = x.counters := by simp only [Tile.countEvents, Tile.bumpEvc_counters]
@[simp] theorem Tile.countEvents_freshCnt (x : Tile) (a b c d : Nat) : (x.countEvents a b c d).freshCnt = x.freshCnt := by simp only [Tile.countEvents, Tile.bumpEvc_freshCnt]
@[simp] theorem Tile.countEvents_hcache (x : Tile) (a b c d : Nat) : (x.countEvents a b c d).hcache = x.hcache := by simp only [Tile.countEvents, Tile.bumpEvc_hcache]
@[simp] theorem Tile.countEvents_svc (x : Tile) (a b c d : Nat) : (x.countEvents a b c d).svc = x.svc := by simp only [Tile.countEvents, Tile.bumpEvc_svc]
@[simp] theorem Tile.countEvents_sEvents (x : Tile) (a b c d : Nat) : (x.countEvents a b c d).sEvents = x.sEvents := by simp only [Tile.countEvents, Tile.bumpEvc_sEvents]
@[simp] theorem Tile.countEvents_serving (x : Tile) (a b c d : Nat) : (x.countEvents a b c d).serving = x.serving := by simp only [Tile.countEvents, Tile.bumpEvc_serving]
@[simp] theorem Tile.countEvents_trapQ (x : Tile) (a b c d : Nat) : (x.countEvents a b c d).trapQ = x.trapQ := by simp only [Tile.countEvents, Tile.bumpEvc_trapQ]
@[simp] theorem Tile.countEvents_fifo (x : Tile) (a b c d : Nat) : (x.countEvents a b c d).fifo = x.fifo := by simp only [Tile.countEvents, Tile.bumpEvc_fifo]
@[simp] theorem Tile.countEvents_barval (x : Tile) (a b c d : Nat) : (x.countEvents a b c d).barval = x.barval := by simp only [Tile.countEvents, Tile.bumpEvc_barval]
@[simp] theorem Tile.countEvents_joins (x : Tile) (a b c d : Nat) : (x.countEvents a b c d).joins = x.joins := by simp only [Tile.countEvents, Tile.bumpEvc_joins]
@[simp] theorem Tile.countEvents_kills (x : Tile) (a b c d : Nat) : (x.countEvents a b c d).kills = x.kills := by simp only [Tile.countEvents, Tile.bumpEvc_kills]
@[simp] theorem Tile.countEvents_tlb (x : Tile) (a b c d : Nat) : (x.countEvents a b c d).tlb = x.tlb := by simp only [Tile.countEvents, Tile.bumpEvc_tlb]
@[simp] theorem Tile.countEvents_linkUp (x : Tile) (a b c d : Nat) : (x.countEvents a b c d).linkUp = x.linkUp := by simp only [Tile.countEvents, Tile.bumpEvc_linkUp]
@[simp] theorem Tile.countEvents_asyncQ (x : Tile) (a b c d : Nat) : (x.countEvents a b c d).asyncQ = x.asyncQ := by simp only [Tile.countEvents, Tile.bumpEvc_asyncQ]
@[simp] theorem Tile.countEvents_rmaOps (x : Tile) (a b c d : Nat) : (x.countEvents a b c d).rmaOps = x.rmaOps := by simp only [Tile.countEvents, Tile.bumpEvc_rmaOps]
@[simp] theorem Tile.countEvents_rmaDone (x : Tile) (a b c d : Nat) : (x.countEvents a b c d).rmaDone = x.rmaDone := by simp only [Tile.countEvents, Tile.bumpEvc_rmaDone]
@[simp] theorem Tile.countEvents_running (x : Tile) (a b c d : Nat) : (x.countEvents a b c d).running = x.running := by simp only [Tile.countEvents, Tile.bumpEvc_running]
@[simp] theorem Tile.countEvents_queued (x : Tile) (a b c d : Nat) : (x.countEvents a b c d).queued = x.queued := by simp only [Tile.countEvents, Tile.bumpEvc_queued]
@[simp] theorem Tile.countEvents_prog (x : Tile) (a b c d : Nat) : (x.countEvents a b c d).prog = x.prog := by simp only [Tile.countEvents, Tile.bumpEvc_prog]
@[simp] theorem Tile.countEvents_last (x : Tile) (a b c d : Nat) : (x.countEvents a b c d).last = x.last := by simp only [Tile.countEvents, Tile.bumpEvc_last]
@[simp] theorem Tile.countEvents_injected (x : Tile) (a b c d : Nat) : (x.countEvents a b c d).injected = x.injected := by simp only [Tile.countEvents, Tile.bumpEvc_injected]
@[simp] theorem Tile.countEvents_phases (x : Tile) (a b c d : Nat) : (x.countEvents a b c d).phases = x.phases := by simp only [Tile.countEvents, Tile.bumpEvc_phases]
@[simp] theorem Tile.countEvents_active (x : Tile) (a b c d : Nat) : (x.countEvents a b c d).active = x.active := by simp only [Tile.countEvents, Tile.bumpEvc_active]
@[simp] theorem Tile.countEvents_pending (x : Tile) (a b c d : Nat) : (x.countEvents a b c d).pending = x.pending := by simp only [Tile.countEvents, Tile.bumpEvc_pending]
@[simp] theorem Tile.countEvents_past (x : Tile) (a b c d : Nat) : (x.countEvents a b c d).past = x.past := by simp only [Tile.countEvents, Tile.bumpEvc_past]
@[simp] theorem Tile.countEvents_left (x : Tile) (a b c d : Nat) : (x.countEvents a b c d).left = x.left := by simp only [Tile.countEvents, Tile.bumpEvc_left]
@[simp] theorem Tile.countEvents_sac (x : Tile) (a b c d : Nat) : (x.countEvents a b c d).sac = x.sac := by simp only [Tile.countEvents, Tile.bumpEvc_sac]
@[simp] theorem Tile.countEvents_seStat (x : Tile) (a b c d : Nat) : (x.countEvents a b c d).seStat = x.seStat := by simp only [Tile.countEvents, Tile.bumpEvc_seStat]
@[simp] theorem Tile.countEvents_loopIn (x : Tile) (a b c d : Nat) : (x.countEvents a b c d).loopIn = x.loopIn := by simp only [Tile.countEvents, Tile.bumpEvc_loopIn]
@[simp] theorem Tile.countEvents_completions (x : Tile) (a b c d : Nat) : (x.countEvents a b c d).completions = x.completions := by simp only [Tile.countEvents, Tile.bumpEvc_completions]
@[simp] theorem Tile.countEvents_stopRec (x : Tile) (a b c d : Nat) : (x.countEvents a b c d).stopRec = x.stopRec := by simp only [Tile.countEvents, Tile.bumpEvc_stopRec]
@[simp] theorem Tile.countEvents_sent (x : Tile) (a b c d : Nat) : (x.countEvents a b c d).sent = x.sent := by simp only [Tile.countEvents, Tile.bumpEvc_sent]
@[simp] theorem Tile.countEvents_resolved (x : Tile) (a b c d : Nat) : (x.countEvents a b c d).resolved = x.resolved := by simp only [Tile.countEvents, Tile.bumpEvc_resolved]
@[simp] theorem Tile.countEvents_frozen (x : Tile) (a b c d : Nat) : (x.countEvents a b c d).frozen = x.frozen := by simp only [Tile.countEvents, Tile.bumpEvc_frozen]
@[simp] theorem Tile.countEvents_log (x : Tile) (a b c d : Nat) : (x.countEvents a b c d).log = x.log := by simp only [Tile.countEvents, Tile.bumpEvc_log]
@[simp] theorem Tile.countEvents_logFull (x : Tile) (a b c d : Nat) : (x.countEvents a b c d).logFull = x.logFull := by simp only [Tile.countEvents, Tile.bumpEvc_logFull]
@[simp] theorem Tile.countEvents_logBase (x : Tile) (a b c d : Nat) : (x.countEvents a b c d).logBase = x.logBase := by simp only [Tile.countEvents, Tile.bumpEvc_logBase]
@[simp] theorem Tile.countEvents_logUsed (x : Tile) (a b c d : Nat) : (x.countEvents a b c d).logUsed = x.logUsed := by simp only [Tile.countEvents, Tile.bumpEvc_logUsed]
@[simp] theorem Tile.countEvents_replay (x : Tile) (a b c d : Nat) : (x.countEvents a b c d).replay = x.replay := by simp only [Tile.countEvents, Tile.bumpEvc_replay]
@[simp] theorem Tile.countEvents_feed (x : Tile) (a b c d : Nat) : (x.countEvents a b c d).feed = x.feed := by simp only [Tile.countEvents, Tile.bumpEvc_feed]
@[simp] theorem Tile.spPut_enabled (x : Tile) (a : Nat) (bs : List Byte) : (x.spPut a bs).enabled = x.enabled := rfl
@[simp] theorem Tile.spPut_withdrawn (x : Tile) (a : Nat) (bs : List Byte) : (x.spPut a bs).withdrawn = x.withdrawn := rfl
@[simp] theorem Tile.spPut_dom (x : Tile) (a : Nat) (bs : List Byte) : (x.spPut a bs).dom = x.dom := rfl
@[simp] theorem Tile.spPut_ctxs (x : Tile) (a : Nat) (bs : List Byte) : (x.spPut a bs).ctxs = x.ctxs := rfl
@[simp] theorem Tile.spPut_lastL (x : Tile) (a : Nat) (bs : List Byte) : (x.spPut a bs).lastL = x.lastL := rfl
@[simp] theorem Tile.spPut_panes (x : Tile) (a : Nat) (bs : List Byte) : (x.spPut a bs).panes = x.panes := rfl
@[simp] theorem Tile.spPut_evc (x : Tile) (a : Nat) (bs : List Byte) : (x.spPut a bs).evc = x.evc := rfl
@[simp] theorem Tile.spPut_evcAt (x : Tile) (a : Nat) (bs : List Byte) : (x.spPut a bs).evcAt = x.evcAt := rfl
@[simp] theorem Tile.spPut_evcNew (x : Tile) (a : Nat) (bs : List Byte) : (x.spPut a bs).evcNew = x.evcNew := rfl
@[simp] theorem Tile.spPut_rnsmap (x : Tile) (a : Nat) (bs : List Byte) : (x.spPut a bs).rnsmap = x.rnsmap := rfl
@[simp] theorem Tile.spPut_errinj (x : Tile) (a : Nat) (bs : List Byte) : (x.spPut a bs).errinj = x.errinj := rfl
@[simp] theorem Tile.spPut_corr (x : Tile) (a : Nat) (bs : List Byte) : (x.spPut a bs).corr = x.corr := rfl
@[simp] theorem Tile.spPut_lanes (x : Tile) (a : Nat) (bs : List Byte) : (x.spPut a bs).lanes = x.lanes := rfl
@[simp] theorem Tile.spPut_queues (x : Tile) (a : Nat) (bs : List Byte) : (x.spPut a bs).queues = x.queues := rfl
@[simp] theorem Tile.spPut_order (x : Tile) (a : Nat) (bs : List Byte) : (x.spPut a bs).order = x.order := rfl
@[simp] theorem Tile.spPut_seq (x : Tile) (a : Nat) (bs : List Byte) : (x.spPut a bs).seq = x.seq := rfl
@[simp] theorem Tile.spPut_store (x : Tile) (a : Nat) (bs : List Byte) : (x.spPut a bs).store = x.store := rfl
@[simp] theorem Tile.spPut_votes (x : Tile) (a : Nat) (bs : List Byte) : (x.spPut a bs).votes = x.votes := rfl
@[simp] theorem Tile.spPut_area (x : Tile) (a : Nat) (bs : List Byte) : (x.spPut a bs).area = x.area := rfl
@[simp] theorem Tile.spPut_counters (x : Tile) (a : Nat) (bs : List Byte) : (x.spPut a bs).counters = x.counters := rfl
@[simp] theorem Tile.spPut_freshCnt (x : Tile) (a : Nat) (bs : List Byte) : (x.spPut a bs).freshCnt = x.freshCnt := rfl
@[simp] theorem Tile.spPut_hcache (x : Tile) (a : Nat) (bs : List Byte) : (x.spPut a bs).hcache = x.hcache := rfl
@[simp] theorem Tile.spPut_svc (x : Tile) (a : Nat) (bs : List Byte) : (x.spPut a bs).svc = x.svc := rfl
@[simp] theorem Tile.spPut_sEvents (x : Tile) (a : Nat) (bs : List Byte) : (x.spPut a bs).sEvents = x.sEvents := rfl
@[simp] theorem Tile.spPut_serving (x : Tile) (a : Nat) (bs : List Byte) : (x.spPut a bs).serving = x.serving := rfl
@[simp] theorem Tile.spPut_trapQ (x : Tile) (a : Nat) (bs : List Byte) : (x.spPut a bs).trapQ = x.trapQ := rfl
@[simp] theorem Tile.spPut_fifo (x : Tile) (a : Nat) (bs : List Byte) : (x.spPut a bs).fifo = x.fifo := rfl
@[simp] theorem Tile.spPut_barval (x : Tile) (a : Nat) (bs : List Byte) : (x.spPut a bs).barval = x.barval := rfl
@[simp] theorem Tile.spPut_joins (x : Tile) (a : Nat) (bs : List Byte) : (x.spPut a bs).joins = x.joins := rfl
@[simp] theorem Tile.spPut_kills (x : Tile) (a : Nat) (bs : List Byte) : (x.spPut a bs).kills = x.kills := rfl
@[simp] theorem Tile.spPut_tlb (x : Tile) (a : Nat) (bs : List Byte) : (x.spPut a bs).tlb = x.tlb := rfl
@[simp] theorem Tile.spPut_linkUp (x : Tile) (a : Nat) (bs : List Byte) : (x.spPut a bs).linkUp = x.linkUp := rfl
@[simp] theorem Tile.spPut_asyncQ (x : Tile) (a : Nat) (bs : List Byte) : (x.spPut a bs).asyncQ = x.asyncQ := rfl
@[simp] theorem Tile.spPut_rmaOps (x : Tile) (a : Nat) (bs : List Byte) : (x.spPut a bs).rmaOps = x.rmaOps := rfl
@[simp] theorem Tile.spPut_rmaDone (x : Tile) (a : Nat) (bs : List Byte) : (x.spPut a bs).rmaDone = x.rmaDone := rfl
@[simp] theorem Tile.spPut_running (x : Tile) (a : Nat) (bs : List Byte) : (x.spPut a bs).running = x.running := rfl
@[simp] theorem Tile.spPut_queued (x : Tile) (a : Nat) (bs : List Byte) : (x.spPut a bs).queued = x.queued := rfl
@[simp] theorem Tile.spPut_prog (x : Tile) (a : Nat) (bs : List Byte) : (x.spPut a bs).prog = x.prog := rfl
@[simp] theorem Tile.spPut_last (x : Tile) (a : Nat) (bs : List Byte) : (x.spPut a bs).last = x.last := rfl
@[simp] theorem Tile.spPut_injected (x : Tile) (a : Nat) (bs : List Byte) : (x.spPut a bs).injected = x.injected := rfl
@[simp] theorem Tile.spPut_phases (x : Tile) (a : Nat) (bs : List Byte) : (x.spPut a bs).phases = x.phases := rfl
@[simp] theorem Tile.spPut_active (x : Tile) (a : Nat) (bs : List Byte) : (x.spPut a bs).active = x.active := rfl
@[simp] theorem Tile.spPut_pending (x : Tile) (a : Nat) (bs : List Byte) : (x.spPut a bs).pending = x.pending := rfl
@[simp] theorem Tile.spPut_past (x : Tile) (a : Nat) (bs : List Byte) : (x.spPut a bs).past = x.past := rfl
@[simp] theorem Tile.spPut_left (x : Tile) (a : Nat) (bs : List Byte) : (x.spPut a bs).left = x.left := rfl
@[simp] theorem Tile.spPut_sac (x : Tile) (a : Nat) (bs : List Byte) : (x.spPut a bs).sac = x.sac := rfl
@[simp] theorem Tile.spPut_seStat (x : Tile) (a : Nat) (bs : List Byte) : (x.spPut a bs).seStat = x.seStat := rfl
@[simp] theorem Tile.spPut_loopIn (x : Tile) (a : Nat) (bs : List Byte) : (x.spPut a bs).loopIn = x.loopIn := rfl
@[simp] theorem Tile.spPut_completions (x : Tile) (a : Nat) (bs : List Byte) : (x.spPut a bs).completions = x.completions := rfl
@[simp] theorem Tile.spPut_stopRec (x : Tile) (a : Nat) (bs : List Byte) : (x.spPut a bs).stopRec = x.stopRec := rfl
@[simp] theorem Tile.spPut_sent (x : Tile) (a : Nat) (bs : List Byte) : (x.spPut a bs).sent = x.sent := rfl
@[simp] theorem Tile.spPut_resolved (x : Tile) (a : Nat) (bs : List Byte) : (x.spPut a bs).resolved = x.resolved := rfl
@[simp] theorem Tile.spPut_frozen (x : Tile) (a : Nat) (bs : List Byte) : (x.spPut a bs).frozen = x.frozen := rfl
@[simp] theorem Tile.spPut_log (x : Tile) (a : Nat) (bs : List Byte) : (x.spPut a bs).log = x.log := rfl
@[simp] theorem Tile.spPut_logFull (x : Tile) (a : Nat) (bs : List Byte) : (x.spPut a bs).logFull = x.logFull := rfl
@[simp] theorem Tile.spPut_logBase (x : Tile) (a : Nat) (bs : List Byte) : (x.spPut a bs).logBase = x.logBase := rfl
@[simp] theorem Tile.spPut_logUsed (x : Tile) (a : Nat) (bs : List Byte) : (x.spPut a bs).logUsed = x.logUsed := rfl
@[simp] theorem Tile.spPut_replay (x : Tile) (a : Nat) (bs : List Byte) : (x.spPut a bs).replay = x.replay := rfl
@[simp] theorem Tile.spPut_feed (x : Tile) (a : Nat) (bs : List Byte) : (x.spPut a bs).feed = x.feed := rfl

/-! ### Updates of a context -/

@[simp] theorem Ctx.setV_gs (k : Ctx) (r : Reg) (w : VReg) : (k.setV r w).gs = k.gs := rfl
@[simp] theorem Ctx.setV_vxs (k : Ctx) (r : Reg) (w : VReg) : (k.setV r w).vxs = k.vxs := rfl
@[simp] theorem Ctx.setV_ks (k : Ctx) (r : Reg) (w : VReg) : (k.setV r w).ks = k.ks := rfl
@[simp] theorem Ctx.setV_ms (k : Ctx) (r : Reg) (w : VReg) : (k.setV r w).ms = k.ms := rfl
@[simp] theorem Ctx.setV_tg (k : Ctx) (r : Reg) (w : VReg) : (k.setV r w).tg = k.tg := rfl
@[simp] theorem Ctx.setV_pc (k : Ctx) (r : Reg) (w : VReg) : (k.setV r w).pc = k.pc := rfl
@[simp] theorem Ctx.setV_st (k : Ctx) (r : Reg) (w : VReg) : (k.setV r w).st = k.st := rfl
@[simp] theorem Ctx.setV_pfx (k : Ctx) (r : Reg) (w : VReg) : (k.setV r w).pfx = k.pfx := rfl
@[simp] theorem Ctx.setV_tx (k : Ctx) (r : Reg) (w : VReg) : (k.setV r w).tx = k.tx := rfl
@[simp] theorem Ctx.setV_mh0 (k : Ctx) (r : Reg) (w : VReg) : (k.setV r w).mh0 = k.mh0 := rfl
@[simp] theorem Ctx.setV_mh1 (k : Ctx) (r : Reg) (w : VReg) : (k.setV r w).mh1 = k.mh1 := rfl
@[simp] theorem Ctx.setV_mlen (k : Ctx) (r : Reg) (w : VReg) : (k.setV r w).mlen = k.mlen := rfl
@[simp] theorem Ctx.setV_icount (k : Ctx) (r : Reg) (w : VReg) : (k.setV r w).icount = k.icount := rfl
@[simp] theorem Ctx.setV_mret (k : Ctx) (r : Reg) (w : VReg) : (k.setV r w).mret = k.mret := rfl
@[simp] theorem Ctx.setV_mvec (k : Ctx) (r : Reg) (w : VReg) : (k.setV r w).mvec = k.mvec := rfl
@[simp] theorem Ctx.setV_rnsst (k : Ctx) (r : Reg) (w : VReg) : (k.setV r w).rnsst = k.rnsst := rfl
@[simp] theorem Ctx.setV_rnsch (k : Ctx) (r : Reg) (w : VReg) : (k.setV r w).rnsch = k.rnsch := rfl
@[simp] theorem Ctx.setV_wdog (k : Ctx) (r : Reg) (w : VReg) : (k.setV r w).wdog = k.wdog := rfl
@[simp] theorem Ctx.setV_rngseed (k : Ctx) (r : Reg) (w : VReg) : (k.setV r w).rngseed = k.rngseed := rfl
@[simp] theorem Ctx.setV_status (k : Ctx) (r : Reg) (w : VReg) : (k.setV r w).status = k.status := rfl
@[simp] theorem Ctx.setV_trapc (k : Ctx) (r : Reg) (w : VReg) : (k.setV r w).trapc = k.trapc := rfl
@[simp] theorem Ctx.setV_trappc (k : Ctx) (r : Reg) (w : VReg) : (k.setV r w).trappc = k.trappc := rfl
@[simp] theorem Ctx.setV_trapva (k : Ctx) (r : Reg) (w : VReg) : (k.setV r w).trapva = k.trapva := rfl
@[simp] theorem Ctx.setV_trapiw (k : Ctx) (r : Reg) (w : VReg) : (k.setV r w).trapiw = k.trapiw := rfl
@[simp] theorem Ctx.setV_pend (k : Ctx) (r : Reg) (w : VReg) : (k.setV r w).pend = k.pend := rfl
@[simp] theorem Ctx.setV_act (k : Ctx) (r : Reg) (w : VReg) : (k.setV r w).act = k.act := rfl
@[simp] theorem Ctx.setV_storeQ (k : Ctx) (r : Reg) (w : VReg) : (k.setV r w).storeQ = k.storeQ := rfl
@[simp] theorem Ctx.setV_failedStore (k : Ctx) (r : Reg) (w : VReg) : (k.setV r w).failedStore = k.failedStore := rfl
@[simp] theorem Ctx.setV_dirtied (k : Ctx) (r : Reg) (w : VReg) : (k.setV r w).dirtied = k.dirtied := rfl
@[simp] theorem Ctx.setV_wait (k : Ctx) (r : Reg) (w : VReg) : (k.setV r w).wait = k.wait := rfl
@[simp] theorem Ctx.setV_parkedVa (k : Ctx) (r : Reg) (w : VReg) : (k.setV r w).parkedVa = k.parkedVa := rfl
@[simp] theorem Ctx.setV_parkedWrite (k : Ctx) (r : Reg) (w : VReg) : (k.setV r w).parkedWrite = k.parkedWrite := rfl
@[simp] theorem Ctx.setV_parkedNeed (k : Ctx) (r : Reg) (w : VReg) : (k.setV r w).parkedNeed = k.parkedNeed := rfl
@[simp] theorem Ctx.setV_refilled (k : Ctx) (r : Reg) (w : VReg) : (k.setV r w).refilled = k.refilled := rfl
@[simp] theorem Ctx.setV_refetched (k : Ctx) (r : Reg) (w : VReg) : (k.setV r w).refetched = k.refetched := rfl
@[simp] theorem Ctx.setV_issueFrom (k : Ctx) (r : Reg) (w : VReg) : (k.setV r w).issueFrom = k.issueFrom := rfl
@[simp] theorem Ctx.setV_word (k : Ctx) (r : Reg) (w : VReg) : (k.setV r w).word = k.word := rfl
@[simp] theorem Ctx.setV_waitsOn (k : Ctx) (r : Reg) (w : VReg) : (k.setV r w).waitsOn = k.waitsOn := rfl

@[simp] theorem Ctx.setVx_gs (k : Ctx) (r : Reg) (w : Word) : (k.setVx r w).gs = k.gs := rfl
@[simp] theorem Ctx.setVx_vs (k : Ctx) (r : Reg) (w : Word) : (k.setVx r w).vs = k.vs := rfl
@[simp] theorem Ctx.setVx_ks (k : Ctx) (r : Reg) (w : Word) : (k.setVx r w).ks = k.ks := rfl
@[simp] theorem Ctx.setVx_ms (k : Ctx) (r : Reg) (w : Word) : (k.setVx r w).ms = k.ms := rfl
@[simp] theorem Ctx.setVx_tg (k : Ctx) (r : Reg) (w : Word) : (k.setVx r w).tg = k.tg := rfl
@[simp] theorem Ctx.setVx_pc (k : Ctx) (r : Reg) (w : Word) : (k.setVx r w).pc = k.pc := rfl
@[simp] theorem Ctx.setVx_st (k : Ctx) (r : Reg) (w : Word) : (k.setVx r w).st = k.st := rfl
@[simp] theorem Ctx.setVx_pfx (k : Ctx) (r : Reg) (w : Word) : (k.setVx r w).pfx = k.pfx := rfl
@[simp] theorem Ctx.setVx_tx (k : Ctx) (r : Reg) (w : Word) : (k.setVx r w).tx = k.tx := rfl
@[simp] theorem Ctx.setVx_mh0 (k : Ctx) (r : Reg) (w : Word) : (k.setVx r w).mh0 = k.mh0 := rfl
@[simp] theorem Ctx.setVx_mh1 (k : Ctx) (r : Reg) (w : Word) : (k.setVx r w).mh1 = k.mh1 := rfl
@[simp] theorem Ctx.setVx_mlen (k : Ctx) (r : Reg) (w : Word) : (k.setVx r w).mlen = k.mlen := rfl
@[simp] theorem Ctx.setVx_icount (k : Ctx) (r : Reg) (w : Word) : (k.setVx r w).icount = k.icount := rfl
@[simp] theorem Ctx.setVx_mret (k : Ctx) (r : Reg) (w : Word) : (k.setVx r w).mret = k.mret := rfl
@[simp] theorem Ctx.setVx_mvec (k : Ctx) (r : Reg) (w : Word) : (k.setVx r w).mvec = k.mvec := rfl
@[simp] theorem Ctx.setVx_rnsst (k : Ctx) (r : Reg) (w : Word) : (k.setVx r w).rnsst = k.rnsst := rfl
@[simp] theorem Ctx.setVx_rnsch (k : Ctx) (r : Reg) (w : Word) : (k.setVx r w).rnsch = k.rnsch := rfl
@[simp] theorem Ctx.setVx_wdog (k : Ctx) (r : Reg) (w : Word) : (k.setVx r w).wdog = k.wdog := rfl
@[simp] theorem Ctx.setVx_rngseed (k : Ctx) (r : Reg) (w : Word) : (k.setVx r w).rngseed = k.rngseed := rfl
@[simp] theorem Ctx.setVx_status (k : Ctx) (r : Reg) (w : Word) : (k.setVx r w).status = k.status := rfl
@[simp] theorem Ctx.setVx_trapc (k : Ctx) (r : Reg) (w : Word) : (k.setVx r w).trapc = k.trapc := rfl
@[simp] theorem Ctx.setVx_trappc (k : Ctx) (r : Reg) (w : Word) : (k.setVx r w).trappc = k.trappc := rfl
@[simp] theorem Ctx.setVx_trapva (k : Ctx) (r : Reg) (w : Word) : (k.setVx r w).trapva = k.trapva := rfl
@[simp] theorem Ctx.setVx_trapiw (k : Ctx) (r : Reg) (w : Word) : (k.setVx r w).trapiw = k.trapiw := rfl
@[simp] theorem Ctx.setVx_pend (k : Ctx) (r : Reg) (w : Word) : (k.setVx r w).pend = k.pend := rfl
@[simp] theorem Ctx.setVx_act (k : Ctx) (r : Reg) (w : Word) : (k.setVx r w).act = k.act := rfl
@[simp] theorem Ctx.setVx_storeQ (k : Ctx) (r : Reg) (w : Word) : (k.setVx r w).storeQ = k.storeQ := rfl
@[simp] theorem Ctx.setVx_failedStore (k : Ctx) (r : Reg) (w : Word) : (k.setVx r w).failedStore = k.failedStore := rfl
@[simp] theorem Ctx.setVx_dirtied (k : Ctx) (r : Reg) (w : Word) : (k.setVx r w).dirtied = k.dirtied := rfl
@[simp] theorem Ctx.setVx_wait (k : Ctx) (r : Reg) (w : Word) : (k.setVx r w).wait = k.wait := rfl
@[simp] theorem Ctx.setVx_parkedVa (k : Ctx) (r : Reg) (w : Word) : (k.setVx r w).parkedVa = k.parkedVa := rfl
@[simp] theorem Ctx.setVx_parkedWrite (k : Ctx) (r : Reg) (w : Word) : (k.setVx r w).parkedWrite = k.parkedWrite := rfl
@[simp] theorem Ctx.setVx_parkedNeed (k : Ctx) (r : Reg) (w : Word) : (k.setVx r w).parkedNeed = k.parkedNeed := rfl
@[simp] theorem Ctx.setVx_refilled (k : Ctx) (r : Reg) (w : Word) : (k.setVx r w).refilled = k.refilled := rfl
@[simp] theorem Ctx.setVx_refetched (k : Ctx) (r : Reg) (w : Word) : (k.setVx r w).refetched = k.refetched := rfl
@[simp] theorem Ctx.setVx_issueFrom (k : Ctx) (r : Reg) (w : Word) : (k.setVx r w).issueFrom = k.issueFrom := rfl
@[simp] theorem Ctx.setVx_word (k : Ctx) (r : Reg) (w : Word) : (k.setVx r w).word = k.word := rfl
@[simp] theorem Ctx.setVx_waitsOn (k : Ctx) (r : Reg) (w : Word) : (k.setVx r w).waitsOn = k.waitsOn := rfl

@[simp] theorem Ctx.setG_vs (k : Ctx) (r : Reg) (w : Word) : (k.setG r w).vs = k.vs := by unfold Ctx.setG; split <;> rfl
@[simp] theorem Ctx.setG_vxs (k : Ctx) (r : Reg) (w : Word) : (k.setG r w).vxs = k.vxs := by unfold Ctx.setG; split <;> rfl
@[simp] theorem Ctx.setG_ks (k : Ctx) (r : Reg) (w : Word) : (k.setG r w).ks = k.ks := by unfold Ctx.setG; split <;> rfl
@[simp] theorem Ctx.setG_ms (k : Ctx) (r : Reg) (w : Word) : (k.setG r w).ms = k.ms := by unfold Ctx.setG; split <;> rfl
@[simp] theorem Ctx.setG_tg (k : Ctx) (r : Reg) (w : Word) : (k.setG r w).tg = k.tg := by unfold Ctx.setG; split <;> rfl
@[simp] theorem Ctx.setG_pc (k : Ctx) (r : Reg) (w : Word) : (k.setG r w).pc = k.pc := by unfold Ctx.setG; split <;> rfl
@[simp] theorem Ctx.setG_st (k : Ctx) (r : Reg) (w : Word) : (k.setG r w).st = k.st := by unfold Ctx.setG; split <;> rfl
@[simp] theorem Ctx.setG_pfx (k : Ctx) (r : Reg) (w : Word) : (k.setG r w).pfx = k.pfx := by unfold Ctx.setG; split <;> rfl
@[simp] theorem Ctx.setG_tx (k : Ctx) (r : Reg) (w : Word) : (k.setG r w).tx = k.tx := by unfold Ctx.setG; split <;> rfl
@[simp] theorem Ctx.setG_mh0 (k : Ctx) (r : Reg) (w : Word) : (k.setG r w).mh0 = k.mh0 := by unfold Ctx.setG; split <;> rfl
@[simp] theorem Ctx.setG_mh1 (k : Ctx) (r : Reg) (w : Word) : (k.setG r w).mh1 = k.mh1 := by unfold Ctx.setG; split <;> rfl
@[simp] theorem Ctx.setG_mlen (k : Ctx) (r : Reg) (w : Word) : (k.setG r w).mlen = k.mlen := by unfold Ctx.setG; split <;> rfl
@[simp] theorem Ctx.setG_icount (k : Ctx) (r : Reg) (w : Word) : (k.setG r w).icount = k.icount := by unfold Ctx.setG; split <;> rfl
@[simp] theorem Ctx.setG_mret (k : Ctx) (r : Reg) (w : Word) : (k.setG r w).mret = k.mret := by unfold Ctx.setG; split <;> rfl
@[simp] theorem Ctx.setG_mvec (k : Ctx) (r : Reg) (w : Word) : (k.setG r w).mvec = k.mvec := by unfold Ctx.setG; split <;> rfl
@[simp] theorem Ctx.setG_rnsst (k : Ctx) (r : Reg) (w : Word) : (k.setG r w).rnsst = k.rnsst := by unfold Ctx.setG; split <;> rfl
@[simp] theorem Ctx.setG_rnsch (k : Ctx) (r : Reg) (w : Word) : (k.setG r w).rnsch = k.rnsch := by unfold Ctx.setG; split <;> rfl
@[simp] theorem Ctx.setG_wdog (k : Ctx) (r : Reg) (w : Word) : (k.setG r w).wdog = k.wdog := by unfold Ctx.setG; split <;> rfl
@[simp] theorem Ctx.setG_rngseed (k : Ctx) (r : Reg) (w : Word) : (k.setG r w).rngseed = k.rngseed := by unfold Ctx.setG; split <;> rfl
@[simp] theorem Ctx.setG_status (k : Ctx) (r : Reg) (w : Word) : (k.setG r w).status = k.status := by unfold Ctx.setG; split <;> rfl
@[simp] theorem Ctx.setG_trapc (k : Ctx) (r : Reg) (w : Word) : (k.setG r w).trapc = k.trapc := by unfold Ctx.setG; split <;> rfl
@[simp] theorem Ctx.setG_trappc (k : Ctx) (r : Reg) (w : Word) : (k.setG r w).trappc = k.trappc := by unfold Ctx.setG; split <;> rfl
@[simp] theorem Ctx.setG_trapva (k : Ctx) (r : Reg) (w : Word) : (k.setG r w).trapva = k.trapva := by unfold Ctx.setG; split <;> rfl
@[simp] theorem Ctx.setG_trapiw (k : Ctx) (r : Reg) (w : Word) : (k.setG r w).trapiw = k.trapiw := by unfold Ctx.setG; split <;> rfl
@[simp] theorem Ctx.setG_pend (k : Ctx) (r : Reg) (w : Word) : (k.setG r w).pend = k.pend := by unfold Ctx.setG; split <;> rfl
@[simp] theorem Ctx.setG_act (k : Ctx) (r : Reg) (w : Word) : (k.setG r w).act = k.act := by unfold Ctx.setG; split <;> rfl
@[simp] theorem Ctx.setG_storeQ (k : Ctx) (r : Reg) (w : Word) : (k.setG r w).storeQ = k.storeQ := by unfold Ctx.setG; split <;> rfl
@[simp] theorem Ctx.setG_failedStore (k : Ctx) (r : Reg) (w : Word) : (k.setG r w).failedStore = k.failedStore := by unfold Ctx.setG; split <;> rfl
@[simp] theorem Ctx.setG_dirtied (k : Ctx) (r : Reg) (w : Word) : (k.setG r w).dirtied = k.dirtied := by unfold Ctx.setG; split <;> rfl
@[simp] theorem Ctx.setG_wait (k : Ctx) (r : Reg) (w : Word) : (k.setG r w).wait = k.wait := by unfold Ctx.setG; split <;> rfl
@[simp] theorem Ctx.setG_parkedVa (k : Ctx) (r : Reg) (w : Word) : (k.setG r w).parkedVa = k.parkedVa := by unfold Ctx.setG; split <;> rfl
@[simp] theorem Ctx.setG_parkedWrite (k : Ctx) (r : Reg) (w : Word) : (k.setG r w).parkedWrite = k.parkedWrite := by unfold Ctx.setG; split <;> rfl
@[simp] theorem Ctx.setG_parkedNeed (k : Ctx) (r : Reg) (w : Word) : (k.setG r w).parkedNeed = k.parkedNeed := by unfold Ctx.setG; split <;> rfl
@[simp] theorem Ctx.setG_refilled (k : Ctx) (r : Reg) (w : Word) : (k.setG r w).refilled = k.refilled := by unfold Ctx.setG; split <;> rfl
@[simp] theorem Ctx.setG_refetched (k : Ctx) (r : Reg) (w : Word) : (k.setG r w).refetched = k.refetched := by unfold Ctx.setG; split <;> rfl
@[simp] theorem Ctx.setG_issueFrom (k : Ctx) (r : Reg) (w : Word) : (k.setG r w).issueFrom = k.issueFrom := by unfold Ctx.setG; split <;> rfl
@[simp] theorem Ctx.setG_word (k : Ctx) (r : Reg) (w : Word) : (k.setG r w).word = k.word := by unfold Ctx.setG; split <;> rfl
@[simp] theorem Ctx.setG_waitsOn (k : Ctx) (r : Reg) (w : Word) : (k.setG r w).waitsOn = k.waitsOn := by unfold Ctx.setG; split <;> rfl

@[simp] theorem Ctx.setK_gs (k : Ctx) (r : KReg) (w : Pred) : (k.setK r w).gs = k.gs := by unfold Ctx.setK; split <;> rfl
@[simp] theorem Ctx.setK_vs (k : Ctx) (r : KReg) (w : Pred) : (k.setK r w).vs = k.vs := by unfold Ctx.setK; split <;> rfl
@[simp] theorem Ctx.setK_vxs (k : Ctx) (r : KReg) (w : Pred) : (k.setK r w).vxs = k.vxs := by unfold Ctx.setK; split <;> rfl
@[simp] theorem Ctx.setK_ms (k : Ctx) (r : KReg) (w : Pred) : (k.setK r w).ms = k.ms := by unfold Ctx.setK; split <;> rfl
@[simp] theorem Ctx.setK_tg (k : Ctx) (r : KReg) (w : Pred) : (k.setK r w).tg = k.tg := by unfold Ctx.setK; split <;> rfl
@[simp] theorem Ctx.setK_pc (k : Ctx) (r : KReg) (w : Pred) : (k.setK r w).pc = k.pc := by unfold Ctx.setK; split <;> rfl
@[simp] theorem Ctx.setK_st (k : Ctx) (r : KReg) (w : Pred) : (k.setK r w).st = k.st := by unfold Ctx.setK; split <;> rfl
@[simp] theorem Ctx.setK_pfx (k : Ctx) (r : KReg) (w : Pred) : (k.setK r w).pfx = k.pfx := by unfold Ctx.setK; split <;> rfl
@[simp] theorem Ctx.setK_tx (k : Ctx) (r : KReg) (w : Pred) : (k.setK r w).tx = k.tx := by unfold Ctx.setK; split <;> rfl
@[simp] theorem Ctx.setK_mh0 (k : Ctx) (r : KReg) (w : Pred) : (k.setK r w).mh0 = k.mh0 := by unfold Ctx.setK; split <;> rfl
@[simp] theorem Ctx.setK_mh1 (k : Ctx) (r : KReg) (w : Pred) : (k.setK r w).mh1 = k.mh1 := by unfold Ctx.setK; split <;> rfl
@[simp] theorem Ctx.setK_mlen (k : Ctx) (r : KReg) (w : Pred) : (k.setK r w).mlen = k.mlen := by unfold Ctx.setK; split <;> rfl
@[simp] theorem Ctx.setK_icount (k : Ctx) (r : KReg) (w : Pred) : (k.setK r w).icount = k.icount := by unfold Ctx.setK; split <;> rfl
@[simp] theorem Ctx.setK_mret (k : Ctx) (r : KReg) (w : Pred) : (k.setK r w).mret = k.mret := by unfold Ctx.setK; split <;> rfl
@[simp] theorem Ctx.setK_mvec (k : Ctx) (r : KReg) (w : Pred) : (k.setK r w).mvec = k.mvec := by unfold Ctx.setK; split <;> rfl
@[simp] theorem Ctx.setK_rnsst (k : Ctx) (r : KReg) (w : Pred) : (k.setK r w).rnsst = k.rnsst := by unfold Ctx.setK; split <;> rfl
@[simp] theorem Ctx.setK_rnsch (k : Ctx) (r : KReg) (w : Pred) : (k.setK r w).rnsch = k.rnsch := by unfold Ctx.setK; split <;> rfl
@[simp] theorem Ctx.setK_wdog (k : Ctx) (r : KReg) (w : Pred) : (k.setK r w).wdog = k.wdog := by unfold Ctx.setK; split <;> rfl
@[simp] theorem Ctx.setK_rngseed (k : Ctx) (r : KReg) (w : Pred) : (k.setK r w).rngseed = k.rngseed := by unfold Ctx.setK; split <;> rfl
@[simp] theorem Ctx.setK_status (k : Ctx) (r : KReg) (w : Pred) : (k.setK r w).status = k.status := by unfold Ctx.setK; split <;> rfl
@[simp] theorem Ctx.setK_trapc (k : Ctx) (r : KReg) (w : Pred) : (k.setK r w).trapc = k.trapc := by unfold Ctx.setK; split <;> rfl
@[simp] theorem Ctx.setK_trappc (k : Ctx) (r : KReg) (w : Pred) : (k.setK r w).trappc = k.trappc := by unfold Ctx.setK; split <;> rfl
@[simp] theorem Ctx.setK_trapva (k : Ctx) (r : KReg) (w : Pred) : (k.setK r w).trapva = k.trapva := by unfold Ctx.setK; split <;> rfl
@[simp] theorem Ctx.setK_trapiw (k : Ctx) (r : KReg) (w : Pred) : (k.setK r w).trapiw = k.trapiw := by unfold Ctx.setK; split <;> rfl
@[simp] theorem Ctx.setK_pend (k : Ctx) (r : KReg) (w : Pred) : (k.setK r w).pend = k.pend := by unfold Ctx.setK; split <;> rfl
@[simp] theorem Ctx.setK_act (k : Ctx) (r : KReg) (w : Pred) : (k.setK r w).act = k.act := by unfold Ctx.setK; split <;> rfl
@[simp] theorem Ctx.setK_storeQ (k : Ctx) (r : KReg) (w : Pred) : (k.setK r w).storeQ = k.storeQ := by unfold Ctx.setK; split <;> rfl
@[simp] theorem Ctx.setK_failedStore (k : Ctx) (r : KReg) (w : Pred) : (k.setK r w).failedStore = k.failedStore := by unfold Ctx.setK; split <;> rfl
@[simp] theorem Ctx.setK_dirtied (k : Ctx) (r : KReg) (w : Pred) : (k.setK r w).dirtied = k.dirtied := by unfold Ctx.setK; split <;> rfl
@[simp] theorem Ctx.setK_wait (k : Ctx) (r : KReg) (w : Pred) : (k.setK r w).wait = k.wait := by unfold Ctx.setK; split <;> rfl
@[simp] theorem Ctx.setK_parkedVa (k : Ctx) (r : KReg) (w : Pred) : (k.setK r w).parkedVa = k.parkedVa := by unfold Ctx.setK; split <;> rfl
@[simp] theorem Ctx.setK_parkedWrite (k : Ctx) (r : KReg) (w : Pred) : (k.setK r w).parkedWrite = k.parkedWrite := by unfold Ctx.setK; split <;> rfl
@[simp] theorem Ctx.setK_parkedNeed (k : Ctx) (r : KReg) (w : Pred) : (k.setK r w).parkedNeed = k.parkedNeed := by unfold Ctx.setK; split <;> rfl
@[simp] theorem Ctx.setK_refilled (k : Ctx) (r : KReg) (w : Pred) : (k.setK r w).refilled = k.refilled := by unfold Ctx.setK; split <;> rfl
@[simp] theorem Ctx.setK_refetched (k : Ctx) (r : KReg) (w : Pred) : (k.setK r w).refetched = k.refetched := by unfold Ctx.setK; split <;> rfl
@[simp] theorem Ctx.setK_issueFrom (k : Ctx) (r : KReg) (w : Pred) : (k.setK r w).issueFrom = k.issueFrom := by unfold Ctx.setK; split <;> rfl
@[simp] theorem Ctx.setK_word (k : Ctx) (r : KReg) (w : Pred) : (k.setK r w).word = k.word := by unfold Ctx.setK; split <;> rfl
@[simp] theorem Ctx.setK_waitsOn (k : Ctx) (r : KReg) (w : Pred) : (k.setK r w).waitsOn = k.waitsOn := by unfold Ctx.setK; split <;> rfl

@[simp] theorem Ctx.setPend_gs (k : Ctx) (b : Bool) : (k.setPend b).gs = k.gs := rfl
@[simp] theorem Ctx.setPend_vs (k : Ctx) (b : Bool) : (k.setPend b).vs = k.vs := rfl
@[simp] theorem Ctx.setPend_vxs (k : Ctx) (b : Bool) : (k.setPend b).vxs = k.vxs := rfl
@[simp] theorem Ctx.setPend_ks (k : Ctx) (b : Bool) : (k.setPend b).ks = k.ks := rfl
@[simp] theorem Ctx.setPend_ms (k : Ctx) (b : Bool) : (k.setPend b).ms = k.ms := rfl
@[simp] theorem Ctx.setPend_tg (k : Ctx) (b : Bool) : (k.setPend b).tg = k.tg := rfl
@[simp] theorem Ctx.setPend_pc (k : Ctx) (b : Bool) : (k.setPend b).pc = k.pc := rfl
@[simp] theorem Ctx.setPend_pfx (k : Ctx) (b : Bool) : (k.setPend b).pfx = k.pfx := rfl
@[simp] theorem Ctx.setPend_tx (k : Ctx) (b : Bool) : (k.setPend b).tx = k.tx := rfl
@[simp] theorem Ctx.setPend_mh0 (k : Ctx) (b : Bool) : (k.setPend b).mh0 = k.mh0 := rfl
@[simp] theorem Ctx.setPend_mh1 (k : Ctx) (b : Bool) : (k.setPend b).mh1 = k.mh1 := rfl
@[simp] theorem Ctx.setPend_mlen (k : Ctx) (b : Bool) : (k.setPend b).mlen = k.mlen := rfl
@[simp] theorem Ctx.setPend_icount (k : Ctx) (b : Bool) : (k.setPend b).icount = k.icount := rfl
@[simp] theorem Ctx.setPend_mret (k : Ctx) (b : Bool) : (k.setPend b).mret = k.mret := rfl
@[simp] theorem Ctx.setPend_mvec (k : Ctx) (b : Bool) : (k.setPend b).mvec = k.mvec := rfl
@[simp] theorem Ctx.setPend_rnsst (k : Ctx) (b : Bool) : (k.setPend b).rnsst = k.rnsst := rfl
@[simp] theorem Ctx.setPend_rnsch (k : Ctx) (b : Bool) : (k.setPend b).rnsch = k.rnsch := rfl
@[simp] theorem Ctx.setPend_wdog (k : Ctx) (b : Bool) : (k.setPend b).wdog = k.wdog := rfl
@[simp] theorem Ctx.setPend_rngseed (k : Ctx) (b : Bool) : (k.setPend b).rngseed = k.rngseed := rfl
@[simp] theorem Ctx.setPend_status (k : Ctx) (b : Bool) : (k.setPend b).status = k.status := rfl
@[simp] theorem Ctx.setPend_trapc (k : Ctx) (b : Bool) : (k.setPend b).trapc = k.trapc := rfl
@[simp] theorem Ctx.setPend_trappc (k : Ctx) (b : Bool) : (k.setPend b).trappc = k.trappc := rfl
@[simp] theorem Ctx.setPend_trapva (k : Ctx) (b : Bool) : (k.setPend b).trapva = k.trapva := rfl
@[simp] theorem Ctx.setPend_trapiw (k : Ctx) (b : Bool) : (k.setPend b).trapiw = k.trapiw := rfl
@[simp] theorem Ctx.setPend_pend (k : Ctx) (b : Bool) : (k.setPend b).pend = k.pend := rfl
@[simp] theorem Ctx.setPend_act (k : Ctx) (b : Bool) : (k.setPend b).act = k.act := rfl
@[simp] theorem Ctx.setPend_storeQ (k : Ctx) (b : Bool) : (k.setPend b).storeQ = k.storeQ := rfl
@[simp] theorem Ctx.setPend_failedStore (k : Ctx) (b : Bool) : (k.setPend b).failedStore = k.failedStore := rfl
@[simp] theorem Ctx.setPend_dirtied (k : Ctx) (b : Bool) : (k.setPend b).dirtied = k.dirtied := rfl
@[simp] theorem Ctx.setPend_wait (k : Ctx) (b : Bool) : (k.setPend b).wait = k.wait := rfl
@[simp] theorem Ctx.setPend_parkedVa (k : Ctx) (b : Bool) : (k.setPend b).parkedVa = k.parkedVa := rfl
@[simp] theorem Ctx.setPend_parkedWrite (k : Ctx) (b : Bool) : (k.setPend b).parkedWrite = k.parkedWrite := rfl
@[simp] theorem Ctx.setPend_parkedNeed (k : Ctx) (b : Bool) : (k.setPend b).parkedNeed = k.parkedNeed := rfl
@[simp] theorem Ctx.setPend_refilled (k : Ctx) (b : Bool) : (k.setPend b).refilled = k.refilled := rfl
@[simp] theorem Ctx.setPend_refetched (k : Ctx) (b : Bool) : (k.setPend b).refetched = k.refetched := rfl
@[simp] theorem Ctx.setPend_issueFrom (k : Ctx) (b : Bool) : (k.setPend b).issueFrom = k.issueFrom := rfl
@[simp] theorem Ctx.setPend_word (k : Ctx) (b : Bool) : (k.setPend b).word = k.word := rfl
@[simp] theorem Ctx.setPend_waitsOn (k : Ctx) (b : Bool) : (k.setPend b).waitsOn = k.waitsOn := rfl

@[simp] theorem Ctx.raise_gs (k : Ctx) (f : Fl) : (k.raise f).gs = k.gs := rfl
@[simp] theorem Ctx.raise_vs (k : Ctx) (f : Fl) : (k.raise f).vs = k.vs := rfl
@[simp] theorem Ctx.raise_vxs (k : Ctx) (f : Fl) : (k.raise f).vxs = k.vxs := rfl
@[simp] theorem Ctx.raise_ks (k : Ctx) (f : Fl) : (k.raise f).ks = k.ks := rfl
@[simp] theorem Ctx.raise_ms (k : Ctx) (f : Fl) : (k.raise f).ms = k.ms := rfl
@[simp] theorem Ctx.raise_tg (k : Ctx) (f : Fl) : (k.raise f).tg = k.tg := rfl
@[simp] theorem Ctx.raise_pc (k : Ctx) (f : Fl) : (k.raise f).pc = k.pc := rfl
@[simp] theorem Ctx.raise_pfx (k : Ctx) (f : Fl) : (k.raise f).pfx = k.pfx := rfl
@[simp] theorem Ctx.raise_tx (k : Ctx) (f : Fl) : (k.raise f).tx = k.tx := rfl
@[simp] theorem Ctx.raise_mh0 (k : Ctx) (f : Fl) : (k.raise f).mh0 = k.mh0 := rfl
@[simp] theorem Ctx.raise_mh1 (k : Ctx) (f : Fl) : (k.raise f).mh1 = k.mh1 := rfl
@[simp] theorem Ctx.raise_mlen (k : Ctx) (f : Fl) : (k.raise f).mlen = k.mlen := rfl
@[simp] theorem Ctx.raise_icount (k : Ctx) (f : Fl) : (k.raise f).icount = k.icount := rfl
@[simp] theorem Ctx.raise_mret (k : Ctx) (f : Fl) : (k.raise f).mret = k.mret := rfl
@[simp] theorem Ctx.raise_mvec (k : Ctx) (f : Fl) : (k.raise f).mvec = k.mvec := rfl
@[simp] theorem Ctx.raise_rnsst (k : Ctx) (f : Fl) : (k.raise f).rnsst = k.rnsst := rfl
@[simp] theorem Ctx.raise_rnsch (k : Ctx) (f : Fl) : (k.raise f).rnsch = k.rnsch := rfl
@[simp] theorem Ctx.raise_wdog (k : Ctx) (f : Fl) : (k.raise f).wdog = k.wdog := rfl
@[simp] theorem Ctx.raise_rngseed (k : Ctx) (f : Fl) : (k.raise f).rngseed = k.rngseed := rfl
@[simp] theorem Ctx.raise_status (k : Ctx) (f : Fl) : (k.raise f).status = k.status := rfl
@[simp] theorem Ctx.raise_trapc (k : Ctx) (f : Fl) : (k.raise f).trapc = k.trapc := rfl
@[simp] theorem Ctx.raise_trappc (k : Ctx) (f : Fl) : (k.raise f).trappc = k.trappc := rfl
@[simp] theorem Ctx.raise_trapva (k : Ctx) (f : Fl) : (k.raise f).trapva = k.trapva := rfl
@[simp] theorem Ctx.raise_trapiw (k : Ctx) (f : Fl) : (k.raise f).trapiw = k.trapiw := rfl
@[simp] theorem Ctx.raise_pend (k : Ctx) (f : Fl) : (k.raise f).pend = k.pend := rfl
@[simp] theorem Ctx.raise_act (k : Ctx) (f : Fl) : (k.raise f).act = k.act := rfl
@[simp] theorem Ctx.raise_storeQ (k : Ctx) (f : Fl) : (k.raise f).storeQ = k.storeQ := rfl
@[simp] theorem Ctx.raise_failedStore (k : Ctx) (f : Fl) : (k.raise f).failedStore = k.failedStore := rfl
@[simp] theorem Ctx.raise_dirtied (k : Ctx) (f : Fl) : (k.raise f).dirtied = k.dirtied := rfl
@[simp] theorem Ctx.raise_wait (k : Ctx) (f : Fl) : (k.raise f).wait = k.wait := rfl
@[simp] theorem Ctx.raise_parkedVa (k : Ctx) (f : Fl) : (k.raise f).parkedVa = k.parkedVa := rfl
@[simp] theorem Ctx.raise_parkedWrite (k : Ctx) (f : Fl) : (k.raise f).parkedWrite = k.parkedWrite := rfl
@[simp] theorem Ctx.raise_parkedNeed (k : Ctx) (f : Fl) : (k.raise f).parkedNeed = k.parkedNeed := rfl
@[simp] theorem Ctx.raise_refilled (k : Ctx) (f : Fl) : (k.raise f).refilled = k.refilled := rfl
@[simp] theorem Ctx.raise_refetched (k : Ctx) (f : Fl) : (k.raise f).refetched = k.refetched := rfl
@[simp] theorem Ctx.raise_issueFrom (k : Ctx) (f : Fl) : (k.raise f).issueFrom = k.issueFrom := rfl
@[simp] theorem Ctx.raise_word (k : Ctx) (f : Fl) : (k.raise f).word = k.word := rfl
@[simp] theorem Ctx.raise_waitsOn (k : Ctx) (f : Fl) : (k.raise f).waitsOn = k.waitsOn := rfl

end Sys2Proof.Machine
end

