-- ==== Sys2Proof/Safety.lean ====
section
/-! DEFINITION. What counts as a good state and a safe run: the invariant the claims use, and what it is for a step to stop. -/

namespace Sys2Proof

open Sys2Proof.Machine

/-- Module memory, host memory and the placed code are in canonical form (log 3). -/
def MemoryOk (s : State) : Prop := s.mem.wf = true ∧ s.hostMem.wf = true ∧ s.code.wf = true

/-- The scratchpads of the listed tiles, and of the tiles a switched-out domain has saved, are in canonical form (log 3). -/
def ScratchOk (s : State) : Prop :=
  (∀ p ∈ s.tiles, p.2.sp.wf = true) ∧ ∀ d ∈ s.domains, ∀ p ∈ d.saved, p.2.sp.wf = true

/-- A step that goes on. -/
def GoesOn (s : State) : Prop := ∃ t, step s = .next t

/-- A run of `n` steps that never stops. -/
def SafeFor (n : Nat) (s : State) : Prop := ∃ t, core.run n s = .next t

end Sys2Proof
end

