-- ==== Sys2Proof/WellFormed.lean ====
section
/-! DEFINITION. Which instructions are well formed (R64, R76: the operands zas accepts), and which steps of other agents name
agents the package has (R6, R295, R438). -/

namespace Sys2Proof

/-- POS and LEN of EXTS, EXTZ and INS (R94). -/
def fieldOk (p l : BitVec 6) : Bool := decide (1 ≤ l.toNat) && decide (p.toNat + l.toNat ≤ 64)

/-- A 5-bit field that names a predicate register (R114). -/
def predOk (r : Reg) : Bool := decide (r.toNat < 8)

/-- An owner GIVE may name (R334). -/
def ownerOk (o : BitVec 5) : Bool := decide (1 ≤ o.toNat) && decide (o.toNat ≤ 3)

/-- A tile of a compute die (R6). -/
def tileOk (t : Nat) : Bool := decide (t < 24576)

/-- The places of an error (R373). -/
def unitOk : ErrUnit → Bool
  | .queueSlot t _ _ | .matchEntry t _ | .counter t _ | .fifoEntry t _ _ | .sequencer t _ | .sacOperation t | .killEntry t _ | .barval t
  | .areaEntry t _ | .tlbEntry t _ | .handlerEntry t _ | .sState t | .serviceBuffer t => tileOk t
  | .context t c => tileOk t && decide (c < 6)
  | .spillEntry t q _ => tileOk t && decide (q < 16)
  | .saved dom u => decide (dom < 4096) && unitOk u
  | .fabricFrame p _ => decide (p < 32)
  | .paneRecord t p => tileOk t && decide (p < 128)
  | .paneData t a => tileOk t && decide (a < 0x80000)
  | .streamState e _ => decide (e < 256)
  | .cacheDirty d _ | .cacheClean d _ => decide (d < 24)
  | .memoryData pa => decide (pa < 2 ^ 52)
  | .dieState d => decide (d < 28)
  | .damagedCol d => decide (d < 4096)
  | .flit _ => true

/-- A memory target outside the compute dies (R244). -/
def targetOk : LinkTarget → Bool
  | .edgeDie d => decide (24 ≤ d) && decide (d < 28)
  | .hostFn f => decide (f < 64)
  | .remote m => decide (m < 512)

/-- Whether an instruction is well formed. -/
def WellFormed (i : Instr) : Bool :=
  match i with
  | .exts _ _ p l | .extz _ _ p l | .ins _ _ p l => fieldOk p l
  | .vcmpEq d _ _ _ | .vcmpNe d _ _ _ | .vcmpLt d _ _ _ | .vcmpLe d _ _ _ | .vcmpLtu d _ _ _ | .vcmpLeu d _ _ _ | .vfcmpEq d _ _ _
  | .vfcmpLt d _ _ _ | .vfcmpLe d _ _ _ | .vfcmpUn d _ _ _ | .kmovFromG d _ => predOk d
  | .kand d a b | .kor d a b | .kxor d a b | .kandn d a b => predOk d && predOk a && predOk b
  | .kmovToG _ a | .kpopc _ a => predOk a
  | .vrnsr d _ _ _ => d.toNat % 2 == 0
  | .send _ _ _ n | .reply _ _ _ n => decide (n.toNat ≤ 16)
  | .tgget _ f | .tgset _ f | .tginc _ _ f => decide (f.toNat ≤ 8)
  | .get t _ _ _ | .put t _ _ _ | .getx t _ _ _ | .putx t _ _ _ | .ratomAdd t _ _ | .ratomCas t _ _ | .ratomSwap t _ _ | .ratomMax t _ _
  | .ratomMin t _ _ | .ratomFxadd t _ _ | .ratomFxrd t _ _ | .ratomSubst t _ _ | .mmrun t _ _ | .sego t _ _ | .sacp t _ _ _
  | .sacc t _ _ _ => t != 0
  | .give _ o => ownerOk o
  | .colourAllocatorAnswer t c | .storeQueuePerform t c | .translationRequest t c | .dupCollapse t c | .copyOnWrite t c
  | .btCopyOnWrite t c | .globalAnswerReturn t c | .btServiceAnswer t c | .engineAnswer t c | .gongRootAnswer t c => tileOk t && decide (c < 6)
  | .messageArrival t _ | .voteTimeout t _ | .matchOverflowService t | .timerTick t | .dispatch t | .barrierJoinArrival t
  | .barrierCompletion t | .tlbFill t _ | .tlbFaultAnswer t _ _ | .rmaPortOperation t | .rmaCompletion t _ | .mmrunAccept t
  | .marimbaBlockAccumulate t | .marimbaRunComplete t | .streamProgramStart t | .sacAccept t | .sacComplete t | .slotPhaseSwitch t
  | .serviceVerdict t | .doubleFault t | .colourKillArrival t _ _ _ _ | .channelRemap t _ | .pendingWrite t => tileOk t
  | .spillRefill t q => tileOk t && decide (q < 16)
  | .streamProgramEnd e => decide (e < 256)
  | .trapDelivery t c => tileOk t && decide (c < 5)
  | .uncorrectableError u => unitOk u
  | .correctedError e => decide (e.die < 28) && decide (e.cls < 8)
  | .colourReclaimSweep dom | .domainKill dom _ | .gongStop dom | .gangSwitch dom | .gangResume dom | .federatedColourKill dom _ _ _
  | .setKeys dom _ _ | .federationRegistration dom _ | .jobLeaves dom => decide (dom < 4096)
  | .dieViral d | .dieFence d | .dieResetInPlace d _ | .avsWindowEnd d _ _ => decide (d < 28)
  | .linkUp x | .linkFailure x => targetOk x
  | .forzenFrame port _ | .linkRetrain port _ => decide (port < 32)
  | .pathDown m | .reservationGrant m _ _ | .reservationIdle m => decide (m < 512)
  | .multicastStore g _ _ | .multicastGroupRegistration g _ _ _ _ _ => decide (g < 256)
  | .federationModuleLoss dom m => decide (dom < 4096) && decide (m < 512)
  | .launchRecord f _ | .rsizeWrite f _ | .rlostWrite f | .debugStop f | .debugResume f | .debugKill f | .hostRegisterWrite f _ _
  | .bindFn f _ => decide (f < 64)
  | .containerLoad f dom _ => decide (f < 64) && decide (dom < 4096)
  | .stackFailure s => decide (s < 16)
  | .singleTileReplay t dom => tileOk t && decide (dom < 4096)
  | .add _ _ _ | .sub _ _ _ | .and _ _ _ | .or _ _ _ | .xor _ _ _ | .sll _ _ _ | .srl _ _ _ | .sra _ _ _ | .slt _ _ _ | .sltu _ _ _
  | .min _ _ _ | .max _ _ _ | .addw _ _ _ | .subw _ _ _ | .mul _ _ _ | .mulh _ _ _ | .mulhu _ _ _ | .div _ _ _ | .divu _ _ _ | .rem _ _ _
  | .remu _ _ _ | .clz _ _ | .ctz _ _ | .popc _ _ | .brev _ _ | .bswap _ _ | .addi _ _ _ | .andi _ _ _ | .ori _ _ _ | .xori _ _ _
  | .slti _ _ _ | .slli _ _ _ | .srli _ _ _ | .srai _ _ _ | .li _ _ | .lim _ _ | .addpc _ _ | .beq _ _ _ | .bne _ _ _ | .blt _ _ _
  | .bge _ _ _ | .bltu _ _ _ | .bgeu _ _ _ | .j _ | .call _ | .jr _ | .callr _ | .sel _ _ _ _ | .ldb _ _ _ | .ldbu _ _ _ | .ldh _ _ _
  | .ldhu _ _ _ | .ldw _ _ _ | .ldwu _ _ _ | .ldd _ _ _ | .stb _ _ _ | .sth _ _ _ | .stw _ _ _ | .std _ _ _ | .fadd _ _ _ _
  | .fsub _ _ _ _ | .fmul _ _ _ _ | .fdiv _ _ _ _ | .fsqrt _ _ _ | .fmin _ _ _ _ | .fmax _ _ _ _ | .feq _ _ _ _ | .flt _ _ _ _
  | .fle _ _ _ _ | .fclass _ _ _ | .fcvtSD _ _ | .fcvtDS _ _ | .fcvtWS _ _ | .fcvtSW _ _ | .fcvtLD _ _ | .fcvtDL _ _ | .fmadd _ _ _ _ _
  | .fmsub _ _ _ _ _ | .fnmadd _ _ _ _ _ | .vadd _ _ _ _ _ _ | .vsub _ _ _ _ _ _ | .vmul _ _ _ _ _ _ | .vmulh _ _ _ _ _ _
  | .vand _ _ _ _ _ _ | .vor _ _ _ _ _ _ | .vxor _ _ _ _ _ _ | .vshl _ _ _ _ _ _ | .vshr _ _ _ _ _ _ | .vsar _ _ _ _ _ _
  | .vmin _ _ _ _ _ _ | .vmax _ _ _ _ _ _ | .vfadd _ _ _ _ _ _ | .vfsub _ _ _ _ _ _ | .vfmul _ _ _ _ _ _ | .vfmin _ _ _ _ _ _
  | .vfmax _ _ _ _ _ _ | .vfexp2 _ _ _ _ | .vflog2 _ _ _ _ | .vfrcp _ _ _ _ | .vfrsq _ _ _ _ | .vfma _ _ _ _ _ | .vfms _ _ _ _ _
  | .vfnma _ _ _ _ _ | .vcvt _ _ _ _ _ | .vqblk _ _ _ _ | .vdqblk _ _ _ _ _ | .vrsum _ _ _ _ | .vrmax _ _ _ _ | .vrmin _ _ _ _
  | .vscan _ _ _ _ | .vbcast _ _ _ _ _ | .vextr _ _ _ _ | .vins _ _ _ _ | .vperm _ _ _ _ | .vslide _ _ _ _ | .vsel _ _ _ _
  | .vaddc _ _ _ _ | .vsubb _ _ _ _ | .vrnsf _ _ _ _ | .vld _ _ _ _ | .vst _ _ _ _ | .vlds _ _ _ _ _ | .vsts _ _ _ _ _ | .vldx _ _ _ _ _
  | .vstx _ _ _ _ _ | .vscatadd _ _ _ _ _ | .fmtx _ _ _ _ _ _ _ | .gets _ _ | .sets _ _ | .brk _ | .fwd _ _ | .endAct | .defer
  | .tgpush _ | .tgpop _ | .tgnew _ | .qget _ _ _ | .qput _ _ _ | .qpoll _ _ | .mrtn | .cntadd _ _ _ | .cntset _ _ _ | .cntget _ _
  | .barjoin _ _ _ | .barval _ _ | .gldb _ _ _ | .gldbu _ _ _ | .gldh _ _ _ | .gldhu _ _ _ | .gldw _ _ _ | .gldwu _ _ _ | .gldd _ _ _
  | .gldv _ _ _ | .gstb _ _ _ | .gsth _ _ _ | .gstw _ _ _ | .gstd _ _ _ | .gatomAdd _ _ _ | .gatomCas _ _ _ | .gatomSwap _ _ _
  | .gatomMax _ _ _ | .gatomMin _ _ _ | .gatomFxadd _ _ | .gatomFxrd _ _ _ | .acq _ _ _ _ | .rel _ _ | .fenceLocal | .fencePut
  | .fenceDie | .fenceModule | .btld _ _ _ | .btswap _ _ _ | .btref _ _ _ | .take _ | .ttest _ _ | .mmstat _ | .slotld _ _ | .sestat _ _
  | .tret _ _ _ | .tlbwr _ _ _ | .tlbinv _ _ _ | .domkill _ | .colkill _ | .gangsw _ _ _ | .logctl _ _ _ | .halt _ | .loopb _ _ _
  | .dropNotice _ | .hostReturnRecord | .readConfig | .setMod _ | .quote _ | .readCert | .readLifetime | .setCap _ | .moduleReset _
  | .powerCapStep _ | .lifetimeCommit _ _ | .notAnInstruction _ | .instructionFetch | .packetHop _ => true

end Sys2Proof
end

