-- ==== Sys2Proof/Tests/Slice0.lean ====
section
/-! SUPPORT. Tests: words of the encodings, ill-formed instructions, small steps with results the manual gives, and states that meet the
hypotheses of the statements. -/

namespace Sys2Proof.Tests

open Sys2Proof Sys2Proof.Machine Sys2Proof.Claims
open Host (Outcome)

set_option maxRecDepth 20000

/-! ### Ill-formed instructions (R64, R65, R6, R295, R438): each check refuses one -/

theorem test_wf_fields : WellFormed (.exts 1 2 0 0) = false ∧ WellFormed (.extz 1 2 63 2) = false ∧ WellFormed (.ins 1 2 2 63) = false
    ∧ WellFormed (.ins 1 2 1 63) = true := by decide
theorem test_wf_predicates : WellFormed (.vcmpEq 8 0 0 0) = false ∧ WellFormed (.vfcmpUn 31 0 0 0) = false ∧ WellFormed (.kmovFromG 8 1) = false
    ∧ WellFormed (.kand 8 0 0) = false ∧ WellFormed (.kor 0 8 0) = false ∧ WellFormed (.kandn 0 0 8) = false ∧ WellFormed (.kmovToG 1 8) = false
    ∧ WellFormed (.kpopc 1 8) = false ∧ WellFormed (.kxor 7 7 7) = true := by decide
theorem test_wf_operands : WellFormed (.vrnsr 3 0 2 0) = false ∧ WellFormed (.send false 1 2 17) = false ∧ WellFormed (.reply true 1 2 17) = false
    ∧ WellFormed (.tgget 1 9) = false ∧ WellFormed (.tginc 1 0 9) = false ∧ WellFormed (.get 0 1 2 3) = false ∧ WellFormed (.mmrun 0 1 2) = false
    ∧ WellFormed (.sacc 0 1 2 3) = false ∧ WellFormed (.give 1 0) = false ∧ WellFormed (.give 1 4) = false
    ∧ WellFormed (.send false 1 2 16) = true := by decide
theorem test_wf_steps : WellFormed (.dispatch 24576) = false ∧ WellFormed (.storeQueuePerform 0 6) = false ∧ WellFormed (.spillRefill 0 16) = false
    ∧ WellFormed (.streamProgramEnd 256) = false ∧ WellFormed (.trapDelivery 0 5) = false ∧ WellFormed (.correctedError ⟨0, 8⟩) = false ∧ WellFormed (.correctedError ⟨28, 0⟩) = false
    ∧ WellFormed (.domainKill 4096 0) = false ∧ WellFormed (.dieFence 28) = false ∧ WellFormed (.linkUp (.edgeDie 23)) = false
    ∧ WellFormed (.linkFailure (.hostFn 64)) = false ∧ WellFormed (.linkUp (.remote 512)) = false ∧ WellFormed (.linkRetrain 32 true) = false
    ∧ WellFormed (.pathDown 512) = false ∧ WellFormed (.multicastStore 256 0 []) = false ∧ WellFormed (.federationModuleLoss 1 512) = false
    ∧ WellFormed (.rlostWrite 64) = false ∧ WellFormed (.stackFailure 16) = false ∧ WellFormed (.singleTileReplay 0 4096) = false
    ∧ WellFormed (.dispatch 24575) = true := by decide
theorem test_wf_errors : WellFormed (.uncorrectableError (.sState 24576)) = false ∧ WellFormed (.uncorrectableError (.context 0 6)) = false
    ∧ WellFormed (.uncorrectableError (.spillEntry 0 16 0)) = false ∧ WellFormed (.uncorrectableError (.paneData 0 0x80000)) = false
    ∧ WellFormed (.uncorrectableError (.streamState 256 0)) = false ∧ WellFormed (.uncorrectableError (.cacheDirty 24 0)) = false
    ∧ WellFormed (.uncorrectableError (.memoryData (2 ^ 52))) = false ∧ WellFormed (.uncorrectableError (.dieState 28)) = false
    ∧ WellFormed (.uncorrectableError (.damagedCol 4096)) = false := by decide
/-- R65: words that no instruction has. -/
theorem test_words_refused : decode 0x00000000#32 = .error .unassignedMajor ∧ decode 0x0400000E#32 = .error .unassignedSelector
    ∧ decode 0x0C000800#32 = .error .nonzeroReserved ∧ decode 0xFFFFFFFF#32 = .error .unassignedMajor := ⟨rfl, rfl, rfl, rfl⟩

/-- Four conjuncts proved together, then the rest. -/
theorem and4 {a b c d e : Prop} (h : a ∧ b ∧ c ∧ d) (r : e) : a ∧ b ∧ c ∧ d ∧ e := ⟨h.1, h.2.1, h.2.2.1, h.2.2.2, r⟩
/-! ### Words written out from the encodings (R62 to R66) -/

/-- Words of R90. -/
theorem test_words_alu_1 :
    decode 0x04A99000#32 = .ok (.add 5 9 18)
      ∧ decode 0x04A99001#32 = .ok (.sub 5 9 18)
      ∧ decode 0x04A99002#32 = .ok (.and 5 9 18)
      ∧ decode 0x04A99003#32 = .ok (.or 5 9 18)
      ∧ decode 0x04A99004#32 = .ok (.xor 5 9 18)
      ∧ decode 0x04A99005#32 = .ok (.sll 5 9 18)
      ∧ decode 0x04A99006#32 = .ok (.srl 5 9 18)
      ∧ decode 0x04A99007#32 = .ok (.sra 5 9 18)
      ∧ decode 0x04A99008#32 = .ok (.slt 5 9 18)
      ∧ decode 0x04A99009#32 = .ok (.sltu 5 9 18)
      ∧ decode 0x04A9900A#32 = .ok (.min 5 9 18)
      ∧ decode 0x04A9900B#32 = .ok (.max 5 9 18) :=
  ⟨rfl, rfl, rfl, rfl, rfl, rfl, rfl, rfl, rfl, rfl, rfl, rfl⟩

/-- Words of R90. -/
theorem test_words_alu_2 :
    decode 0x04A9900C#32 = .ok (.addw 5 9 18)
      ∧ decode 0x04A9900D#32 = .ok (.subw 5 9 18) :=
  ⟨rfl, rfl⟩

/-- Words of R91. -/
theorem test_words_muldiv :
    decode 0x08A99000#32 = .ok (.mul 5 9 18)
      ∧ decode 0x08A99001#32 = .ok (.mulh 5 9 18)
      ∧ decode 0x08A99002#32 = .ok (.mulhu 5 9 18)
      ∧ decode 0x08A99003#32 = .ok (.div 5 9 18)
      ∧ decode 0x08A99004#32 = .ok (.divu 5 9 18)
      ∧ decode 0x08A99005#32 = .ok (.rem 5 9 18)
      ∧ decode 0x08A99006#32 = .ok (.remu 5 9 18) :=
  ⟨rfl, rfl, rfl, rfl, rfl, rfl, rfl⟩

/-- Words of R92. -/
theorem test_words_bit :
    decode 0x0CA90000#32 = .ok (.clz 5 9)
      ∧ decode 0x0CA90001#32 = .ok (.ctz 5 9)
      ∧ decode 0x0CA90002#32 = .ok (.popc 5 9)
      ∧ decode 0x0CA90003#32 = .ok (.brev 5 9)
      ∧ decode 0x0CA90004#32 = .ok (.bswap 5 9) :=
  ⟨rfl, rfl, rfl, rfl, rfl⟩

/-- Words of R94. -/
theorem test_words_shift_field :
    decode 0x28A93400#32 = .ok (.slli 5 9 13)
      ∧ decode 0x28A93401#32 = .ok (.srli 5 9 13)
      ∧ decode 0x28A93402#32 = .ok (.srai 5 9 13)
      ∧ decode 0x28A93553#32 = .ok (.exts 5 9 13 21)
      ∧ decode 0x28A93554#32 = .ok (.extz 5 9 13 21)
      ∧ decode 0x28A93555#32 = .ok (.ins 5 9 13 21) :=
  ⟨rfl, rfl, rfl, rfl, rfl, rfl⟩

/-- Words of R99. -/
theorem test_words_jumpr :
    decode 0x58050000#32 = .ok (.jr 5)
      ∧ decode 0x58050001#32 = .ok (.callr 5) :=
  ⟨rfl, rfl⟩

/-- Words of R102. -/
theorem test_words_ld :
    decode 0x5CA91FF8#32 = .ok (.ldb 5 9 8184)
      ∧ decode 0x5CA93FF8#32 = .ok (.ldbu 5 9 8184)
      ∧ decode 0x5CA95FF8#32 = .ok (.ldh 5 9 8184)
      ∧ decode 0x5CA97FF8#32 = .ok (.ldhu 5 9 8184)
      ∧ decode 0x5CA99FF8#32 = .ok (.ldw 5 9 8184)
      ∧ decode 0x5CA9BFF8#32 = .ok (.ldwu 5 9 8184)
      ∧ decode 0x5CA9DFF8#32 = .ok (.ldd 5 9 8184) :=
  ⟨rfl, rfl, rfl, rfl, rfl, rfl, rfl⟩

/-- Words of R103. -/
theorem test_words_st :
    decode 0x60A91FF8#32 = .ok (.stb 5 9 8184)
      ∧ decode 0x60A93FF8#32 = .ok (.sth 5 9 8184)
      ∧ decode 0x60A95FF8#32 = .ok (.stw 5 9 8184)
      ∧ decode 0x60A97FF8#32 = .ok (.std 5 9 8184) :=
  ⟨rfl, rfl, rfl, rfl⟩

/-- Words of R266, R267. -/
theorem test_words_gld :
    decode 0x64A91FF8#32 = .ok (.gldb 5 9 8184)
      ∧ decode 0x64A93FF8#32 = .ok (.gldbu 5 9 8184)
      ∧ decode 0x64A95FF8#32 = .ok (.gldh 5 9 8184)
      ∧ decode 0x64A97FF8#32 = .ok (.gldhu 5 9 8184)
      ∧ decode 0x64A99FF8#32 = .ok (.gldw 5 9 8184)
      ∧ decode 0x64A9BFF8#32 = .ok (.gldwu 5 9 8184)
      ∧ decode 0x64A9DFF8#32 = .ok (.gldd 5 9 8184)
      ∧ decode 0x64A9FFF8#32 = .ok (.gldv 5 9 8184) :=
  ⟨rfl, rfl, rfl, rfl, rfl, rfl, rfl, rfl⟩

/-- Words of R268. -/
theorem test_words_gst :
    decode 0x68A91FF8#32 = .ok (.gstb 5 9 8184)
      ∧ decode 0x68A93FF8#32 = .ok (.gsth 5 9 8184)
      ∧ decode 0x68A95FF8#32 = .ok (.gstw 5 9 8184)
      ∧ decode 0x68A97FF8#32 = .ok (.gstd 5 9 8184) :=
  ⟨rfl, rfl, rfl, rfl⟩

/-- Words of R395. -/
theorem test_words_sys :
    decode 0x70AB4A00#32 = .ok (.gets 5 1445)
      ∧ decode 0x70AB4A01#32 = .ok (.sets 5 1445)
      ∧ decode 0x700B4A02#32 = .ok (.brk 1445) :=
  ⟨rfl, rfl, rfl⟩

/-- Words of R106, R107, R108, R109, R110. -/
theorem test_words_fp_1 :
    decode 0x78A99001#32 = .ok (.fadd 5 9 18 .d)
      ∧ decode 0x78A99003#32 = .ok (.fsub 5 9 18 .d)
      ∧ decode 0x78A99005#32 = .ok (.fmul 5 9 18 .d)
      ∧ decode 0x78A99007#32 = .ok (.fdiv 5 9 18 .d)
      ∧ decode 0x78A90009#32 = .ok (.fsqrt 5 9 .d)
      ∧ decode 0x78A9900B#32 = .ok (.fmin 5 9 18 .d)
      ∧ decode 0x78A9900D#32 = .ok (.fmax 5 9 18 .d)
      ∧ decode 0x78A9900F#32 = .ok (.feq 5 9 18 .d)
      ∧ decode 0x78A99011#32 = .ok (.flt 5 9 18 .d)
      ∧ decode 0x78A99013#32 = .ok (.fle 5 9 18 .d)
      ∧ decode 0x78A90015#32 = .ok (.fclass 5 9 .d)
      ∧ decode 0x78A90020#32 = .ok (.fcvtSD 5 9) :=
  ⟨rfl, rfl, rfl, rfl, rfl, rfl, rfl, rfl, rfl, rfl, rfl, rfl⟩

/-- Words of R110. -/
theorem test_words_fp_2 :
    decode 0x78A90021#32 = .ok (.fcvtDS 5 9)
      ∧ decode 0x78A90022#32 = .ok (.fcvtWS 5 9)
      ∧ decode 0x78A90023#32 = .ok (.fcvtSW 5 9)
      ∧ decode 0x78A90024#32 = .ok (.fcvtLD 5 9)
      ∧ decode 0x78A90025#32 = .ok (.fcvtDL 5 9) :=
  ⟨rfl, rfl, rfl, rfl, rfl⟩

/-- Words of R111. -/
theorem test_words_fma :
    decode 0x7CA996C1#32 = .ok (.fmadd 5 9 18 27 .d)
      ∧ decode 0x7CA996C3#32 = .ok (.fmsub 5 9 18 27 .d)
      ∧ decode 0x7CA996C5#32 = .ok (.fnmadd 5 9 18 27 .d) :=
  ⟨rfl, rfl, rfl⟩

/-- Words of R116. -/
theorem test_words_valu :
    decode 0x80A99360#32 = .ok (.vadd 5 9 18 3 .w16 true)
      ∧ decode 0x80A99361#32 = .ok (.vsub 5 9 18 3 .w16 true)
      ∧ decode 0x80A99362#32 = .ok (.vmul 5 9 18 3 .w16 true)
      ∧ decode 0x80A99363#32 = .ok (.vmulh 5 9 18 3 .w16 true)
      ∧ decode 0x80A99364#32 = .ok (.vand 5 9 18 3 .w16 true)
      ∧ decode 0x80A99365#32 = .ok (.vor 5 9 18 3 .w16 true)
      ∧ decode 0x80A99366#32 = .ok (.vxor 5 9 18 3 .w16 true)
      ∧ decode 0x80A99367#32 = .ok (.vshl 5 9 18 3 .w16 true)
      ∧ decode 0x80A99368#32 = .ok (.vshr 5 9 18 3 .w16 true)
      ∧ decode 0x80A99369#32 = .ok (.vsar 5 9 18 3 .w16 true)
      ∧ decode 0x80A9936A#32 = .ok (.vmin 5 9 18 3 .w16 true)
      ∧ decode 0x80A9936B#32 = .ok (.vmax 5 9 18 3 .w16 true) :=
  ⟨rfl, rfl, rfl, rfl, rfl, rfl, rfl, rfl, rfl, rfl, rfl, rfl⟩

/-- Words of R43, R117. -/
theorem test_words_vfp :
    decode 0x84A99360#32 = .ok (.vfadd 5 9 18 3 .bf16 true)
      ∧ decode 0x84A99361#32 = .ok (.vfsub 5 9 18 3 .bf16 true)
      ∧ decode 0x84A99362#32 = .ok (.vfmul 5 9 18 3 .bf16 true)
      ∧ decode 0x84A99363#32 = .ok (.vfmin 5 9 18 3 .bf16 true)
      ∧ decode 0x84A99364#32 = .ok (.vfmax 5 9 18 3 .bf16 true)
      ∧ decode 0x84A90345#32 = .ok (.vfexp2 5 9 3 .bf16)
      ∧ decode 0x84A90346#32 = .ok (.vflog2 5 9 3 .bf16)
      ∧ decode 0x84A90347#32 = .ok (.vfrcp 5 9 3 .bf16)
      ∧ decode 0x84A90348#32 = .ok (.vfrsq 5 9 3 .bf16) :=
  ⟨rfl, rfl, rfl, rfl, rfl, rfl, rfl, rfl, rfl⟩

/-- Words of R118. -/
theorem test_words_vfma :
    decode 0x88A996D8#32 = .ok (.vfma 5 9 18 27 3)
      ∧ decode 0x88A996D9#32 = .ok (.vfms 5 9 18 27 3)
      ∧ decode 0x88A996DA#32 = .ok (.vfnma 5 9 18 27 3) :=
  ⟨rfl, rfl, rfl⟩

/-- Words of R120, R121, R122. -/
theorem test_words_vcvt :
    decode 0x8CA93300#32 = .ok (.vcvt 5 9 true 2 3)
      ∧ decode 0x8CA91301#32 = .ok (.vqblk 5 9 2 3)
      ∧ decode 0x8CA93302#32 = .ok (.vdqblk 5 9 true 2 3) :=
  ⟨rfl, rfl, rfl⟩

/-- Words of R123. -/
theorem test_words_vred :
    decode 0x90A90340#32 = .ok (.vrsum 5 9 3 .f32)
      ∧ decode 0x90A90341#32 = .ok (.vrmax 5 9 3 .f32)
      ∧ decode 0x90A90342#32 = .ok (.vrmin 5 9 3 .f32)
      ∧ decode 0x90A90343#32 = .ok (.vscan 5 9 3 .f32) :=
  ⟨rfl, rfl, rfl, rfl⟩

/-- Words of R125. -/
theorem test_words_vperm :
    decode 0x94A93B00#32 = .ok (.vbcast 5 9 true .w64 3)
      ∧ decode 0x94A99301#32 = .ok (.vextr 5 9 18 .w64)
      ∧ decode 0x94A99302#32 = .ok (.vins 5 9 18 .w64)
      ∧ decode 0x94A99303#32 = .ok (.vperm 5 9 18 3)
      ∧ decode 0x94A9AB04#32 = .ok (.vslide 5 9 21 3)
      ∧ decode 0x94A99305#32 = .ok (.vsel 5 9 18 3) :=
  ⟨rfl, rfl, rfl, rfl, rfl, rfl⟩

/-- Words of R127. -/
theorem test_words_vmask_1 :
    decode 0x98A99300#32 = .ok (.vcmpEq 5 9 18 3)
      ∧ decode 0x98A99301#32 = .ok (.vcmpNe 5 9 18 3)
      ∧ decode 0x98A99302#32 = .ok (.vcmpLt 5 9 18 3)
      ∧ decode 0x98A99303#32 = .ok (.vcmpLe 5 9 18 3)
      ∧ decode 0x98A99304#32 = .ok (.vcmpLtu 5 9 18 3)
      ∧ decode 0x98A99305#32 = .ok (.vcmpLeu 5 9 18 3)
      ∧ decode 0x98A99308#32 = .ok (.vfcmpEq 5 9 18 3)
      ∧ decode 0x98A99309#32 = .ok (.vfcmpLt 5 9 18 3)
      ∧ decode 0x98A9930A#32 = .ok (.vfcmpLe 5 9 18 3)
      ∧ decode 0x98A9930B#32 = .ok (.vfcmpUn 5 9 18 3)
      ∧ decode 0x98C12010#32 = .ok (.kand 6 1 4)
      ∧ decode 0x98C12011#32 = .ok (.kor 6 1 4) :=
  ⟨rfl, rfl, rfl, rfl, rfl, rfl, rfl, rfl, rfl, rfl, rfl, rfl⟩

/-- Words of R127. -/
theorem test_words_vmask_2 :
    decode 0x98C12012#32 = .ok (.kxor 6 1 4)
      ∧ decode 0x98C12013#32 = .ok (.kandn 6 1 4)
      ∧ decode 0x98A90018#32 = .ok (.kmovToG 5 9)
      ∧ decode 0x98A90019#32 = .ok (.kmovFromG 5 9)
      ∧ decode 0x98A90020#32 = .ok (.kpopc 5 9) :=
  ⟨rfl, rfl, rfl, rfl, rfl⟩

/-- Words of R128, R129, R131. -/
theorem test_words_vwide :
    decode 0x9CA99300#32 = .ok (.vaddc 5 9 18 3)
      ∧ decode 0x9CA99301#32 = .ok (.vsubb 5 9 18 3)
      ∧ decode 0x9CA99302#32 = .ok (.vrnsf 5 9 18 3)
      ∧ decode 0x9CA99303#32 = .ok (.vrnsr 5 9 18 3) :=
  ⟨rfl, rfl, rfl, rfl⟩

/-- Words of R135, R138. -/
theorem test_words_vmem :
    decode 0xA0A90315#32 = .ok (.vld 5 9 3 21)
      ∧ decode 0xA0A90335#32 = .ok (.vst 5 9 3 21)
      ∧ decode 0xA0A99355#32 = .ok (.vlds 5 9 18 3 21)
      ∧ decode 0xA0A99375#32 = .ok (.vsts 5 9 18 3 21)
      ∧ decode 0xA0A99395#32 = .ok (.vldx 5 9 18 3 21)
      ∧ decode 0xA0A993B5#32 = .ok (.vstx 5 9 18 3 21)
      ∧ decode 0xA0A993D0#32 = .ok (.vscatadd 5 9 18 3 .f32) :=
  ⟨rfl, rfl, rfl, rfl, rfl, rfl, rfl⟩

/-- Words of R187, R190, R191, R192. -/
theorem test_words_msg :
    decode 0xA4299540#32 = .ok (.send true 9 18 21)
      ∧ decode 0xA4299541#32 = .ok (.reply true 9 18 21)
      ∧ decode 0xA4050042#32 = .ok (.fwd 5 true)
      ∧ decode 0xA4000003#32 = .ok (.endAct)
      ∧ decode 0xA4000004#32 = .ok (.defer) :=
  ⟨rfl, rfl, rfl, rfl, rfl⟩

/-- Words of R193, R194. -/
theorem test_words_tag :
    decode 0xA8A00540#32 = .ok (.tgget 5 21)
      ∧ decode 0xA8050541#32 = .ok (.tgset 5 21)
      ∧ decode 0xA805AD42#32 = .ok (.tginc 5 21 21)
      ∧ decode 0xA8050003#32 = .ok (.tgpush 5)
      ∧ decode 0xA8A00004#32 = .ok (.tgpop 5)
      ∧ decode 0xA8A00005#32 = .ok (.tgnew 5) :=
  ⟨rfl, rfl, rfl, rfl, rfl, rfl⟩

/-- Words of R195, R196, R197, R198, R200, R201, R202. -/
theorem test_words_que :
    decode 0xACA0A880#32 = .ok (.qget 5 21 2)
      ∧ decode 0xAC050181#32 = .ok (.qput 5 true 2)
      ∧ decode 0xACA00082#32 = .ok (.qpoll 5 2)
      ∧ decode 0xAC000003#32 = .ok (.mrtn)
      ∧ decode 0xAC054D44#32 = .ok (.cntadd 5 9 21)
      ∧ decode 0xAC054C85#32 = .ok (.cntset 5 9 18)
      ∧ decode 0xACA90006#32 = .ok (.cntget 5 9) :=
  ⟨rfl, rfl, rfl, rfl, rfl, rfl, rfl⟩

/-- Words of R58, R59, R261, R270, R273, R274. -/
theorem test_words_mem_1 :
    decode 0xB4A99003#32 = .ok (.gatomAdd 5 9 18)
      ∧ decode 0xB4A99043#32 = .ok (.gatomCas 5 9 18)
      ∧ decode 0xB4A99083#32 = .ok (.gatomSwap 5 9 18)
      ∧ decode 0xB4A990C3#32 = .ok (.gatomMax 5 9 18)
      ∧ decode 0xB4A99103#32 = .ok (.gatomMin 5 9 18)
      ∧ decode 0xB4054943#32 = .ok (.gatomFxadd 5 9)
      ∧ decode 0xB4A90983#32 = .ok (.gatomFxrd 5 9 .d)
      ∧ decode 0xB4A996C0#32 = .ok (.acq 5 9 18 27)
      ∧ decode 0xB4054801#32 = .ok (.rel 5 9)
      ∧ decode 0xB4000002#32 = .ok (.fenceLocal)
      ∧ decode 0xB4000042#32 = .ok (.fencePut)
      ∧ decode 0xB4000082#32 = .ok (.fenceDie) :=
  ⟨rfl, rfl, rfl, rfl, rfl, rfl, rfl, rfl, rfl, rfl, rfl, rfl⟩

/-- Words of R261. -/
theorem test_words_mem_2 :
    decode 0xB40000C2#32 = .ok (.fenceModule) :=
  rfl

/-- Words of R330, R331, R332. -/
theorem test_words_rma :
    decode 0xB8A996C0#32 = .ok (.get 5 9 18 27)
      ∧ decode 0xB8A996C1#32 = .ok (.put 5 9 18 27)
      ∧ decode 0xB8A996C2#32 = .ok (.getx 5 9 18 27)
      ∧ decode 0xB8A996C3#32 = .ok (.putx 5 9 18 27)
      ∧ decode 0xB8A99004#32 = .ok (.ratomAdd 5 9 18)
      ∧ decode 0xB8A99044#32 = .ok (.ratomCas 5 9 18)
      ∧ decode 0xB8A99084#32 = .ok (.ratomSwap 5 9 18)
      ∧ decode 0xB8A990C4#32 = .ok (.ratomMax 5 9 18)
      ∧ decode 0xB8A99104#32 = .ok (.ratomMin 5 9 18)
      ∧ decode 0xB8A99144#32 = .ok (.ratomFxadd 5 9 18)
      ∧ decode 0xB8A99184#32 = .ok (.ratomFxrd 5 9 18)
      ∧ decode 0xB8A991C4#32 = .ok (.ratomSubst 5 9 18) :=
  ⟨rfl, rfl, rfl, rfl, rfl, rfl, rfl, rfl, rfl, rfl, rfl, rfl⟩

/-- Words of R334, R335, R336. -/
theorem test_words_pane :
    decode 0xBC050540#32 = .ok (.give 5 21)
      ∧ decode 0xBC050001#32 = .ok (.take 5)
      ∧ decode 0xBCA90002#32 = .ok (.ttest 5 9) :=
  ⟨rfl, rfl, rfl⟩

/-- Words of R338, R339, R343. -/
theorem test_words_mm :
    decode 0xC0A99000#32 = .ok (.mmrun 5 9 18)
      ∧ decode 0xC0A00001#32 = .ok (.mmstat 5)
      ∧ decode 0xC0054802#32 = .ok (.slotld 5 9) :=
  ⟨rfl, rfl, rfl⟩

/-- Words of R344, R348. -/
theorem test_words_se :
    decode 0xC4A99000#32 = .ok (.sego 5 9 18)
      ∧ decode 0xC4A90001#32 = .ok (.sestat 5 9) :=
  ⟨rfl, rfl⟩

/-- Words of R322, R324. -/
theorem test_words_sac :
    decode 0xC8A996C0#32 = .ok (.sacp 5 9 18 27)
      ∧ decode 0xC8A996C1#32 = .ok (.sacc 5 9 18 27) :=
  ⟨rfl, rfl⟩

/-- Words of R278, R279, R280. -/
theorem test_words_bt :
    decode 0xCCA99000#32 = .ok (.btld 5 9 18)
      ∧ decode 0xCCA99001#32 = .ok (.btswap 5 9 18)
      ∧ decode 0xCCA99002#32 = .ok (.btref 5 9 18) :=
  ⟨rfl, rfl, rfl⟩

/-- Words of R204, R207. -/
theorem test_words_bar :
    decode 0xD0054C80#32 = .ok (.barjoin 5 9 18)
      ∧ decode 0xD0A002C1#32 = .ok (.barval 5 11) :=
  ⟨rfl, rfl⟩

/-- Words of R399, R400, R401, R402, R403, R404, R405, R406. -/
theorem test_words_priv :
    decode 0xD4A99000#32 = .ok (.tret 5 9 18)
      ∧ decode 0xD4A99001#32 = .ok (.tlbwr 5 9 18)
      ∧ decode 0xD4A99002#32 = .ok (.tlbinv 5 9 18)
      ∧ decode 0xD4050003#32 = .ok (.domkill 5)
      ∧ decode 0xD4050004#32 = .ok (.colkill 5)
      ∧ decode 0xD4A99005#32 = .ok (.gangsw 5 9 18)
      ∧ decode 0xD4A99006#32 = .ok (.logctl 5 9 18)
      ∧ decode 0xD4050007#32 = .ok (.halt 5)
      ∧ decode 0xD4720008#32 = .ok (.loopb true true 18) :=
  ⟨rfl, rfl, rfl, rfl, rfl, rfl, rfl, rfl, rfl⟩

/-- Words of R69. -/
theorem test_words_fmtx :
    decode 0xDAEED760#32 = .ok (.fmtx 11 11 5 2 5 true 11) :=
  rfl

/-- Words of R93, R95, R97. -/
theorem test_words_single_1 :
    decode 0x10A9FFF8#32 = .ok (.addi 5 9 65528)
      ∧ decode 0x14A9FFF8#32 = .ok (.andi 5 9 65528)
      ∧ decode 0x18A9FFF8#32 = .ok (.ori 5 9 65528)
      ∧ decode 0x1CA9FFF8#32 = .ok (.xori 5 9 65528)
      ∧ decode 0x20A9FFF8#32 = .ok (.slti 5 9 65528)
      ∧ decode 0x2CB3C4D5#32 = .ok (.li 5 0x13c4d5)
      ∧ decode 0x30B3C4D5#32 = .ok (.lim 5 0x13c4d5)
      ∧ decode 0x34B3C4D5#32 = .ok (.addpc 5 0x13c4d5)
      ∧ decode 0x38A9FFF8#32 = .ok (.beq 5 9 65528)
      ∧ decode 0x3CA9FFF8#32 = .ok (.bne 5 9 65528)
      ∧ decode 0x40A9FFF8#32 = .ok (.blt 5 9 65528)
      ∧ decode 0x44A9FFF8#32 = .ok (.bge 5 9 65528) :=
  ⟨rfl, rfl, rfl, rfl, rfl, rfl, rfl, rfl, rfl, rfl, rfl, rfl⟩

/-- Words of R97, R98, R101. -/
theorem test_words_single_2 :
    decode 0x48A9FFF8#32 = .ok (.bltu 5 9 65528)
      ∧ decode 0x4CA9FFF8#32 = .ok (.bgeu 5 9 65528)
      ∧ decode 0x53FFFFF6#32 = .ok (.j 0x3fffff6)
      ∧ decode 0x57FFFFF6#32 = .ok (.call 0x3fffff6)
      ∧ decode 0x74A996C0#32 = .ok (.sel 5 9 18 27) :=
  ⟨rfl, rfl, rfl, rfl, rfl⟩

/-! ### Words the manual prints (R76, R96, R104, R111, R128, R133, R138, R189, R193 to R196) -/

theorem test_printed_words :
    decode 0x2CA48D15#32 = .ok (.li 5 0x48D15) ∧ decode 0x30B3C4D5#32 = .ok (.lim 5 0x13C4D5) ∧ decode 0x288520C4#32 = .ok (.extz 4 5 8 12)
      ∧ decode 0x40A6FFFD#32 = .ok (.blt 5 6 0xFFFD) ∧ decode 0x54000800#32 = .ok (.call 0x800) ∧ decode 0x581F0000#32 = .ok (.jr 31)
      ∧ decode 0x748531C0#32 = .ok (.sel 4 5 6 7) ∧ decode 0x78853001#32 = .ok (.fadd 4 5 6 .d) ∧ decode 0x79090008#32 = .ok (.fsqrt 8 9 .s)
      ∧ decode 0x7CE84A80#32 = .ok (.fmadd 7 8 9 10 .s) ∧ decode 0x80221A60#32 = .ok (.vadd 1 2 3 2 .w16 true)
      ∧ decode 0x8CA41000#32 = .ok (.vcvt 5 4 false 2 0) :=
  ⟨rfl, rfl, rfl, rfl, rfl, rfl, rfl, rfl, rfl, rfl, rfl, rfl⟩
theorem test_printed_words_more :
    decode 0x98631812#32 = .ok (.kxor 3 3 3) ∧ decode 0x9CE12300#32 = .ok (.vaddc 7 1 4 3) ∧ decode 0x9CC21903#32 = .ok (.vrnsr 6 2 3 1)
      ∧ decode 0xA02411D0#32 = .ok (.vscatadd 1 4 2 1 .f32) ∧ decode 0xA40530C0#32 = .ok (.send false 5 6 3)
      ∧ decode 0xA4241081#32 = .ok (.reply true 4 2 2) ∧ decode 0xA8000A02#32 = .ok (.tginc 0 1 8) ∧ decode 0xA8E00005#32 = .ok (.tgnew 7)
      ∧ decode 0xAC802840#32 = .ok (.qget 4 5 1) ∧ decode 0xAC0701C1#32 = .ok (.qput 7 true 3) ∧ decode 0x68856010#32 = .ok (.gstd 4 5 16)
      ∧ decode 0x6466E080#32 = .ok (.gldv 3 6 128) :=
  ⟨rfl, rfl, rfl, rfl, rfl, rfl, rfl, rfl, rfl, rfl, rfl, rfl⟩
theorem test_printed_words_rest :
    decode 0xB4853003#32 = .ok (.gatomAdd 4 5 6) ∧ decode 0xB4084943#32 = .ok (.gatomFxadd 8 9) ∧ decode 0xB4850983#32 = .ok (.gatomFxrd 4 5 .d)
      ∧ decode 0xB48531C0#32 = .ok (.acq 4 5 6 7) ∧ decode 0xB4053001#32 = .ok (.rel 5 6) ∧ decode 0xBC050080#32 = .ok (.give 5 2)
      ∧ decode 0xBC050001#32 = .ok (.take 5) ∧ decode 0xBC890002#32 = .ok (.ttest 4 9) ∧ decode 0x70000A02#32 = .ok (.brk 5)
      ∧ decode 0xD8CC2200#32 = .ok (.fmtx 3 3 0 1 0 true 0) ∧ decode 0xAC000003#32 = .ok .mrtn :=
  ⟨rfl, rfl, rfl, rfl, rfl, rfl, rfl, rfl, rfl, rfl, rfl⟩

/-! ### Small states -/

/-- L0 of tile 0 runs at 0x1000; the rest is at reset. -/
def st (f : Ctx → Ctx) (h : Tile → Tile := id) : State :=
  ({ State.reset with phase := .issue } : State).onTile 0 fun x => (h x).onCtx 0 fun k => f { k with status := .running, pc := 0x1000 }
/-- S of tile 0 runs at 0x7C000. -/
def fw (f : Ctx → Ctx) (h : Tile → Tile := id) : State :=
  ({ State.reset with phase := .issue, who := 5 } : State).onTile 0 fun x => (h x).onCtx 5 fun k => f { k with status := .running, pc := 0x7C000 }
/-- Whether an instruction gives a next state of which a condition holds. -/
def runs (i : Instr) (s : State) (p : State → Bool) : Bool := match exec i s with | .next t => p t | _ => false
/-- A context with general registers set. -/
def regs (l : List (Reg × Word)) (k : Ctx) : Ctx := l.foldl (fun k p => k.setG p.1 p.2) k
/-- Whether the issuing context trapped with a cause and an address. -/
def trapped (c : Cause) (va : Word) (t : State) : Bool := t.me.status == .trapped && bits t.me.trapc 4 0 == c.code && t.me.trapva == va
/-- The value a write to come will leave in a general register. -/
def coming (t : State) (r : Reg) : Option Word :=
  (t.me.pend.find? fun p => p.dst == .g r).bind fun p => p.val.map (·.setWidth 64)
/-- The vector a write to come will leave in a vector register. -/
def comingV (t : State) (r : Reg) : VReg := (((t.me.pend.find? fun p => p.dst == .v r).bind (·.val))).getD 0
/-- A vector of 32-bit lanes, the lowest first. -/
def lanes32 (l : List Nat) : VReg := BitVec.ofNat 1024 (l.foldr (fun x n => x % 2 ^ 32 + 2 ^ 32 * n) 0)

/-! ### Scalar instructions -/

set_option exponentiation.threshold 2000

theorem test_add_wraps : runs (.add 3 1 2) (st (regs [(1, BitVec.allOnes 64), (2, 2)])) (fun t => t.me.g 3 == 1 && t.me.pc == 0x1004) = true := by decide
theorem test_sub_source_is_destination : runs (.sub 1 1 1) (st (regs [(1, 5)])) (fun t => t.me.g 1 == 0) = true := by decide
/-- R11: g0 discards. -/
theorem test_add_g0 : runs (.add 0 1 1) (st (regs [(1, 5)])) (fun t => t.me.g 0 == 0 && t.me.icount == 1) = true := by decide
theorem test_slt_signed : runs (.slt 3 1 2) (st (regs [(1, BitVec.allOnes 64), (2, 0)])) (fun t => t.me.g 3 == 1) = true
    ∧ runs (.sltu 3 1 2) (st (regs [(1, BitVec.allOnes 64), (2, 0)])) (fun t => t.me.g 3 == 0) = true := by decide
theorem test_addw_extends : runs (.addw 3 1 2) (st (regs [(1, 0x7FFFFFFF), (2, 1)])) (fun t => t.me.g 3 == 0xFFFFFFFF80000000) = true := by decide
/-- R111's example: the most negative number by −1, and a zero divisor. -/
theorem test_div_corners :
    runs (.div 4 5 6) (st (regs [(5, 0x8000000000000000), (6, BitVec.allOnes 64)])) (fun t => coming t 4 == some 0x8000000000000000) = true
      ∧ runs (.remu 4 5 0) (st (regs [(5, 77)])) (fun t => coming t 4 == some 77) = true := by decide
theorem test_bit_counts : runs (.clz 3 1) (st (regs [(1, 1)])) (fun t => t.me.g 3 == 63) = true
    ∧ runs (.ctz 3 0) (st id) (fun t => t.me.g 3 == 64) = true ∧ runs (.bswap 3 1) (st (regs [(1, 1)])) (fun t => t.me.g 3 == 0x0100000000000000) = true
    ∧ runs (.brev 3 1) (st (regs [(1, 1)])) (fun t => t.me.g 3 == 0x8000000000000000) = true := by decide
/-- R96's example: the last two steps. -/
theorem test_lim : runs (.lim 5 0x13C4D5) (st (regs [(5, 0x48D15)])) (fun t => t.me.g 5 == 0x91A2B3C4D5) = true
    ∧ runs (.lim 5 0x1CDEF0) (st (regs [(5, 0x91A2B3C4D5)])) (fun t => t.me.g 5 == 0x123456789ABCDEF0) = true := by decide
theorem test_li_negative : runs (.li 5 0x1FFFFF) (st id) (fun t => t.me.g 5 == BitVec.allOnes 64) = true := by decide
theorem test_fields : runs (.ins 4 5 8 4) (st (regs [(4, BitVec.allOnes 64), (5, 0)])) (fun t => t.me.g 4 == 0xFFFFFFFFFFFFF0FF) = true
    ∧ runs (.exts 4 5 4 4) (st (regs [(5, 0x80)])) (fun t => t.me.g 4 == 0xFFFFFFFFFFFFFFF8) = true
    ∧ runs (.extz 4 5 60 5) (st id) (trapped .illegalInstruction 0) = true := by decide
/-- R76's example, from 0x1000: eight words back. -/
theorem test_bne_back : runs (.bne 7 0 0xFFF8) (st (regs [(7, 1)])) (fun t => t.me.pc == 0xFE0) = true
    ∧ runs (.bne 7 0 0xFFF8) (st id) (fun t => t.me.pc == 0x1004) = true := by decide
/-- R99: CALLR g31 jumps to the old link value; a target of no multiple of 4 traps. -/
theorem test_callr_link : runs (.callr 31) (st (regs [(31, 0x2000)])) (fun t => t.me.pc == 0x2000 && t.me.g 31 == 0x1004) = true
    ∧ runs (.callr 5) (st (regs [(5, 0x2002)])) (fun t => trapped .misaligned 0x2002 t && t.me.g 31 == 0) = true := by decide
/-- R18's example. -/
theorem test_scratch_bounds : runs (.ldw 4 5 4) (st (regs [(5, 0x7BFFC)])) (trapped .scratchBounds 0x7C000) = true
    ∧ runs (.ldw 4 5 4) (st (regs [(5, 0x7BFFE)])) (trapped .scratchBounds 0x7C002) = true
    ∧ runs (.ldw 4 5 4) (fw (regs [(5, 0x7BFFC)])) (fun t => coming t 4 == some 0) = true := by decide
/-- R104's example: the store, the halfword it leaves, and the misaligned word. -/
theorem test_std_ldhu :
    runs (.std 4 5 0x1FF8) (st (regs [(4, 0x1122334455667788), (5, 0x30008)])) (fun t =>
      t.my.sp.le 0x30000 8 == 0x1122334455667788 && runs (.ldhu 6 5 0x1FFA) t fun u => coming u 6 == some 0x5566) = true
    ∧ runs (.ldw 6 5 0x1FFA) (st (regs [(5, 0x30008)])) (trapped .misaligned 0x30002) = true := by decide
/-- R26, R365: a trap changes no register and no memory. -/
theorem test_trap_keeps : runs (.std 4 5 1) (st (regs [(4, 7), (5, 0x30008)])) (fun t => t.my.sp == [] && t.me.g 4 == 7 && t.me.trappc == 0x1000) = true := by
  decide
/-- R68 step 4. -/
theorem test_watchdog : runs (.add 1 2 3) (st fun k => { k with wdog := 5, icount := 5 }) (trapped .watchdog 0) = true := by decide
/-- R398: PRIV outside S. -/
theorem test_privileged : runs (.halt 0) (st id) (trapped .privileged 0) = true := by decide

/-! ### Floating point: R111's table -/

theorem test_fcvt_ws : runs (.fcvtWS 4 5) (st (regs [(5, 0x4F000000)])) (fun t => coming t 4 == some 0x7FFFFFFF && t.me.st.getLsbD 12) = true
    ∧ runs (.fcvtWS 4 5) (st (regs [(5, 0xC0400000)])) (fun t => coming t 4 == some 0xFFFFFFFFFFFFFFFD) = true := by decide
theorem test_fcvt_sw : runs (.fcvtSW 4 5) (st (regs [(5, 0x01000001)])) (fun t => coming t 4 == some 0x4B800000) = true := by decide
theorem test_fmin_signalling : runs (.fmin 4 5 6 .s) (st (regs [(5, 0x7FA00000), (6, 0x3F800000)])) (fun t => coming t 4 == some 0x3F800000) = true := by
  decide
theorem test_fnmadd_zero : runs (.fnmadd 4 5 6 7 .s) (st (regs [(5, 0x3F800000), (6, 0xBF800000), (7, 0x3F800000)])) (fun t => coming t 4 == some 0x80000000)
    = true := by decide

/-! ### Vector instructions -/

/-- R128's example: the low limb, and the high limb with the carry. -/
theorem test_vaddc :
    runs (.vaddc 7 1 4 3) (st fun k => (k.setV 1 0xFFFFFFFF).setV 4 1) (fun t => laneOf (comingV t 7) 32 0 == 0
      && (t.me.pend.any fun p => p.dst == .k 3 && p.val == some 1)) = true
    ∧ runs (.vaddc 9 3 6 3) (st fun k => (k.setV 3 1).setK 3 1) (fun t => laneOf (comingV t 9) 32 0 == 2) = true := by decide
/-- R57 and R133's example: a corrected lane, an overflow, the status bytes and RNSST. -/
theorem test_vrnsr :
    runs (.vrnsr 6 2 3 1) (st fun k => ((({ k with rnsch := 0x00140322 }.setV 2 (BitVec.ofNat 1024 (0x5B2E + 0xE9F0 * 2 ^ 128))).setV 3
        (BitVec.ofNat 1024 (0xDC69 + 0x1AC9 * 2 ^ 128))).setK 1 5)) (fun t => laneOf (comingV t 6) 64 0 == 12345
      && laneOf (comingV t 6) 64 1 == 0x8000000000000000 && laneOf (comingV t 7) 8 0 == 0x41 && laneOf (comingV t 7) 8 1 == 0x80
      && laneOf (comingV t 7) 8 2 == 0x20 && laneOf (comingV t 7) 8 16 == 0 && t.me.rnsst == 0x0000000100010100
      && vget t.my.evc 8 0 == 1 && vget t.my.evc 9 0 == 1) = true := by decide
/-- R138's example. -/
theorem test_vscatadd :
    runs (.vscatadd 1 4 2 1 .f32) (st (fun k => ((((regs [(4, 0x20000)] k).setV 2 (lanes32 [0, 0, 4, 0])).setV 1
        (lanes32 [0x4B800000, 0x3F800000, 0x40400000, 0x3F800000])).setK 1 0xF)) fun x => { x with sp := x.sp.setLe 0x20004 4 0x3FC00000 })
      (fun t => t.my.sp.le 0x20000 4 == 0x4B800000 && t.my.sp.le 0x20004 4 == 0x40900000) = true := by decide
/-- R120's example: part 2 of a conversion from FP32 to E4M3 with saturation. -/
theorem test_vcvt :
    runs (.vcvt 5 4 false 2 0) (st fun k => { k with pfx := 0x00C0200, st := k.st ||| 0x10 }.setV 4 (lanes32 [0x3F800000, 0xC0200000, 0x43FA0000, 0x7FC00000]))
      (fun t => (List.range 4).map (fun l => laneOf (comingV t 5) 8 (64 + l)) == [0x38, 0xC2, 0x7E, 0x7F] && laneOf (comingV t 5) 8 63 == 0
        && vget t.my.evc 0 0 == 1 && vget t.my.evc 1 0 == 1 && vget t.my.evc 2 0 == 0 && !t.me.pendBit) = true := by decide
theorem test_vcvt_needs_prefix : runs (.vcvt 5 4 false 2 0) (st id) (trapped .illegalPrefix 0) = true := by decide
/-- R116: an 8-bit maximum is signed, and a masked lane keeps its value. -/
theorem test_vmax_masked : runs (.vmax 3 1 2 1 .w8 false) (st fun k => (((k.setV 1 0x80).setV 2 1).setV 3 0xAA00000000).setK 1 1)
    (fun t => comingV t 3 == 0xAA00000001) = true := by decide
/-- R52: the tree adds lanes 16 apart first: (2^24 + 1) + (−2^24) in lanes 0, 16 and 8 is 0. -/
theorem test_vrsum_tree : runs (.vrsum 4 1 0 .f32) (st fun k => k.setV 1 (lanes32 ([0x4B800000] ++ List.replicate 7 0 ++ [0xCB800000]
    ++ List.replicate 7 0 ++ [0x3F800000]))) (fun t => coming t 4 == some 0) = true := by decide
/-- R58's example: three additions in one order, and what the cell reads as. -/
theorem test_fxadd : fxAdd (fxAdd (fxAdd 0 0x53800000) 0x3FC00000) 0xD3800000 = 0x1800000000000000
    ∧ fxAdd (fxAdd (fxAdd 0 0x3FC00000) 0xD3800000) 0x53800000 = 0x1800000000000000 := by decide

/-! ### Tags, messages and queues -/

/-- R193's example. -/
theorem test_tags :
    runs (.tgpush 0) (st fun k => { k with tx := 0x0002000000000610, tg := 0x0120340007000000 }) (fun t => t.me.tg == 0x0120340007000000 && t.me.tdepth == 1
      && runs (.tginc 0 1 8) t fun u => u.me.tg == 0x0120340007000001 && runs (.tgpush 0) u (trapped .tagOverflow 0)
        && runs (.tgpop 4) u fun v => v.me.tg == 0x0120340007000000 && v.me.g 4 == 1 && v.me.tdepth == 0
          && runs (.tginc 0 1 0) v fun w => w.me.tg == 0x0120340008000000) = true := by decide
/-- R189's example: the header words of SEND. -/
theorem test_send :
    runs (.send false 5 6 3) ({ State.reset with phase := .issue, cur := 0x1D22, who := 1, domains := [] }.onTile 0x1D22 fun x =>
        ({ x with dom := 0x12, seq := 0x41 }).onCtx 1 fun k =>
          regs [(5, 0x001C6500A0000800), (6, 0x30000)] { k with status := .running, pc := 0x1000, tg := 0x0120340007000005 })
      (fun t => (t.net.map fun p => (p.msg.h0, p.msg.h1, p.msg.tag, p.msg.pay.length)) ==
        [(0x001C6500A0300800, 0x001D222000004100, 0x0120340007000005, 3)]) = true := by decide
/-- R195's example: an unmarked and a marked entry, MVEC1 zero. -/
theorem test_qget : runs (.qget 4 5 1) (st (fun k => k) fun x => x.setFifo 1 [⟨77, true, 0, 0, 0⟩]) (fun _ => true) = true
    ∧ runs (.qget 4 5 1) { st (fun k => k) (fun x => x.setFifo 1 [⟨77, true, 0, 0, 0⟩]) with beat := 3 } (fun t => t.me.g 4 == 77 && t.me.g 5 == 1
      && t.me.pc == 0x1004 && t.my.fifoAt 1 == []) = true := by decide
/-- R200: CNTADD of a disarmed counter does nothing; counter 0 traps. -/
theorem test_cntadd : runs (.cntadd 1 2 0) (st (regs [(1, 3), (2, 4)])) (fun t => (t.my.counter 3).value == 0) = true
    ∧ runs (.cntadd 1 2 0) (st id) (trapped .illegalInstruction 0) = true := by decide
/-- R395's example. -/
theorem test_brk : runs (.brk 5) (st id) (trapped .breakpoint 5) = true := by decide
/-- R335's example: GIVE of pane 16 to the RMA engine. -/
theorem test_give : runs (.give 5 2) (st (regs [(5, 0x110)])) (fun t => (t.my.pane 16).owner == .rma && (t.my.pane 17).owner == .core) = true := by decide

/-! ### Steps -/

/-- A step of the machine fetches and runs a word placed where it fetches. -/
theorem test_step_runs : (match step (State.reset.withFetchWord 32 0x2CA48D15) with
    | .next t => (t.ctxAt t.cur 5).g 5 == 0x48D15 || t.cur != State.reset.cur | _ => false) = true := by decide
/-- Die 9 with a rail and corrected errors of class 0 in the window that ends now, the `n`-th. -/
def window9 (mv errors n : Nat) (frozen : Bool := false) : State :=
  ({ State.reset with beat := n * 2 ^ 32 } : State).onDie 9 fun x => { x with railMv := mv, errors := [errors], window := n - 1, frozenRail := frozen }
/-- R452's example: above the threshold, the rail rises 10 mV and freezes; at the threshold it stays; what follows is no second end. -/
theorem test_avs : runs (.avsWindowEnd 9 40 [(3, 4)]) (window9 470 5 1) (fun t => (t.die 9).railMv == 480 && (t.die 9).frozenRail && (t.die 9).errors == []
      && t.life.predictive == 0 && runs (.avsWindowEnd 9 40 [(3, 4)]) t fun u => u.die 9 == t.die 9) = true
    ∧ runs (.avsWindowEnd 9 40 [(3, 4)]) (window9 480 4 1 true) (fun t => (t.die 9).railMv == 480) = true
    ∧ runs (.avsWindowEnd 9 40 [(3, 4)]) (window9 500 5 1) (fun t => t.life.predictive == 1 && (t.die 9).railMv == 500) = true := by decide
/-- A domain of one tile with nothing in it. -/
def dom1 (dom launch : Nat) (tiles : List Nat) : Domain :=
  { dom := dom, refusal := 0, trapHid := 2, launch := launch, logLevel := 0, logGap := false, disp := [], root := 0, htab := 0, nhid := 0, width := 1
    height := 1, tiles := tiles, images := [], spares := [], rnschdef := 0, txdef := 0, syncBase := 0, syncCount := 0, bts := [], spillPool := 0
    freeHbm := [], freeLpddr := [], dups := [], colours := [], episodes := [], completed := [], gang := .running, gangTile := none, sweep := none
    saved := [], savedPrograms := [], savedWaits := [], fallout := [], heldKills := [], saveBase := 0, logBases := [], voteLog := [], voteBase := 0
    voteUsed := 0, resumedAt := none, keys := [], requireKey := false, federation := [] }
/-- A packet that stands at a place. -/
def pkt (m : Msg) (reply : Bool) (place : Nat) (injected ejected : Bool) : Packet :=
  ⟨m, reply, place, injected, ejected, .source, false, place, none, none, false, false, 0⟩
/-- R443's example: the message a launch record becomes, queued behind one that stands in the endpoint's output buffer. -/
theorem test_launch :
    runs (.launchRecord 3 ⟨[0x000C880000300000, 0, 0x4000000000, 24, 0x4000010000, 0, 0, 0], true⟩)
      (({ State.reset with domains := [dom1 0x21 1 [0]], net := [pkt ⟨0, 0, 0, []⟩ false endpoint false false] } : State).onFn 3 fun h =>
        { h with dom := some 0x21, seq := 7 })
      (fun t => ((t.fn 3).queue.map fun m => (m.h0, m.h1, m.tag, m.pay)) ==
        [(0x000C880010300000, 0x0061800000000700, 0x0210000000000000, [0x4000000000, 24, 0x4000010000])] && (t.fn 3).lseq == 1) = true := by decide
/-- R440: a record of LEN 6 is a LAUNCH_ERROR of CODE 3, here lost with the ring disabled. -/
theorem test_launch_error : runs (.launchRecord 3 ⟨[0x000C880000600000, 0, 0, 0, 0, 0, 0, 0], true⟩) (State.reset.onFn 3 fun h => { h with dom := some 0x21 })
    (fun t => t.net == [] && (t.fn 3).rlost == 1 && (t.fn 3).lseq == 0) = true := by decide
/-- The digest of the three bytes "abc" that FIPS 180-4 works out, its first byte first. -/
theorem test_sha256 : leBytes 32 (sha256 [0x61, 0x62, 0x63]).toNat
    = ([0xba, 0x78, 0x16, 0xbf, 0x8f, 0x01, 0xcf, 0xea, 0x41, 0x41, 0x40, 0xde, 0x5d, 0xae, 0x22, 0x23, 0xb0, 0x03, 0x61, 0xa3, 0x96, 0x17, 0x7a, 0x9c,
      0xb4, 0x10, 0xff, 0x61, 0xf2, 0x00, 0x15, 0xad] : List Byte) := by decide
/-- R451, R452: the counts of a window that a boot cut short are not judged. -/
theorem test_avs_short : runs (.avsWindowEnd 9 40 [(3, 4)]) ((window9 470 5 1).onDie 9 fun x => { x with short := true })
    (fun t => (t.die 9).railMv == 470 && !(t.die 9).frozenRail && (t.die 9).errors == [] && !(t.die 9).short) = true := by decide

/-! ### States that meet the hypotheses of the statements: instructions -/

/-- L0 with nothing pending and no watchdog. -/
theorem wit_clear : Clear (st id) ∧ Unspent (st id) := ⟨⟨by decide, by decide⟩, (by decide : (st id).overBudget = false)⟩
/-- S with nothing pending. -/
theorem wit_firmware : Firmware (fw id) := ⟨by decide, by decide⟩
theorem wit_DecodeAfterEncode : encode (.add 1 2 3) = some 0x04221800#32 := rfl
theorem wit_EncodeAfterDecode : decode 0x04221800#32 = .ok (.add 1 2 3) := rfl
theorem wit_UnassignedWordsTrap : (0x2C : Nat) ∈ [0x00, 0x09, 0x1B, 0x2C] ∧ (0xDC000000#32).toNat / 2 ^ 26 = 0x37
    ∧ decode 0xDC000000#32 = .error .unassignedMajor := ⟨by decide, by decide, rfl⟩
/-- S issues with nothing tried again; L0 tries its ADD again; a context that waits for an answer does not. -/
theorem wit_StepRunsDecoded : (∃ (s u : State) (c : Fin 6) (before after : List (Fin 6)) (w : BitVec 32) (i : Instr) (t : State),
    s.now = [] ∧ s.ready = [] ∧ s.phase = .issue ∧ s.my.enabled = true ∧ s.my.withdrawn = false ∧ retryAll s s.issueOrder = .next u
      ∧ (s.issueOrder.filter fun e => !s.mayRetry e) = before ++ c :: after
      ∧ (∀ e ∈ before, u.mayIssue e = false) ∧ u.mayIssue c = true ∧ bits (u.ctxAt u.cur c).pc 1 0 = 0 ∧ u.fetchAt u.cur c = .word w
      ∧ decode w = .ok i ∧ (u.ctxAt u.cur c).held i = false
      ∧ exec i { ({ u with who := c, iw := 0 } : State).fetched c with iw := w } = .next t)
    ∧ (∃ t, ((st fun k => { k with word := some 0x04221800#32 }).ctxAt 0 0).word = some 0x04221800#32
      ∧ (st fun k => { k with word := some 0x04221800#32 }).mayRetry 0 = true ∧ decode 0x04221800#32 = .ok (.add 1 2 3)
      ∧ exec (.add 1 2 3) { (st fun k => { k with word := some 0x04221800#32 }) with who := 0, iw := 0x04221800#32 } = .next t)
    ∧ (st fun k => { k with word := some 0x04221800#32, wait := some (.sent ⟨.load, 0, 0, 8, false, 0, 0, 0⟩) }).mayRetry 1 = false := by
  refine ⟨⟨State.reset.withFetchWord 32 0x04221800, State.reset.withFetchWord 32 0x04221800, 5, [], [4, 0, 1, 2, 3], 0x04221800#32, .add 1 2 3, _,
    by decide, by decide, by decide, by decide, by decide, rfl, by decide, by decide, by decide, by decide, by decide, rfl, by decide, rfl⟩,
    ⟨_, by decide, by decide, rfl, rfl⟩, by decide⟩
theorem wit_StepRunsPending : ∃ (s : State) (e : Event) (rest : List Event), s.now = e :: rest ∧ eventInRange e = true :=
  ⟨{ State.reset with now := [.dispatch 24575] }, .dispatch 24575, [], rfl, by decide⟩
theorem wit_ChecksInOrder : (encode (.halt 1) ≠ none ∧ isPriv (.halt 1) = true ∧ (st id).isS = false)
    ∧ (isPriv (.add 1 2 3) = false ∧ (st fun k => { k with st := k.st ||| 0x10 }).me.pendBit = true ∧ takesPrefix (.add 1 2 3) = false)
    ∧ (isPriv (.add 1 2 3) = false ∧ (st fun k => { k with wdog := 5, icount := 5 }).me.pendBit = false
      ∧ (st fun k => { k with wdog := 5, icount := 5 }).overBudget = true) := by decide
theorem wit_TrapEntry : (st id).isS = false ∧ (fw id).isS = true := by decide
theorem wit_Registers : (1 : Reg) ≠ 0 ∧ (1 : KReg) ≠ 0 ∧ (1 : Nat) ≤ 1 ∧ (1 : Nat) < 2 ∧ (2 : Reg) ≠ 1
    ∧ ((st fun k => { k with pend := [⟨.g 1, some 7, 0⟩] }).ctxAt 0 0).pend = [] ++ ⟨.g 1, some 7, 0⟩ :: []
    ∧ ((st fun k => { k with pend := [⟨.v 1, some 7, 0⟩] }).ctxAt 0 0).pend = [] ++ ⟨.v 1, some 7, 0⟩ :: [] ∧ (0 : Nat) ≤ (st id).beat
    ∧ (∀ p ∈ ((st fun k => { k with pend := [⟨.g 1, some 7, 0⟩] }).ctxAt 0 0).pend, p.dst ≠ .g 2) := by decide
theorem wit_MaskedLanes : (8 : Nat) ∈ [8, 16, 32, 64] ∧ 127 < 1024 / 8 ∧ 15 < 1024 / 64 := by decide
theorem wit_IntegerResults : Clear (st (regs [(1, 0x8000000000000000), (2, BitVec.allOnes 64)]))
    ∧ ((st (regs [(1, 0x8000000000000000), (2, BitVec.allOnes 64)])).me.g 1).toInt = -2 ^ 63
    ∧ ((st (regs [(1, 0x8000000000000000), (2, BitVec.allOnes 64)])).me.g 2).toInt = -1
    ∧ ((0x0400000E#32).toNat / 2 ^ 26 = 1 ∧ 14 ≤ bits ((0x0400000E#32).setWidth 64) 10 0)
    ∧ ((0x08000007#32).toNat / 2 ^ 26 = 2 ∧ 7 ≤ bits ((0x08000007#32).setWidth 64) 10 0)
    ∧ ((0x0C000005#32).toNat / 2 ^ 26 = 3 ∧ 5 ≤ bits ((0x0C000005#32).setWidth 64) 15 0) := ⟨⟨by decide, by decide⟩, by decide⟩
theorem wit_Immediates : Clear (st id) ∧ (1 ≤ (63 : BitVec 6).toNat ∧ (1 : BitVec 6).toNat + (63 : BitVec 6).toNat ≤ 64)
    ∧ ((0 : BitVec 6) = 0 ∨ 64 < (0 : BitVec 6).toNat + (0 : BitVec 6).toNat) ∧ 64 < (2 : BitVec 6).toNat + (63 : BitVec 6).toNat
    ∧ ((0x28000010#32).toNat / 2 ^ 26 = 0x0A ∧ bits ((0x28000010#32).setWidth 64) 3 0 ≤ 2 ∧ bits ((0x28000010#32).setWidth 64) 9 4 ≠ 0)
    ∧ ((0x74000001#32).toNat / 2 ^ 26 = 0x1D ∧ bits ((0x74000001#32).setWidth 64) 5 0 ≠ 0) := ⟨⟨by decide, by decide⟩, by decide⟩
theorem wit_ControlTransfers : Clear (st (regs [(1, 0x1000)])) ∧ ((st (regs [(1, 0x1000)])).me.g 1).toNat % 4 = 0
    ∧ ((st (regs [(1, 0x1001)])).me.g 1).toNat % 4 ≠ 0 ∧ (st id).me.mret.toNat % 4 = 0 ∧ (st fun k => { k with mret := 2 }).me.mret.toNat % 4 ≠ 0
    ∧ ((0x58200000#32).toNat / 2 ^ 26 = 0x16 ∧ bits ((0x58200000#32).setWidth 64) 25 21 ≠ 0)
    ∧ 2 ≤ bits ((0x58000002#32).setWidth 64) 15 0 := ⟨⟨by decide, by decide⟩, by decide⟩
/-- The last doubleword below the firmware panes, the first byte of them, an address below 0, a misaligned one and a pane of an engine. -/
theorem wit_ScratchpadLoads : Clear (st (regs [(1, 0x7BFF8)])) ∧ Loadable (st (regs [(1, 0x7BFF8)])) ((st (regs [(1, 0x7BFF8)])).ea 1 0) 8
    ∧ (spLimit (st (regs [(1, 0x7C000)])) ≤ (st (regs [(1, 0x7C000)])).ea 1 0) ∧ ((st id).ea 1 0x1FFF < 0)
    ∧ (0 ≤ (st (regs [(1, 1)])).ea 1 0 ∧ (st (regs [(1, 1)])).ea 1 0 < spLimit (st (regs [(1, 1)])) ∧ ((st (regs [(1, 1)])).ea 1 0).toNat % 2 ≠ 0)
    ∧ (st id fun x => { x with panes := vset x.panes 0 ⟨.rma, false, 0, 0⟩ }).paneOk (0 / 4096) = false := by
  refine ⟨⟨by decide, by decide⟩, ⟨⟨by decide, by decide, by decide, by decide⟩, by decide⟩, by decide, by decide, by decide, by decide⟩
theorem wit_ScratchpadStores : Clear (st (regs [(1, 0x7BFF8)])) ∧ (st (regs [(1, 0x7BFF8)])).my.armed 0 = false
    ∧ (st (regs [(1, 0x7BFF8)])).my.sp.wf = true ∧ Reachable (st (regs [(1, 0x7BFF8)])) ((st (regs [(1, 0x7BFF8)])).ea 1 0) 8 := by
  refine ⟨⟨by decide, by decide⟩, by decide, by decide, ⟨by decide, by decide, by decide, by decide⟩⟩
theorem wit_FloatResults : Clear (st id) ∧ (st fun k => { k with st := 0xA000 }).me.rm = 5 ∧ (st id).me.rm ≠ 5 := ⟨⟨by decide, by decide⟩, by decide⟩
/-- Without a prefix, with a legal one, and with one whose rounding code is 6. -/
theorem wit_VectorFloats : Unspent (st id) ∧ (st id).me.vfpMode = some (rmOf 0, false)
    ∧ (st fun k => { k with pfx := 5 * 2 ^ 10 + 2 ^ 9, st := k.st ||| 0x10 }).me.vfpMode = some (rmOf 5, true)
    ∧ (st fun k => { k with pfx := 6 * 2 ^ 10, st := k.st ||| 0x10 }).me.vfpMode = none
    ∧ (st fun k => { k with st := k.st ||| 0x10 }).me.pendBit = true := ⟨(by decide : (st id).overBudget = false), by decide⟩
theorem wit_VectorFused : Unspent (st fun k => { k with pfx := 0x0CC0000, st := k.st ||| 0x10 })
    ∧ (st fun k => { k with pfx := 0x0CC0000, st := k.st ||| 0x10 }).me.vfmaMode = some (3, 3, 0, rmOf 0, false)
    ∧ (st id).me.vfmaMode = some (0, 0, 0, rmOf 0, false) := by
  refine ⟨(by decide : (st fun k => { k with pfx := 0x0CC0000, st := k.st ||| 0x10 }).overBudget = false), by decide, by decide⟩
/-- From FP32 to E4M3: parts 3 (the last) and, from E4M3 to E4M3, 1 (beyond the register). -/
theorem wit_Conversions : ∃ f g : Pfx, (st fun k => { k with pfx := 0x00C0200, st := k.st ||| 0x10 }).me.pfxNow = some f ∧ f.a = 0 ∧ f.b = 3 ∧ f.c = 0
    ∧ f.scale = 0 ∧ f.delta = 0 ∧ f.rnd ≤ 5 ∧ (3 + 1) * min (elemCount f.a) (elemCount f.b) ≤ max (elemCount f.a) (elemCount f.b)
    ∧ (st fun k => { k with pfx := 0x0CC0000, st := k.st ||| 0x10 }).me.pfxNow = some g ∧ g.a = 3 ∧ g.b = 3
    ∧ max (elemCount g.a) (elemCount g.b) < (1 + 1) * min (elemCount g.a) (elemCount g.b) := by
  refine ⟨_, _, rfl, and4 (by decide) ⟨by decide, by decide, by decide, rfl, by decide, by decide, by decide⟩⟩
/-- A double-block float target from FP32 at part 3, an MX one from FP16 at part 1, and the way back. -/
theorem wit_BlockFormats : ∃ f g h : Pfx, (st fun k => { k with pfx := 0x0300000 ||| 0x6000, st := k.st ||| 0x10 }).me.pfxNow = some f ∧ f.a ≤ 2
    ∧ (12 ≤ f.b ∧ f.b ≤ 14 ∧ (f.scale = 0 ∨ f.scale = 3)) ∧ f.c = 0 ∧ f.rnd ≤ 5 ∧ (3 + 1) * elemCount f.a ≤ 128
    ∧ (st fun k => { k with pfx := 2 * 2 ^ 22 + 3 * 2 ^ 18 + 2 ^ 13, st := k.st ||| 0x10 }).me.pfxNow = some g ∧ g.a = 2 ∧ g.b = 3 ∧ g.scale = 1
    ∧ g.delta = 0 ∧ (1 + 1) * elemCount g.a ≤ 128
    ∧ (st fun k => { k with pfx := 14 * 2 ^ 22 + 3 * 2 ^ 13, st := k.st ||| 0x10 }).me.pfxNow = some h ∧ h.a = 14 ∧ h.scale = 3 ∧ h.b = 0
    ∧ (3 + 1) * elemCount h.b ≤ 128 := by
  refine ⟨_, _, _, rfl, by decide, by decide, by decide, by decide, by decide, rfl, by decide, by decide, by decide, by decide, by decide, rfl,
    by decide, by decide, by decide, by decide⟩
theorem wit_Predicates : (7 : Reg).toNat < 8 ∧ 8 ≤ (8 : Reg).toNat ∧ (1 : KReg) ≠ 0 := by decide
theorem wit_Residues : Clear (st fun k => { k with rnsch := 0x00140322 }) ∧ 9 < bits (10 : Word) 3 0 ∧ bits (9 : Word) 3 0 ≤ 9 ∧ (30 : Reg).toNat % 2 = 0
    ∧ rnschOk (st fun k => { k with rnsch := 0x00140322 }).me.rnsch = true := ⟨⟨by decide, by decide⟩, by decide⟩
theorem range_ok (s : State) (ea : Int) (n align : Nat) (h1 : ea % align = 0) (h2 : 0 ≤ ea) (h3 : ea + n ≤ spLimit s)
    (h4 : ∀ p : Nat, p < 128 → (p * 4096 : Int) < spLimit s → s.paneOk p = true) (h5 : spLimit s ≤ 0x80000) : RangeOk s ea n align := by
  refine ⟨h1, h2, h3, fun b _ hb => h4 _ ?_ ?_⟩ <;> omega
theorem wit_VectorLoads : Clear (fw (regs [(1, 0x7FF80)])) ∧ (∀ l < 32, (fw (regs [(1, 0x7FF80)])).my.spPoisoned (0x7FF80 + 4 * l) 4 = false)
    ∧ RangeOk (fw (regs [(1, 0x7FF80)])) ((fw (regs [(1, 0x7FF80)])).vbase 1 0) 128 128
    ∧ (∀ l : Nat, l < 32 → Loadable (fw id) ((fw id).vbase 1 0 + l * ((fw id).me.g 2).toInt) 4) := by
  refine ⟨⟨by decide, by decide⟩, by decide, range_ok _ _ _ _ (by decide) (by decide) (by decide) (by decide) (by decide), ?_⟩
  unfold Loadable Reachable
  decide
theorem wit_VectorStores : Clear (st id) ∧ (st id).my.armed 0 = false ∧ (st id).my.sp.wf = true
    ∧ (∀ l ∈ (List.range 32).filter ((st id).me.k 0).getLsbD, Reachable (st id) ((st id).vbase 1 0 + l * ((st id).me.g 2).toInt) 4)
    ∧ (∀ l ∈ (List.range 32).filter ((st id).me.k 0).getLsbD,
      Loadable (st id) (((st id).me.g 1).toNat + (BitVec.ofNat 32 (laneOf ((st id).me.v 2) 32 l)).toInt) 4) := by
  refine ⟨⟨by decide, by decide⟩, by decide, by decide, ?_, ?_⟩
  · unfold Reachable; decide
  · unfold Loadable Reachable; decide
theorem wit_SystemReads : (fw id).isS = true ∧ (st id).isS = false ∧ (0x040 : Nat) ≤ 0x044 ∧ (0x0A0 : Nat) < 4096 := by decide
theorem wit_SpecialWrites : bits (0xA000 : Word) 15 13 < 6 ∧ 6 ≤ bits (0xC000 : Word) 15 13
    ∧ txOk (0x0002000000000610 &&& 0x000FFFFFFFFFFFFF) (st id).me.tdepth = true ∧ txOk (0 &&& 0x000FFFFFFFFFFFFF) (st id).me.tdepth = false
    ∧ (fw id).isS = true ∧ (st id).isS = false ∧ (0x050 : Nat) ∈ [0x004, 0x005, 0x006, 0x008, 0x009, 0x010, 0x011, 0x050] := by decide
/-- A reply activation of handler 0. -/
def replyAct : Activation := { slot := ⟨⟨0, 0, 0, []⟩, 0, 0, none, false, []⟩, queue := 0, cls := .rhigh, hid := 0, handler := ⟨0x2000, 0, false, false⟩, copy := 0 }
/-- A message of 16 doublewords to a neighbour; one of 17; a destination on die 28; a payload past the CORE panes, at its first doubleword and
at its second; one that has issued; one of a killed colour. -/
theorem wit_Messages : Clear (st (regs [(1, 0x10000000000)])) ∧ StoresDone (st (regs [(1, 0x10000000000)])) ∧ (16 : BitVec 5).toNat ≤ 16
    ∧ 16 < (17 : BitVec 5).toNat ∧ (∀ j : Nat, j < 16 → Loadable (st (regs [(1, 0x10000000000)])) (((st (regs [(1, 0x10000000000)])).me.g 2).toNat + 8 * j) 8)
    ∧ (st (regs [(1, 0x10000000000)])).sendCheck (h0Of ((st (regs [(1, 0x10000000000)])).me.g 1)).dst true = none
    ∧ (st (regs [(1, 0x10000000000)])).outFree 0 false = true ∧ (st id).my.killed 0 = false ∧ (st id).my.replay = false
    ∧ (st id).handler 0 0 0 = none ∧ (st id).dstGone 0 (28 * 1024) = true ∧ (st id).me.word = none
    ∧ (st fun k => { k with word := some 0#32 }).me.word ≠ none ∧ (st id).dstGone 0 0 = false
    ∧ (st id).spCheck (0x7C000 + 8 * (0 : Nat)) 8 = some (.scratchBounds, 0x7C000)
    ∧ (st id).spCheck (0x7BFF8 + 8 * (1 : Nat)) 8 = some (.scratchBounds, 0x7C000) ∧ Reachable (st id) (0x7BFF8 + 8 * (0 : Nat)) 8
    ∧ (∃ k, (st fun k => { k with act := some replyAct }).me.act = some k ∧ k.cls.isReply = true)
    ∧ (st (fun k => { k with tg := 0x0010010000000000 }) fun x => { x with dom := 1, kills := [(1, 1)] }).my.killed
      (st (fun k => { k with tg := 0x0010010000000000 }) fun x => { x with dom := 1, kills := [(1, 1)] }).sentTag = true := by
  refine ⟨⟨by decide, by decide⟩, ⟨by decide, by decide⟩, by decide, by decide, ?_, by decide, by decide, by decide, by decide, (and4 (by decide) ⟨by decide, by decide, by decide, ⟨by decide, by decide, by decide, by decide⟩, ⟨replyAct, by decide, by decide⟩, by decide⟩)⟩
  unfold Loadable Reachable
  decide

/-- H0 of a message to a tile and a handler. -/
def header (dst hid : Nat) (reply : Bool) (len : Nat) : Word :=
  ({ dst := dst, hid := hid, vn := reply, pri := false, port := false, len := len, triple := false, copy := 0, drop := false, cnt := 0 } : H0).word
/-- A message of no words in a tag. -/
def plainMsg (dst hid : Nat) (tag : Word) : Msg := ⟨header dst hid false 0, 0, tag, []⟩
/-- A handler at 0x2000 of a queue. -/
def hnd (q : Nat) : Handler := ⟨0x2000, q, false, false⟩
/-- An activation of a slot of a queue. -/
def actOf (q : Nat) (m : Msg) : Activation := { slot := ⟨m, 0, 0, none, false, []⟩, queue := q, cls := .low, hid := 0, handler := hnd q, copy := 0 }
theorem wit_ActivationEnds : Clear (st id) ∧ (st id).me.pend = [] ∧ (st id).isS = false ∧ (fw id).isS = true ∧ (fw id).me.pend = []
    ∧ (st fun k => { k with act := some (actOf 15 (plainMsg 0 0 0)) }).me.act = some (actOf 15 (plainMsg 0 0 0))
    ∧ (actOf 15 (plainMsg 0 0 0)).queue < 16 := ⟨⟨by decide, by decide⟩, by decide⟩
/-- A layout of one field of 16 bits, two of 24: fields 0 and 1, at depth 0, and the field past the layout. -/
theorem wit_TagOperations : Clear (st fun k => { k with tx := 0x0002000000000610 })
    ∧ (8 : BitVec 5).toNat ≤ 8 ∧ 8 < (9 : BitVec 5).toNat ∧ (st fun k => { k with tx := 0x0002000000000610 }).me.tdepth = 0
    ∧ txNf 0x0002000000000610 = 2 ∧ (0xFFFF : Nat) < 2 ^ txW 0x0002000000000610 0 ∧ 2 ^ txW 0x0002000000000610 0 ≤ (0x10000 : Nat)
    ∧ fieldOf 0x0002000000000610 0 0 + 0xFFFE + (1 : BitVec 5).toNat < 2 ^ txW 0x0002000000000610 0
    ∧ 2 ^ txW 0x0002000000000610 0 ≤ fieldOf 0x0002000000000610 0 0 + 0xFFFF + (1 : BitVec 5).toNat
    ∧ (0 : Nat) + 1 < txNf 0x0002000000000610 ∧ txNf 0x0002000000000610 ≤ 1 + 1 := ⟨⟨by decide, by decide⟩, by decide⟩
theorem wit_TagNew : Clear (st id) ∧ (st id).me.wait = none
    ∧ (st fun k => { k with wait := some (.answered ⟨.tgNew, 0, 0, 0, false, 0, 0, 0⟩ 4095) }).me.wait
      = some (.answered ⟨.tgNew, 0, 0, 0, false, 0, 0, 0⟩ 4095) := ⟨⟨by decide, by decide⟩, by decide⟩
/-- An unmarked and a marked entry, both kinds of vector, a closed port and an open one with 7 entries. -/
theorem wit_NeighbourPorts :
    (∀ mk : Bool, ({ st (fun k => k) (fun x => x.setFifo 1 [⟨77, mk, 0, 0, 0⟩]) with beat := 1 } : State).my.fifoAt 1 = ⟨77, mk, 0, 0, 0⟩ :: []) ∧ 0 < 1
    ∧ bits (0x1000 : Word) 1 0 = 0 ∧ bits (0x1002 : Word) 1 0 ≠ 0
    ∧ (st id fun x => { x with dom := 5 }).closed 0 1 = true ∧ (st id).closed 0 1 = true
    ∧ ((st id fun x => { x with dom := 5 }).onTile (neighbour 0 1) fun x =>
      { x.setFifo (facingPort 1) (List.replicate 7 ⟨0, false, 0, 0, 0⟩) with dom := 5 }).closed 0 1 = false
    ∧ ((((st id fun x => { x with dom := 5 }).onTile (neighbour 0 1) fun x =>
      { x.setFifo (facingPort 1) (List.replicate 7 ⟨0, false, 0, 0, 0⟩) with dom := 5 }).tile (neighbour 0 1)).fifoAt (facingPort 1)).length < 8
    ∧ (st id).my.fifoAt 1 = [] ∧ Clear (st id) ∧ StoresDone (st id) := by
  refine (and4 (by decide) ⟨by decide, by decide, by decide, by decide, by decide, ⟨by decide, by decide⟩, by decide, by decide⟩)
theorem wit_Counters : Clear (st (regs [(1, 63), (2, 0x00007FFF00000001)])) ∧ 1 ≤ (1 : Nat) ∧ ((st (regs [(1, 63)])).me.g 1).toNat ≤ 63
    ∧ 63 < ((st (regs [(1, 64)])).me.g 1).toNat ∧ ((st id).me.g 1).toNat = 0
    ∧ bits (0x00007FFF00000001 : Word) 63 47 = 0 ∧ (0x00007FFF00000001 : Word).toNat % 2 ^ 32 ≠ 0
    ∧ bits (0x0000800000000001 : Word) 63 47 ≠ 0 ∧ (0x00007FFF00000000 : Word).toNat % 2 ^ 32 = 0 := ⟨⟨by decide, by decide⟩, by decide⟩
/-- Counter 63 armed with threshold 8. -/
theorem wit_CounterBumps : ((st id fun x => x.setCounter 63 ⟨3, 8, 0, 0, false, false, true⟩).tile 0).counter 63 = ⟨3, 8, 0, 0, false, false, true⟩
    ∧ min (3 + 4) (2 ^ 32 - 1) < 8 ∧ ((st id).tile 0).counter 1 = Counter.reset ∧ Counter.reset.armed = false := by decide

/-- L0 of tile 0 runs as in `st`, with the access tables of its domain. -/
def stT (f : Ctx → Ctx) (h : Tile → Tile := id) : State := { st f h with tables := tablesOf 0 }
/-- A TLB whose one entry maps the page at 0x10000 to the page at 0x10000, readable and writable. -/
def mapped (x : Tile) : Tile := { x with tlb := [⟨0, 0, 1, false, 0, 0x10087⟩] }
/-- The last 128 bytes of the page, for a load, a store and an atomic. -/
theorem wit_BarrierJoins : Clear (stT (regs [(1, 0x0010_0000), (3, 0x1FF80)]) mapped) ∧ StoresDone (stT (regs [(1, 0x0010_0000), (3, 0x1FF80)]) mapped)
    ∧ bits (0x0010_0000 : Word) 63 36 = 0 ∧ bits (0x0010_0000 : Word) 3 2 = 0 ∧ bits (0x0010_0000 : Word) 1 0 ≠ 3 ∧ bits (0x0010_0000 : Word) 35 20 ≠ 0
    ∧ Mapped (stT (regs [(1, 0x0010_0000), (3, 0x1FF80)]) mapped) (0x1FF80 : Nat) 128 false true true 0x1FF80 false 0
    ∧ (stT id mapped).my.joins.length < 4 := by
  refine ⟨⟨by decide, by decide⟩, ⟨by decide, by decide⟩, by decide, by decide, by decide, by decide, ⟨by decide, by decide, by decide, by decide⟩, by decide⟩
theorem wit_GlobalLoads : Clear (stT id mapped) ∧ (stT id mapped).me.wait = none
    ∧ Mapped (stT (regs [(1, 0x1FFF8)]) mapped) ((0x1FFF0 : Nat) + (8 : BitVec 13).toInt) 8 true false false 0x1FFF8 false 0
    ∧ Mapped (stT id mapped) ((0x1FF80 : Nat) + (0 : BitVec 13).toInt) 128 true false false 0x1FF80 false 0
    ∧ (st fun k => { k with wait := some (.answered ⟨.load, 0, 0, 8, false, 0, 0, 0⟩ 7) }).me.wait = some (.answered ⟨.load, 0, 0, 8, false, 0, 0, 0⟩ 7) := by
  refine ⟨⟨by decide, by decide⟩, by decide, ⟨by decide, by decide, by decide, by decide⟩, ⟨by decide, by decide, by decide, by decide⟩, by decide⟩
theorem wit_GlobalStores : Clear (stT id mapped) ∧ (List.replicate 15 (⟨0, 0, 8, 0, false, 0⟩ : Store)).length < 16
    ∧ Mapped (stT id mapped) ((0x1FFFF : Nat) + (0 : BitVec 13).toInt) 1 false true true 0x1FFFF false 0
    ∧ Mapped (stT id mapped) ((0x1FFF8 : Nat) + (0 : BitVec 13).toInt) 8 false true true 0x1FFF8 false 0 := by
  refine ⟨⟨by decide, by decide⟩, by decide, ⟨by decide, by decide, by decide, by decide⟩, ⟨by decide, by decide, by decide, by decide⟩⟩
theorem wit_GlobalChecks : Clear (stT (regs [(1, 2 ^ 52), (2, 2 ^ 52 - 4)])) ∧ (st id).me.wait = none
    ∧ (2 : Int) ^ 52 ≤ ((stT (regs [(1, 2 ^ 52)])).me.g 1).toNat + (0 : BitVec 13).toInt ∧ ((st id).me.g 1).toNat + (0x1FFF : BitVec 13).toInt < 0
    ∧ ((stT (regs [(2, 2 ^ 52 - 4)])).me.g 2).toNat + (0 : BitVec 13).toInt < 2 ^ 52
    ∧ (((stT (regs [(2, 2 ^ 52 - 4)])).me.g 2).toNat + (0 : BitVec 13).toInt).toNat % 8 ≠ 0
    ∧ ((stT (regs [(2, 2 ^ 52 - 1)])).me.g 2).toNat < 2 ^ 52 ∧ ((stT (regs [(2, 2 ^ 52 - 1)])).me.g 2).toNat % 4 ≠ 0 := ⟨⟨by decide, by decide⟩, by decide⟩
theorem wit_AtomicAnswers : Clear (st fun k => { k with wait := some (.answered ⟨.fxrd, 0, 0, 16, false, 0, 0, 0⟩ (3 * 2 ^ 64 + 5)) })
    ∧ (st fun k => { k with wait := some (.answered ⟨.fxrd, 0, 0, 16, false, 0, 0, 0⟩ (3 * 2 ^ 64 + 5)) }).me.wait
      = some (.answered ⟨.fxrd, 0, 0, 16, false, 0, 0, 0⟩ (3 * 2 ^ 64 + 5)) := ⟨⟨by decide, by decide⟩, by decide⟩
theorem wit_AtomicEffects : atomWrites .atomMax 5 3 0 = false ∧ atomWrites .atomCas 5 3 4 = false ∧ ReqKind.fxrd ∈ [ReqKind.atomAdd, .atomCas, .atomSwap, .atomMax, .atomMin, .fxrd] := by
  decide
/-- The last of 4095 sync objects, number 0 and one too many. -/
theorem wit_SyncAndFences : ∃ s : State, ∃ r : Domain, Clear s ∧ StoresDone s ∧ s.domain s.syncDom = some r ∧ 1 ≤ (s.me.g 1).toNat ∧ (s.me.g 1).toNat ≤ r.syncCount
    ∧ (s.me.g 1).toNat < 2 ^ 12 ∧ (s.me.g 2).toNat = 0 ∧ r.syncCount < (s.me.g 3).toNat ∧ s.me.wait = none
    ∧ s.my.outstanding s.who ReqOp.isPut = false ∧ s.streaming s.cur s.who = false ∧ (∀ q ∈ s.my.asyncQ, q.ctx ≠ s.who.val)
    ∧ (∀ e ∈ s.engines, ∀ q ∈ e.2.waits, ¬ (q.tile = s.cur ∧ q.req.ctx = s.who.val)) ∧ s.my.replay = false
    ∧ (s.onMy fun x => { x with replay := true }).my.replay = true := by
  refine ⟨{ st (regs [(1, 4095), (3, 4096)]) (fun x => { x with dom := 1 }) with domains := [{ dom1 1 0 [0] with syncCount := 4095 }] },
    { dom1 1 0 [0] with syncCount := 4095 }, ⟨by decide, by decide⟩, ⟨by decide, by decide⟩, by decide, by decide, by decide, by decide, (and4 (by decide) ⟨by decide, by decide, fun _ he => absurd he List.not_mem_nil, by decide, by decide⟩)⟩
/-- A copy of 8 bytes and of 64 KB, an indexed move of 4096 elements of 1 KB, and atomics on the last doubleword. -/
theorem wit_RmaIssue : Clear (st id) ∧ (1 : Reg) ≠ 0 ∧ (st id).my.asyncQ.length < 16
    ∧ (8 : Word).toNat % 8 = 0 ∧ 8 ≤ (8 : Word).toNat ∧ (65536 : Word).toNat ≤ 65536 ∧ (65536 : Word).toNat % 8 = 0
    ∧ (0x8000000000000000 : Word).getLsbD 63 = true ∧ bits (0x8000000000000000 : Word) 62 19 = 0
    ∧ bits (0x8000000000000000 : Word) 18 0 % 8 = 0
    ∧ (bits (0x0007100000030000 : Word) 63 51 = 0 ∧ bits (0x0007100000030000 : Word) 47 45 = 0 ∧ bits (0x0007100000030000 : Word) 31 19 = 0
      ∧ bits (0x0007100000030000 : Word) 44 32 = 4096 ∧ RangeOk (st id) (bits (0x0007100000030000 : Word) 18 0) (4 * 4096) 4)
    ∧ (bits (0x0007BFF800000000 : Word) 61 51 = 0 ∧ bits (0x0007BFF800000000 : Word) 31 19 = 0 ∧ (0x0007BFF800000000 : Word).getLsbD 62 = false
      ∧ RangeOk (st id) (bits (0x0007BFF800000000 : Word) 50 32) 8 8) := by
  refine ⟨⟨by decide, by decide⟩, and4 (by decide) ⟨by decide, by decide, by decide, by decide, by decide,
    ⟨by decide, by decide, by decide, by decide, range_ok _ _ _ _ (by decide) (by decide) (by decide) (by decide) (by decide)⟩,
    by decide, by decide, by decide, range_ok _ _ _ _ (by decide) (by decide) (by decide) (by decide) (by decide)⟩⟩
theorem wit_EngineIssue : Unspent (st id) ∧ (1 : Reg) ≠ 0 ∧ (st id).my.asyncQ.length < 16 ∧ RangeOk (st (regs [(1, 0x7BFC0)])) ((0x7BFC0 : Nat)) 64 64
    ∧ mmPrefixOk none = true ∧ mmPrefixOk (some (1 * 2 ^ 14)) = false ∧ sacPrefixOk (some (3 * 2 ^ 22)) = true ∧ (st id).me.pendBit = false
    ∧ (255 : Word).toNat ≤ 255
    ∧ (bits (0x017F017E : Word) 63 28 = 0 ∧ (0x017E017E : Word).getLsbD 23 = false ∧ bits (0x017E017E : Word) 15 12 = 0 ∧ (0x017E017E : Word).getLsbD 7 = false
      ∧ bits (0x017E017E : Word) 22 16 + bits (0x017E017E : Word) 27 24 ≤ 127 ∧ bits (0x017E017E : Word) 6 0 + bits (0x017E017E : Word) 11 8 ≤ 127)
    ∧ (st fun k => { k with wait := some (.answered ⟨.seStat, 0, 0, 0, false, 0, 255, 0⟩ 7) }).me.wait = some (.answered ⟨.seStat, 0, 0, 0, false, 0, 255, 0⟩ 7)
    := by
  refine ⟨(by decide : (st id).overBudget = false), by decide, by decide, range_ok _ _ _ _ (by decide) (by decide) (by decide) (by decide) (by decide), by decide⟩
/-- Pane 123, the last that L may give; and a claimed pane that nothing holds. -/
theorem wit_PaneOwnership : Clear (st (regs [(1, 0x17B)])) ∧ (bits (0x17B : Word) 63 15 = 0 ∧ (0x17B : Word).getLsbD 7 = false ∧ 1 ≤ bits (0x17B : Word) 14 8
      ∧ bits (0x17B : Word) 6 0 + bits (0x17B : Word) 14 8 ≤ 124 ∧ 1 ≤ bits (0x17B : Word) 6 0)
    ∧ ((st id).my.pane 123).isCore = true ∧ (3 : BitVec 5).toNat = 3 ∧ ¬ (1 ≤ (4 : BitVec 5).toNat ∧ (4 : BitVec 5).toNat ≤ 3) ∧ (st id).me.wait = none
    ∧ ((st id fun x => { x with panes := vset x.panes 123 ⟨.mm, false, 0, 0⟩ }).my.pane 123).isClaimed = true
    ∧ ((st id fun x => { x with panes := vset x.panes 123 ⟨.mm, false, 0, 0⟩ }).my.pane 123).holds = 0 := ⟨⟨by decide, by decide⟩, by decide⟩
/-- Phase 15, of an image of zeros (every output NONE), and of one whose first entry is not allowed. -/
theorem wit_SlotLoads : Clear (st id) ∧ (st id).me.wait = none ∧ bits (0x2F : Word) 63 6 = 0 ∧ bits (0x2F : Word) 5 4 = 2 ∧ bits (0x0F : Word) 5 4 = 0
    ∧ bits (0x40 : Word) 63 6 ≠ 0 ∧ (0x1F : Word).getLsbD 4 = true ∧ RangeOk (st id) ((0x7BE00 : Nat)) 512 64 ∧ bits (0x1F : Word) 3 0 ≠ (st id).my.active
    ∧ (st id).my.pending ≠ some (bits (0x1F : Word) 3 0) ∧ (st id).my.spPoisoned 0x7BE00 512 = false
    ∧ (∀ e < 256, slotEntryOk ((st id).my.sp.le (0x7BE00 + 2 * e) 2) = true) ∧ slotEntryOk 0x8000 = false ∧ slotEntryOk 1 = false ∧ slotEntryOk 6 = false := by
  refine ⟨⟨by decide, by decide⟩, and4 (by decide) ⟨by decide, by decide,
    range_ok _ _ _ _ (by decide) (by decide) (by decide) (by decide) (by decide), by decide⟩⟩
/-- H (context 4) trapped by a watchdog, and by another cause. -/
theorem wit_TrapReturn : Firmware (fw id fun x => x.onCtx 4 fun k => { k with status := .trapped, trapc := 0x1A }) ∧ bits (4 : Word) 63 4 = 0 ∧ bits (4 : Word) 2 0 ≤ 4
    ∧ ((fw id fun x => x.onCtx 4 fun k => { k with status := .trapped, trapc := 0x1A }).ctxAt 0 4).status = .trapped
    ∧ bits ((fw id fun x => x.onCtx 4 fun k => { k with status := .trapped, trapc := 0x1A }).ctxAt 0 4).trapc 4 0 = 0x1A
    ∧ ((fw id).ctxAt 0 4).status ≠ .trapped ∧ (0xC : Word).getLsbD 3 = true ∧ bits (2 : Word) 1 0 ≠ 0 ∧ (4 : Word).getLsbD 3 = false := ⟨⟨by decide, by decide⟩, by decide⟩
theorem wit_PrivilegedEffects : Firmware (fw id) ∧ (fw id).me.wait = none ∧ bits (0 : Word) 6 0 = 0 ∧ bits (0 : Word) 63 52 = (fw id).my.dom
    ∧ bits (0x0010000000000000 : Word) 63 52 ≠ (fw id).my.dom ∧ bits (2 : Word) 63 2 = 0 ∧ bits (2 : Word) 1 0 ≠ 3
    ∧ (∀ big : Bool, (fw id).my.usesRemoved 0 2 big = false) ∧ (bits (0xFFE : Word) 63 12 = 0 ∧ bits (0xFFE : Word) 11 0 ≠ 0 ∧ bits (0xFFE : Word) 11 0 ≠ 0xFFF)
    ∧ (bits (0xFFE0000000000000 : Word) 63 52 ≠ 0 ∧ bits (0xFFE0000000000000 : Word) 63 52 ≠ 0xFFF) ∧ bits (0x1FFE : Word) 63 13 = 0
    ∧ (bits (6 : Word) 63 3 = 0 ∧ bits (6 : Word) 1 0 ≠ 3) ∧ ({ fw id with domains := [dom1 0xFFE 0 []] } : State).domain 0xFFE = some (dom1 0xFFE 0 [])
    ∧ (fw id).domain 1 = none ∧ (fw id fun x => { x with sEvents := [.trap 4] }).my.sEvents = .trap 4 :: []
    ∧ RangeOk (fw id) ((0x7FF68 : Nat)) 152 8 ∧ StoresDone (fw id) ∧ (fw id).my.loopIn = [] ∧ (fw id).my.spPoisoned 0x7FF68 152 = false
    ∧ (h0Of ((fw id).loopMsg true 0x7FF68).h0).len ≤ 16 := by
  refine ⟨⟨by decide, by decide⟩, and4 (by decide) ⟨by decide, by decide, by decide, by decide, (and4 (by decide) ⟨by decide, by decide, range_ok _ _ _ _ (by decide) (by decide) (by decide) (by decide) (by decide), ⟨by decide, by decide⟩, by decide, by decide, by decide⟩)⟩⟩
theorem wit_FrameOfRegisterForms : quiet (.ldd 4 5 0) = true ∧ floats (.fmadd 4 5 6 7 .d) = true ∧ (∃ t, exec (.ldd 4 5 0) (st id) = .next t)
    ∧ ∃ t, exec (.fmadd 4 5 6 7 .d) (st id) = .next t := ⟨rfl, rfl, ⟨_, rfl⟩, ⟨_, rfl⟩⟩
/-- A store that does not trap, with an injection armed for the scratchpad. -/
theorem wit_FrameOfStores : ∃ t, exec (.std 4 5 0) (st id fun x => { x with errinj := 0x8000000000000000 }) = .next t
    ∧ (∀ c va, t ≠ (st id fun x => { x with errinj := 0x8000000000000000 }).trapMe c va)
    ∧ (st id fun x => { x with errinj := 0x8000000000000000 }).my.armed 0 = true := by
  refine ⟨_, rfl, fun c va h => ?_, by decide⟩
  have h := congrArg (fun t : State => t.me.status) h
  have e : ((st id fun x => { x with errinj := 0x8000000000000000 }).trapMe c va).me.status = .trapped := by cases c <;> rfl
  exact absurd (h.trans e) (by decide)
theorem wit_MemoryFormKept : MemForm State.reset ∧ ∃ t, step (State.reset.withFetchWord 32 0x04221800) = .next t := by
  refine ⟨⟨by decide, by decide, by decide, by decide, by decide⟩, _, rfl⟩
/-- The largest FP16 number and a subnormal one. -/
theorem wit_RoundingExact : fp16 ∈ [fp64, fp32, bf16, fp16] ∧ 0x7BFF < 2 ^ fp16.width ∧ (fp16.dec 0x7BFF).isNan = false ∧ (fp16.dec 1).isNan = false
    ∧ (⟨rmOf 0, false, 0⟩ : Mode).sat = false := by decide

/-! ### States that meet the hypotheses of the statements: the steps of the other agents -/

/-- A queue of depth 1 with slots waiting. -/
def que (sl : List Slot) (spilling := false) (ring : List Slot := []) (cls : QClass := .low) : Queue :=
  { Queue.reset with en := true, spilling := spilling, ring := ring, waiting := sl, weight := 1, cls := cls }
/-- Tile 0 in domain 1, with handler 5 of one operand on queue 15 and handler 6 of two on queue 0. -/
def node (f : Tile → Tile := id) (d : Domain → Domain := id) : State :=
  ({ State.reset with phase := .issue, domains := [d (dom1 1 0 [0])], tables := tablesOf 1 } : State).onTile 0 fun x => f { x with
    dom := 1, hcache := [(1, 5, ⟨0x2000, 15, false, false⟩), (1, 6, ⟨0x2000, 0, true, false⟩)]
    queues := vset (vset x.queues 15 (que [])) 0 (que []) }
/-- A message of domain 1, colour 1 to a handler of tile 0. -/
def msgTo (hid : Nat) (reply : Bool := false) (len : Nat := 0) : Msg := ⟨header 0 hid reply len, 0, 0x0010010000000000, List.replicate len 0⟩
/-- One operand of handler 6, of the left or the right port. -/
def operand (port : Bool) : Msg :=
  ⟨({ dst := 0, hid := 6, vn := false, pri := false, port := port, len := 8, triple := false, copy := 0, drop := false, cnt := 0 } : H0).word, 0,
    0x0010010000000000, List.replicate 8 0⟩

theorem wit_ArriveRules : (node.tile 0).killed (msgTo 5).tag = false ∧ (h0Of (msgTo 5).h0).hid ≠ 0xFFF ∧ domOf (msgTo 5).tag = (node.tile 0).dom ∧ (node.tile 0).dom ≠ 0
    ∧ ((node fun x => { x with kills := [(1, 1)] }).tile 0).killed (msgTo 5).tag = true ∧ domOf (0x0020010000000000 : Word) ≠ (node.tile 0).dom
    ∧ (h0Of (msgTo 0xFFF).h0).hid = 0xFFF ∧ (h1Of (msgTo 0xFFF).h1).src = node.addr 0 ∧ node.validHandler 0 1 7 = none
    ∧ node.validHandler 0 1 5 = some ⟨0x2000, 15, false, false⟩ ∧ node.validHandler 0 1 6 = some ⟨0x2000, 0, true, false⟩
    ∧ (8 < (9 : Nat)) ∧ (h0Of (operand true).h0).len ≤ 8 ∧ HasRoom node 0 15 ∧ NoFire node 0 (msgTo 5) .net
    ∧ ((node fun x => { x with store := [oneSlot (operand false)] }).tile 0).store = [] ++ oneSlot (operand false) :: []
    ∧ partners (operand false) (operand true) = true ∧ (node.tile 0).areaUsed = 0 ∧ (node.tile 0).storeUsed < 512
    ∧ 0 < ((node fun x => { x with area := [oneSlot (operand false)] }).tile 0).areaUsed
    ∧ (∃ u ∈ ((node fun x => { x with area := [oneSlot (operand false)] }).tile 0).area, partners u.msg (operand true) = true)
    ∧ (∀ u ∈ ((node fun x => { x with area := [oneSlot (operand false)] }).tile 0).store, partners u.msg (operand true) = false)
    ∧ 512 ≤ ((node fun x => { x with store := List.replicate 512 (oneSlot (msgTo 5)) }).tile 0).storeUsed
    ∧ (node.tile 0).withdrawn = false ∧ ((node fun x => { x with withdrawn := true }).tile 0).withdrawn = true
    ∧ (node.tile 0).armed 2 = false ∧ (node.tile 0).armed 3 = false ∧ (node.tile 0).svc.length < 8
    ∧ (((node fun x => { x with queues := vset x.queues 15 (que [] true) }).tile 0).queue 15).spilling = true
    ∧ (((node fun x => { x with queues := vset x.queues 15 (que [oneSlot (msgTo 5)]) }).tile 0).queue 15).depth
      ≤ ((node fun x => { x with queues := vset x.queues 15 (que [oneSlot (msgTo 5)]) }).tile 0).occupancy 15
    ∧ ((node.tile 0).queue 15).spill = false ∧ (h0Of (msgTo 5).h0).vn = false ∧ (h0Of (msgTo 5 true).h0).vn = true
    ∧ (node id fun d => { d with spillPool := 16384 }).poolRoom 1 0 = true := by
  refine ⟨by decide, by decide, by decide, by decide, (and4 (by decide) ⟨by decide, by decide, by decide, by decide, by decide,
    ⟨by decide, by decide, by decide⟩, fun _ => .inl (by decide), and4 (by decide) ⟨by decide, by decide, by decide, ?_,
    by decide⟩⟩)⟩
  show 512 ≤ (List.replicate 512 (oneSlot (msgTo 5))).length + _
  rw [List.length_replicate]
  exact Nat.le_add_right _ _
theorem wit_ReturnRules : node.domain (domOf (msgTo 5).tag) = some (dom1 1 0 [0]) ∧ (h1Of (msgTo 5).h1).returned = false
    ∧ (h1Of (⟨0, 0, 0, true, 0⟩ : H1).word).returned = true := by decide
/-- A message of PRI 1 from tile 1. -/
def urgent : Msg :=
  ⟨({ dst := 0, hid := 5, vn := false, pri := true, port := false, len := 0, triple := false, copy := 0, drop := false, cnt := 0 } : H0).word,
    (⟨1, 0, 0, false, 0⟩ : H1).word, 0x0010010000000000, []⟩
/-- Each kind of entry of S's loop; a message of PRI 1 that overtakes one of PRI 0 from another source, none of them late; a verdict, which
needs S, with the service buffer empty and full. -/
theorem wit_ArrivalSteps : ∃ s : State, (s.tile 0).loopIn = [.msg (msgTo 5) false, .ring 15, .pair]
    ∧ s.net = [pkt (msgTo 5) false 0 true true] ++ pkt urgent false 0 true true :: []
    ∧ (h0Of urgent.h0).pri = true ∧ (h0Of (msgTo 5).h0).pri = false ∧ (h1Of (msgTo 5).h1).src ≠ (h1Of urgent.h1).src
    ∧ s.entryLate 0 0 (msgTo 5) = false ∧ s.entryLate 0 1 urgent = false ∧ s.needsS 0 urgent = false
    ∧ s.needsS 0 (msgTo 0xFFF) = true ∧ (s.tile 0).svc.length < 8 ∧ s.entryLate 0 0 (msgTo 0xFFF) = false
    ∧ 8 ≤ ((node fun x => { x with svc := List.replicate 8 (.verdict (msgTo 5)) }).tile 0).svc.length := by
  refine ⟨{ node (fun x => { x with loopIn := [.msg (msgTo 5) false, .ring 15, .pair] }) with
    net := [pkt (msgTo 5) false 0 true true, pkt urgent false 0 true true] }, ?_⟩
  decide
/-- A vote of one copy, at its last beat, just past it, and decided. -/
def vote1 (decided : Bool) (overflowed : Bool := false) : Vote := ⟨5, 0x0010010000000000, false, voteOrigin (msgTo 5), [msgTo 5], decided, 0, overflowed, false⟩
theorem wit_VoteRules : ((node fun x => { x with votes := [vote1 false] }).tile 0).votes = [] ++ vote1 false :: []
    ∧ ((vote1 false).hid == (h0Of (msgTo 5).h0).hid && (vote1 false).tag == (msgTo 5).tag && (vote1 false).port == (h0Of (msgTo 5).h0).port
      && (vote1 false).origin == voteOrigin (msgTo 5)) = true ∧ (vote1 false).copies = [msgTo 5]
    ∧ ({ node with beat := 65535 } : State).beat < (vote1 true).first + 65536 ∧ (vote1 true).first + 65536 ≤ ({ node with beat := 65536 } : State).beat
    ∧ colOf (vote1 false).tag ≠ 0 ∧ (∃ d, node.domain (domOf (vote1 false).tag) = some d ∧ d.moving = false ∧ ∀ u ∈ d.tiles, (node.tile u).kills.length < 64)
    ∧ (node.tile 0).killed (msgTo 5).tag = false ∧ (∀ v ∈ (node.tile 0).votes, v.hid ≠ 5) ∧ (node.tile 0).areaUsed = 0 ∧ (node.tile 0).storeUsed < 512
    ∧ 0 < ((node fun x => { x with votes := [vote1 false true] }).tile 0).areaUsed
    ∧ (node fun x => { x with votes := [vote1 false true] }).poolRoom 1 ((node fun x => { x with votes := [vote1 false true] }).tile 0).areaUsed = true := by
  refine (and4 (by decide) ⟨by decide, by decide, ⟨dom1 1 0 [0], by decide, by decide, by decide⟩, by decide⟩)
/-- A ring of one entry whose refill is due, has entered the service buffer, and comes by S's loop; a spill to be served; an empty ring. -/
theorem wit_RefillRules : ∃ f : List SvcItem → List LoopIn → State, (∀ v l, f v l = node fun x => { x with
      svc := v, loopIn := l, queues := vset x.queues 15 (que [] true [oneSlot (msgTo 5)]) })
    ∧ ((f [] []).tile 0).occupancy 15 < (((f [] []).tile 0).queue 15).depth ∧ (((f [] []).tile 0).queue 15).ring = oneSlot (msgTo 5) :: []
    ∧ ((f [] []).tile 0).occupancy 15 ≤ (((f [] []).tile 0).queue 15).depth / 2 ∧ ((f [] []).tile 0).svc.length < 8
    ∧ SvcItem.spill 15 ∉ ((f [] []).tile 0).svc ∧ SvcItem.refill 15 ∉ ((f [] []).tile 0).svc ∧ SvcItem.refill 15 ∈ ((f [.refill 15] []).tile 0).svc
    ∧ SvcItem.spill 15 ∈ ((f [.spill 15] []).tile 0).svc ∧ ((f [.refill 15] []).tile 0).loopIn = [] ∧ ((f [] [.ring 15]).tile 0).loopIn = .ring 15 :: []
    ∧ (oneSlot (msgTo 5)).bad = false ∧ ((f [] []).tile 0).armed 2 = false ∧ ((node.tile 0).queue 15).ring = [] :=
  ⟨fun v l => node fun x => { x with svc := v, loopIn := l, queues := vset x.queues 15 (que [] true [oneSlot (msgTo 5)]) }, fun _ _ => rfl, by decide⟩
/-- Two operands that pair in the area; a store at its limit of 256 and above. -/
theorem wit_OverflowRules : ((node fun x => { x with area := [oneSlot (operand false), oneSlot (operand true)] }).tile 0).area[0]? = some (oneSlot (operand false))
    ∧ ((node fun x => { x with area := [oneSlot (operand false), oneSlot (operand true)] }).tile 0).area[1]? = some (oneSlot (operand true))
    ∧ partners (operand false) (operand true) = true ∧ node.handler 0 1 6 = some ⟨0x2000, 0, true, false⟩ ∧ HasRoom node 0 0
    ∧ (∀ u ∈ ((node fun x => { x with area := [oneSlot (operand false), oneSlot (operand true)] }).tile 0).area, u.bad = false) ∧ (node.tile 0).votes = []
    ∧ ((node fun x => { x with loopIn := [.pair] }).tile 0).loopIn = .pair :: []
    ∧ ((node fun x => { x with store := List.replicate 256 (oneSlot (operand false)) }).tile 0).storeUsed ≤ 256
    ∧ 256 < ((node fun x => { x with store := List.replicate 257 (oneSlot (operand false)) }).tile 0).storeUsed := by
  refine ⟨by decide, by decide, by decide, by decide, ⟨by decide, by decide, by decide⟩, by decide, by decide, by decide, by decide, by decide⟩
theorem wit_TimerRules : ({ node with beat := 1024 } : State).beat % 1024 = 0 ∧ ({ node with beat := 1023 } : State).beat % 1024 ≠ 0
    ∧ node.domain 1 = some (dom1 1 0 [0]) ∧ (dom1 1 0 [0]).moving = false ∧ (dom1 1 0 [0]).resumedAt ≠ some 1024
    ∧ (∃ d, (node id fun d => { d with resumedAt := some 0 }).domain 1 = some d ∧ d.resumedAt = some (node id fun d => { d with resumedAt := some 0 }).beat)
    ∧ ((node fun x => { x with freshCnt := some 63 }).tile 0).freshCnt = some 63
    ∧ ((node fun x => x.setCounter 63 ⟨3, 8, 0, 0, true, false, true⟩).tile 0).counter 63 = ⟨3, 8, 0, 0, true, false, true⟩
    ∧ ∀ c < 64, (((node fun x => x.setCounter 63 ⟨3, 8, 0, 0, true, false, true⟩).tile 0).counter c).armed = true →
      min ((((node fun x => x.setCounter 63 ⟨3, 8, 0, 0, true, false, true⟩).tile 0).counter c).value + 1) (2 ^ 32 - 1)
        < (((node fun x => x.setCounter 63 ⟨3, 8, 0, 0, true, false, true⟩).tile 0).counter c).threshold := by decide
/-- A ready low queue, and a ready high one with H FREE. -/
theorem wit_DispatchRules : (node.tile 0).dispatches = true ∧ (State.reset.tile 0).dispatches = false
    ∧ ((node fun x => { x with queues := vset x.queues 15 (que [oneSlot (msgTo 5)]) }).tile 0).ready 15 = true
    ∧ (((node fun x => { x with queues := vset x.queues 15 (que [oneSlot (msgTo 5)]) }).tile 0).queue 15).cls.isHigh = false
    ∧ (((node fun x => { x with queues := vset x.queues 15 (que [oneSlot (msgTo 5)]) }).tile 0).queue 15).waiting = oneSlot (msgTo 5) :: []
    ∧ ((node.tile 0).ctx 4).status = .free ∧ ((node.tile 0).ctx 0).status = .free
    ∧ (((node fun x => { x with queues := vset x.queues 15 (que [oneSlot (msgTo 5)] false [] .rhigh) }).tile 0).queue 15).cls.isHigh = true := by decide
theorem wit_ColourRules : ∃ (s : State) (r : GReq) (d : Domain), (s.ctxAt 0 5).wait = some (.sent r) ∧ r.kind = .tgNew ∧ s.domain r.x.toNat = some d
    ∧ 4095 < 4096 ∧ s.colourFree d 4095 = true ∧ (∃ e : Domain, e = { d with federation := [0] } ∧ ∃ m ∈ e.federation, m < ({ s with modNo := 1 } : State).modNo)
    ∧ ∀ b, 1 ≤ b → b < 4096 → s.colourFree { d with colours := (List.range 4096).map fun c => ⟨c, 0, 0, 0, false⟩ } b = false := by
  refine ⟨node fun x => x.onCtx 5 fun k => { k with wait := some (.sent ⟨.tgNew, 0, 0, 0, false, 0, 1, 0⟩) }, ⟨.tgNew, 0, 0, 0, false, 0, 1, 0⟩, dom1 1 0 [0],
    by decide, by decide, by decide, by decide, by decide, ⟨_, rfl, 0, by decide, by decide⟩, fun b _ hb => ?_⟩
  have h : ((List.range 4096).map fun c => (⟨c, 0, 0, 0, false⟩ : Colour)).any (fun k => k.col == b) = true :=
    List.any_eq_true.mpr ⟨⟨b, 0, 0, 0, false⟩, List.mem_map.mpr ⟨b, List.mem_range.mpr hb, rfl⟩, beq_self_eq_true b⟩
  unfold State.colourFree
  rw [h]
  rfl
/-- A join that opens an episode of two, and one that completes it. -/
def join1 : Join := ⟨0, 0x0010010000000000, 15, 2, 1, 5, 7, 0x100, List.replicate 16 1⟩
def episode1 : Episode := ⟨15, 2, 1, 5, 0x100, 3, 1, false, List.replicate 16 (2 ^ 32 - 1), [(0, 0x0010010000000000)]⟩
theorem wit_JoinRules : ((node fun x => { x with joins := [join1] }).tile 0).joins = join1 :: [] ∧ node.domain (domOf join1.tag) = some (dom1 1 0 [0])
    ∧ (dom1 1 0 [0]).episodes.find? (·.g == join1.g) = none ∧ (1 : Nat) ≠ join1.n
    ∧ [episode1].find? (·.g == join1.g) = some episode1 ∧ episode1.count + 1 = episode1.n
    ∧ (episode1.place + 128 ≤ 2 ^ 40 ∧ episode1.place % 128 = 0 ∧ node.mem.wf = true ∧ node.groupAt episode1.place = none ∧ node.failedAt episode1.place = false) := by
  decide
theorem wit_CompletionRules : ((node fun x => { x with completions := [(msgTo 5, 15, 7)] }).tile 0).completions = (msgTo 5, 15, 7) :: []
    ∧ (node.tile 0).completions = [] := by decide
/-- A line of die 0 that holds 64 bytes dirty. -/
def line0 (n : Nat) : CacheLine := ⟨0, n, 0, BitVec.allOnes 128, BitVec.ofNat 128 (2 ^ 64 - 1), 0, 0, 0⟩
/-- The last doubleword of stack 0, uncached, with and without a line in the die's cache; and one of a cached line; a viral die. -/
theorem wit_StoreRules : ∃ s : State, (s.ctxAt 0 0).storeQ = ⟨0, 2 ^ 36 - 8, 8, 7, false, 0⟩ :: [⟨0, 2 ^ 36 - 8, 8, 7, true, 0⟩] ∧ (s.tile 0).replay = false
    ∧ s.targetDown 0 (2 ^ 36 - 8) = false ∧ Solo s (2 ^ 36 - 8) ∧ s.mem.wf = true ∧ (2 ^ 36 - 8) % 128 + 8 ≤ 128
    ∧ ((node fun x => { x with replay := true }).tile 0).replay = true ∧ (s.ctxAt 0 1).storeQ = [] ∧ s.viralAt 0 = false
    ∧ ({ s with dies := vset s.dies 0 { Die.reset with viral := true } } : State).viralAt 0 = true
    ∧ s.line? (dieOf 0) ((2 ^ 36 - 8) / 128) = none ∧ (({ s with caches := [line0 ((2 ^ 36 - 8) / 128)] } : State).line? (dieOf 0) ((2 ^ 36 - 8) / 128)).isSome = true
    ∧ (s.caches.filter fun l => l.die == dieOf 0 && cacheSetOf l.line == cacheSetOf ((2 ^ 36 - 8) / 128)).length < 16 ∧ ∀ x, (s.tile x).armed 5 = false := by
  refine ⟨node fun x => x.onCtx 0 fun k => { k with storeQ := [⟨0, 2 ^ 36 - 8, 8, 7, false, 0⟩, ⟨0, 2 ^ 36 - 8, 8, 7, true, 0⟩] },
    by decide, by decide, by decide, ⟨by decide, by decide, by decide⟩, and4 (by decide) ⟨by decide, by decide, by decide,
    by decide, by decide, fun x => ?_⟩⟩
  by_cases h : x % 32768 = 0 % 32768
  · unfold State.tile
    rw [h]
    decide
  · unfold node
    rw [tile_onTile_ne _ _ h]
    exact (by decide : Tile.reset.armed 5 = false)
theorem wit_AnswerRules : ∃ (s : State) (r : GReq), (s.ctxAt 0 0).wait = some (.sent r) ∧ r.kind = .load ∧ r.cached = false ∧ s.targetDown 0 r.pa = false
    ∧ s.memPoisoned r.pa r.size = false ∧ (s.ctxAt 0 0).storeQ = [] ++ ⟨0, 2 ^ 36 - 8, 8, 7, false, 0⟩ :: [] ∧ 2 ^ 36 - 8 ≤ r.pa ∧ r.pa < 2 ^ 36 - 8 + 8
    ∧ ({ s with memPoison := [2 ^ 36 - 8] } : State).memPoisoned r.pa r.size = true ∧ s.viralAt 0 = false ∧ r.size ∈ [1, 2, 4, 8, 128] ∧ r.pa % r.size = 0
    ∧ s.memPoisoned (r.pa / 128 * 128) 128 = false ∧ s.line? (dieOf 0) (r.pa / 128) = none
    ∧ ({ s with caches := [line0 (r.pa / 128)] } : State).line? (dieOf 0) (r.pa / 128) = some (line0 (r.pa / 128)) ∧ (line0 (r.pa / 128)).poison = 0
    ∧ (line0 (r.pa / 128)).dirty.getLsbD 0 = true ∧ (line0 (r.pa / 128)).dirty.getLsbD 127 = false := by
  refine ⟨node fun x => x.onCtx 0 fun k => { k with storeQ := [⟨0, 2 ^ 36 - 8, 8, 7, false, 0⟩], wait := some (.sent ⟨.load, 0, 2 ^ 36 - 8, 8, false, 0, 0, 0⟩) },
    ⟨.load, 0, 2 ^ 36 - 8, 8, false, 0, 0, 0⟩, ?_⟩
  decide
theorem wit_AnswerRules_atomics : ∃ (s : State) (r q : GReq), (s.ctxAt 0 0).wait = some (.sent r) ∧ r.kind = .fxadd ∧ (s.tile 0).replay = false
    ∧ s.targetDown 0 r.pa = false ∧ s.mustRetry 0 r = false ∧ s.line? (dieOf 0) (r.pa / 128) = none ∧ s.memPoisoned r.pa r.size = false ∧ Solo s r.pa
    ∧ s.mem.wf = true ∧ (s.ctxAt 0 1).wait = some (.sent q) ∧ q.kind = .acq ∧ BitVec.ofNat 64 (s.memLe q.pa 8) = q.x ∧ Solo s q.pa
    ∧ s.viralAt 0 = false ∧ (s.ctxAt 0 0).storeQ = [] ∧ r.kind.isAtomic = true ∧ r.kind.served = false
    ∧ ((s.onCtx 0 0 fun k => { k with storeQ := [⟨0, 64, 8, 7, false, 0⟩] }).ctxAt 0 0).storeQ ≠ []
    ∧ (∃ u : State, u = (s.onTile 0 fun x => { x with tlb := [⟨0, 1, (2 ^ 36 - 16) / 65536, false, 0, 0xFFFF00B7⟩] }) ∧ u.mustRetry 0 { r with va := 2 ^ 36 - 16 } = true) := by
  refine ⟨node fun x => (x.onCtx 0 fun k => { k with wait := some (.sent ⟨.fxadd, 0, 2 ^ 36 - 16, 16, false, 0, 0x3F800000, 0⟩) }).onCtx 1 fun k =>
      { k with wait := some (.sent ⟨.acq, 0, 64, 8, false, 8, 0, 1⟩) },
    ⟨.fxadd, 0, 2 ^ 36 - 16, 16, false, 0, 0x3F800000, 0⟩, ⟨.acq, 0, 64, 8, false, 8, 0, 1⟩, ?_⟩
  refine (and4 (by decide) ⟨by decide, by decide, by decide, ⟨by decide, by decide, by decide⟩, by decide, by decide, by decide,
    by decide, ⟨by decide, by decide, by decide⟩, by decide, and4 (by decide) ⟨_, rfl, by decide⟩⟩)
theorem wit_FetchRules : (st fun k => { k with pc := 0x1002 }).pc.toNat % 4 ≠ 0 ∧ (st fun k => { k with pc := 2 ^ 52 - 4 }).pc.toNat % 4 = 0
    ∧ (st fun k => { k with pc := 2 ^ 52 - 4 }).fetchAt 0 0 = .miss ∧ (st fun k => { k with pc := 2 ^ 52 }).fetchAt 0 0 = .trap .pageFault := by decide

/-- Panes given to the RMA engine of domain 1 (16 to 19, 122, 123). -/
def given (x : Tile) : Tile :=
  { x with dom := 1, panes := [16, 17, 18, 19, 122, 123].foldl (fun v p => vset v p (⟨.rma, false, 1, 0⟩ : Pane)) x.panes }
/-- Two tiles of domain 1 with panes of their RMA engines; a request waits on the first. -/
def pair (r : AsyncReq) (f : Tile → Tile := id) : State :=
  (node (fun x => f { given x with asyncQ := [r] }) fun d => { d with tiles := [0, 1] }).onTile 1 given
/-- A GET and a PUT of 16 bytes between the last of pane 123 here and there, and an atomic on the last doubleword. -/
def getReq : AsyncReq := ⟨.get, 0, 1, 1, 1, 0x1007BFF0, 0x7BFF0, 16, none⟩
def putReq : AsyncReq := ⟨.put, 0, 1, 1, 1, 0x1007BFF0, 0x7BFF0, 16, none⟩
def atomReq : AsyncReq := ⟨.ratom 0, 0, 1, 1, 1, 0x1007BFF8, 0x0000100000000000, 0, none⟩
/-- The target word names tile 1. -/
def tileOne (r : AsyncReq) : AsyncReq := { r with x := 0x10000000000 + r.x % 0x1000000 % 0x80000 }

/-- An operation accepted, with the words it read. -/
def accepted (r : AsyncReq) (words : List Nat := []) : RmaOp := ⟨r, words, [], 0, [], 0⟩
/-- As `pair`, but the tile's engine has accepted its one operation. -/
def pairOp (r : AsyncReq) (words : List Nat := []) (f : Tile → Tile := id) : State :=
  pair r fun x => f { x with asyncQ := [], rmaOps := [accepted r words] }
/-- A GETX of one doubleword with its list at 0x1000. -/
def listReq : AsyncReq := ⟨.getx, 0, 1, 1, 1, 0x10000000000, 0x7BFF0, 0x0007000100001000, none⟩
theorem wit_RmaAccepts : ((pair (tileOne getReq)).tile 0).asyncQ = [] ++ tileOne getReq :: [] ∧ (tileOne getReq).op.isRma = true
    ∧ Config.pick (pair (tileOne getReq)).fv % (((pair (tileOne getReq)).tile 0).rmaOps.length + 1) = ((pair (tileOne getReq)).tile 0).rmaOps.length
    ∧ (((pair (tileOne getReq)).tile 0).frozen = false ∧ ((pair (tileOne getReq) fun x => { x with frozen := true }).tile 0).frozen = true
      ∧ (pair (tileOne getReq)).portCheck 0 1 .rma [(0x7BFF0, 16)] = none ∧ (pair (tileOne getReq)).portCheck 0 1 .rma [(0x7BFF0, 17)] = some 3)
    ∧ ((pair (tileOne putReq)).portCheck 0 1 .rma [(0, 16)] = some 2 ∧ (tileOne putReq).op = .put
      ∧ ((pair (tileOne putReq) fun x => { x with replay := true }).tile 0).replay = true ∧ ((pair (tileOne putReq)).tile 0).replay = false)
    ∧ (listReq.op = .getx ∧ bits listReq.z 18 0 = 0x1000 ∧ bits listReq.z 44 32 = 1 ∧ (pair listReq).coreStill 0 0x1000 4 = true
      ∧ (pair listReq fun x => { x with panes := vset x.panes 1 ⟨.mm, false, 1, 0⟩ }).coreStill 0 0x1000 4 = false
      ∧ ((pair listReq fun x => { x with spPoison := [0x1000] }).tile 0).spPoisoned 0x1000 4 = true)
    ∧ (tileOne atomReq).op = .ratom 0 ∧ bits (tileOne atomReq).y 50 32 = 0x1000 ∧ (tileOne atomReq).y.getLsbD 62 = false
    ∧ (pair (tileOne atomReq)).coreStill 0 0x1000 8 = true ∧ ((pair (tileOne atomReq)).tile 0).spPoisoned 0x1000 8 = false :=
  ⟨by decide, by decide, Nat.mod_one _, by decide⟩
/-- The only operation of a tile is the one its engine performs next; of two, either may be; and of one and a request, either. -/
theorem wit_Performs : Performs (pairOp (tileOne getReq)) 0 [] (accepted (tileOne getReq)) []
    ∧ (∃ a o b, Performs (pairOp (tileOne getReq) [] fun x => { x with rmaOps := [accepted getReq, accepted putReq] }) 0 a o b) := by
  refine ⟨⟨⟨rfl, Nat.mod_one _⟩, by decide⟩, ?_⟩
  have h : Config.pick (pairOp (tileOne getReq) [] fun x => { x with rmaOps := [accepted getReq, accepted putReq] }).fv % 2 = 0
      ∨ Config.pick (pairOp (tileOne getReq) [] fun x => { x with rmaOps := [accepted getReq, accepted putReq] }).fv % 2 = 1 := by omega
  rcases h with h | h
  · exact ⟨[], accepted getReq, [accepted putReq], ⟨rfl, h⟩, by decide⟩
  · exact ⟨[accepted getReq], accepted putReq, [], ⟨rfl, h⟩, by decide⟩
theorem wit_CopyPorts : (accepted (tileOne getReq)).moved = 0 ∧ (tileOne getReq).y.getLsbD 63 = false ∧ bits (tileOne getReq).x 63 40 = 1
    ∧ bits (tileOne getReq).x 18 0 = 0x7BFF0 ∧ (pairOp (tileOne getReq)).targetGone 0 1 1 = false ∧ 1 / 32768 = (pairOp (tileOne getReq)).modNo
    ∧ ((pairOp (tileOne getReq)).portCheck 1 1 .rma [(0x7BFF0, 16)] = none ∧ 1 ≠ 0 % 32768 ∧ 16 % 8 = 0
      ∧ ((pairOp (tileOne getReq)).tile 1).spPoisoned 0x7BFF0 16 = false ∧ ((pairOp (tileOne getReq)).tile 1).sp.wf = true
      ∧ ((pairOp (tileOne getReq)).tile 0).armed 0 = false ∧ ((pairOp (tileOne getReq)).tile 1).armed 0 = false)
    ∧ (pairOp (tileOne putReq)).portCheck 1 1 .rma [(0x7BFF0, 17)] = some 3 ∧ (pairOp (tileOne putReq)).targetGone 0 1 2 = true
    ∧ (tileOne putReq).op.isPut = true ∧ bits (tileOne putReq).x 37 32 = 0 ∧ ((pairOp (tileOne putReq)).tile 0).sp.wf = true
    ∧ ((pairOp (tileOne putReq)).tile 0).spPoisoned 0x7BFF0 16 = false := by decide
theorem wit_AtomicPorts : ∃ (s : State) (r : AsyncReq), Performs s 0 [] (accepted r [5, 0]) [] ∧ r.op = .ratom 0 ∧ r.y.getLsbD 63 = false
    ∧ r.y.getLsbD 62 = false ∧ s.targetGone 0 r.dom (bits r.x 63 40) = false
    ∧ bits r.x 63 40 / 32768 = s.modNo ∧ s.portCheck (bits r.x 63 40 % 32768) r.dom .rma [(bits r.x 18 0, 8)] = none
    ∧ (s.tile (bits r.x 63 40 % 32768)).spPoisoned (bits r.x 18 0) 8 = false ∧ (s.tile (bits r.x 63 40 % 32768)).armed 0 = false
    ∧ (s.tile (bits r.x 63 40 % 32768)).sp.wf = true :=
  ⟨pairOp (tileOne atomReq) [5, 0], tileOne atomReq, ⟨⟨rfl, Nat.mod_one _⟩, by decide⟩, by decide⟩
/-- An operation done, and one whose packet module 2 dropped, with no reservation there and with one. -/
theorem wit_Completions : ∃ o p : DoneOp, o = ⟨.get, 5, 31, 1, 1, 0, [(0, 123)], [], 0, none⟩
    ∧ p = { o with op := .put, far := [2], bytes := 8, dropped := some 2 }
    ∧ ((node fun x => { x with rmaDone := [o] }).tile 0).rmaDone = [] ++ o :: []
    ∧ 5 * 32 + (31 : Reg).toNat = 191 ∧ ((node.tile 0).pane 123).releasing = false ∧ (node.tile 0).rmaDone = []
    ∧ p.dropped = some 2 ∧ o.dropped = none ∧ node.granted 2 (.rma 0) p.bytes = false
    ∧ ({ node with grants := [⟨2, .rma 0, 0, 8, 0, 0⟩] } : State).granted 2 (.rma 0) p.bytes = true :=
  ⟨⟨.get, 5, 31, 1, 1, 0, [(0, 123)], [], 0, none⟩, _, rfl, rfl, by decide⟩
/-- The descriptor of an INT8 run of one tile: 32 by 32 by 32, A in pane 16, B in pane 17, the accumulator in pane 18, from beat 8. -/
def mmDws : List Word := [0x8860003004100000, 0x1000008010400, 0x8, 0x2000010000, 0x2000011000, 0x0, 0x12000, 0x0]
def mmRun : Run := ⟨⟨.mmrun, 0, 1, 1, 1, 0x1000, 0, 0, none⟩, mmDws, 0, 0, 8, 0, 0, false, none, false, 1, []⟩
/-- Panes of the Marimba of domain 1, and the beat of the first block of that run. -/
def mmNode : State :=
  { node fun x => { x with
      panes := [16, 17, 18].foldl (fun v p => vset v p (⟨.mm, false, 1, 0⟩ : Pane)) x.panes, running := some mmRun } with beat := mmRun.blockBeat 0 }
theorem wit_RunAccept_accepted : mmRun.ok = true ∧ mmRun.timely (node.tile 0) 0 = true ∧ mmRun.timely (node.tile 0) 1 = false
    ∧ mmNode.portCheck 0 1 .mm mmRun.areas = none ∧ node.portCheck 0 1 .mm mmRun.areas = some 2 := by decide
theorem wit_RunBlocks : (mmNode.tile 0).running = some mmRun ∧ mmRun.endsKilled mmNode.beat = false ∧ mmRun.atStop = false ∧ mmRun.base ≤ mmRun.prog
    ∧ mmRun.prog < mmRun.blocks ∧ mmRun.blockBeat mmRun.prog = mmNode.beat ∧ mmRun.i = 0 ∧ mmRun.j = 0 ∧ mmRun.west = true ∧ mmRun.north = true ∧ mmRun.acc = 3
    ∧ (mmNode.tile 0).injected = [] ∧ mmRun.vr ≤ 32 ∧ mmRun.vc ≤ 32 ∧ (mmNode.tile 0).spPoison = [] ∧ (mmNode.tile 0).armed 1 = false ∧ (mmNode.tile 0).sp.wf = true
    ∧ (∀ c ∈ [mmRun.afmt, mmRun.bfmt], 8 ≤ c ∧ c ≤ 10) ∧ mmRun.scale = 0 := by decide
theorem wit_RunAccept : ((node fun x => { x with asyncQ := [⟨.mmrun, 0, 1, 1, 1, 0x1000, 0, 0, none⟩] }).tile 0).asyncQ = [] ++ ⟨.mmrun, 0, 1, 1, 1, 0x1000, 0, 0, none⟩ :: []
    ∧ (node.tile 0).running = none ∧ node.coreStill 0 0x1000 64 = true ∧ (node.tile 0).spPoisoned 0x1000 64 = false
    ∧ (⟨⟨.mmrun, 0, 1, 1, 1, 0x1000, 0, 0, none⟩, [], 0, 0, 0, 0, 0, false, none, false, 0, []⟩ : Run).ok = false
    ∧ ((node fun x => { x with panes := vset x.panes 1 ⟨.mm, false, 1, 0⟩ }).coreStill 0 0x1000 64 = false) := by decide
theorem wit_RunEnds : ∃ r : Run, r.blocks ≤ r.prog ∧ r.tokenBeat = 33 ∧ r.killed = false ∧ r.ofmt = 0
    ∧ ((node fun x => { x with running := some r }).tile 0).running = some r := by
  refine ⟨⟨⟨.mmrun, 0, 1, 1, 1, 0x1000, 0, 0, none⟩, [0, 0, 0, 0, 0, 0, 0, 0], 0, 0, 32, 0, 0, false, none, false, 1, []⟩, ?_⟩
  decide
theorem wit_PhaseSwitch : ({ node with beat := 256 } : State).beat % 256 = 0 ∧ ({ node with beat := 255 } : State).beat % 256 ≠ 0
    ∧ ((node fun x => { x with pending := some 15 }).tile 0).pending ≠ none := by decide
/-- A SEGO request for engine 255, whose slots are free, all taken but one, and full. -/
def segoReq : AsyncReq := ⟨.sego, 0, 1, 1, 1, 0x1000, 255, 0, none⟩
def prog1 : Program := ⟨0, 1, segoReq, [], [], false, 0, 1, 0, 0, false, [], none, none, [], 0⟩
theorem wit_StreamStarts : ((node fun x => { x with asyncQ := [segoReq] }).tile 0).asyncQ = [] ++ segoReq :: [] ∧ (node.engine segoReq.y.toNat).slots = []
    ∧ node.engineGone 0 255 = false ∧ node.coreStill 0 0x1000 64 = true ∧ (node.tile 0).spPoisoned 0x1000 64 = false
    ∧ (newProgram ⟨0, 1, segoReq⟩ (List.replicate 8 0)).formOk = false ∧ (node.engine 255).waits = []
    ∧ (({ node with engines := [(255, ⟨List.replicate 3 prog1, [], [], false⟩)] } : State).engine 255).slots.length < 4
    ∧ (({ node with engines := [(255, ⟨List.replicate 3 prog1, [], [], false⟩)] } : State).engine 255).slots ≠ []
    ∧ ({ node with engines := [(255, ⟨[], [], [], true⟩)] } : State).engineGone 0 255 = true
    ∧ 4 ≤ (({ node with engines := [(255, ⟨List.replicate 4 prog1, [], [], false⟩)] } : State).engine 255).slots.length
    ∧ (({ node with engines := [(255, ⟨[prog1], [prog1], [], false⟩)] } : State).engine 255).back ≠ [] ∧ (node.engine 255).back = []
    ∧ (node.rightsAt .engines segoReq.dom .context).x = true ∧ (({ node with tables := [] } : State).rightsAt .engines segoReq.dom .context).x = false := by
  decide
/-- A program that copies 16 bytes from the end of pane 123 of tile 0 to that of tile 1. -/
def copyProg : Program :=
  ⟨0, 1, segoReq, [0x88000C0000000000 ||| 0x30000000000, 0x7BFF0, 0x1000007BFF0, 0, 0, 0, 0, 0], [16, 1, 1, 1, 1, 1], true, 0, 1, 0, 0, false, [], none, none, [], 0⟩
theorem wit_StreamCopies : ∃ s : State, (s.engine 0).slots = copyProg :: [] ∧ copyProg.started = true ∧ (s.tile copyProg.tile).frozen = false
    ∧ copyProg.srcFmt = 8 ∧ copyProg.dstFmt = 8 ∧ copyProg.sMode = 3 ∧ copyProg.dMode = 3 ∧ copyProg.sScale = 0 ∧ copyProg.dScale = 0 ∧ copyProg.fork = false
    ∧ copyProg.promote = false ∧ copyProg.compact = false ∧ copyProg.dcnt = 0 ∧ copyProg.count 0 = 16 ∧ (∀ l < 6, 1 ≤ l → copyProg.count l = 1)
    ∧ bits (copyProg.dws.getD 1 0) 63 40 = 0 ∧ bits (copyProg.dws.getD 2 0) 63 40 = 1 ∧ s.targetGone (engineTile 0) copyProg.req.dom 0 = false
    ∧ s.targetGone (engineTile 0) copyProg.req.dom 1 = false ∧ s.portCheck 0 1 .rma [(0x7BFF0, 16)] = none ∧ s.portCheck 1 1 .rma [(0x7BFF0, 16)] = none
    ∧ 0x7BFF0 + 16 ≤ 0x7C000 ∧ (s.tile 0).spPoisoned 0x7BFF0 16 = false ∧ (s.tile 1).armed 0 = false ∧ (s.tile 1).sp.wf = true
    ∧ (s.engine 0).waits = [] ∧ copyProg.dropped = none ∧ copyProg.promo = none ∧ bits (copyProg.dws.getD 1 0) 39 19 = 0 ∧ bits (copyProg.dws.getD 2 0) 39 19 = 0
    ∧ s.modNo = 0 ∧ copyProg.pos = 0 ∧ copyProg.elems = 0 ∧ copyProg.iovf = false ∧ prog1.started = false
    ∧ (s.tile 0).seStat.find? (·.engine == 0) = some ⟨0, 1, 0, 0xFF, false⟩
    ∧ (s.tile copyProg.tile).replay = false ∧ (s.engine 0).back = []
    ∧ ({ copyProg with dropped := some 2, sent := 8 }).dropped = some 2 ∧ s.granted 2 (.engine 0) 8 = false :=
  ⟨{ pair (tileOne getReq) fun x => { x with seStat := [⟨0, 1, 0, 0xFF, false⟩] } with engines := [(0, ⟨[copyProg], [], [], false⟩)] }, by decide⟩
theorem wit_StreamAnswers : ∃ (s : State) (r : GReq), (s.ctxAt 0 0).wait = some (.sent r) ∧ r.kind = .seStat ∧ (s.engine r.x.toNat).slots.length < 8
    ∧ (s.tile 0).seStat = [] ++ ⟨255, 1, 7, 1, false⟩ :: [] ∧ 255 = r.x.toNat := by
  refine ⟨node fun x => ({ x with seStat := [⟨255, 1, 7, 1, false⟩] }).onCtx 0 fun k => { k with wait := some (.sent ⟨.seStat, 0, 0, 0, false, 0, 255, 0⟩) },
    ⟨.seStat, 0, 0, 0, false, 0, 255, 0⟩, ?_⟩
  decide
/-- A descriptor of an input of one byte in pane 1 and an output of one byte in pane 2, at a last step and a reuse count. -/
def plan (valid anchor : Bool) (w1 : Word) (step : Nat) : SacPlan :=
  ⟨[0, w1, 0, (if valid then 0x8000000000000000 else 0) ||| (if anchor then 0x4000000000000000 else 0) ||| 0x20001, 0x1000, 0x2000, 0, 0],
    8, 0, step, 0x1000, 1, 0x2000, 1⟩
theorem wit_CacheDecides : (plan false false 0 0).valid = false ∧ (plan true false 0xFFFFFFFF00000000 0).valid = true
    ∧ (plan true false 0xFFFFFFFF00000000 0).step = ((plan true false 0xFFFFFFFF00000000 0).lastStep + 1) % 2 ^ 32
    ∧ (plan true false 0xFFFFFFFF00000000 0).rlimit ≤ (plan true false 0xFFFFFFFF00000000 0).rcount
    ∧ (plan true false 0xFFFFFFFF0001FFFF 0).rlimit ≤ (plan true false 0xFFFFFFFF0001FFFF 0).rcount
    ∧ (plan true true 0xFFFE00010000 0xFFFF).rcount < (plan true true 0xFFFE00010000 0xFFFF).rlimit ∧ (plan true true 0xFFFE00010000 0xFFFF).anchor = true
    ∧ (plan true true 0xFFFE00010000 0xFFFF).lastStep < (plan true true 0xFFFE00010000 0xFFFF).step
    ∧ (node.tile 0).sac = none
    ∧ ((node fun x => { x with asyncQ := [⟨.sacc, 0, 1, 1, 1, 0x1000, 0, 0, none⟩] }).tile 0).asyncQ = [] ++ ⟨.sacc, 0, 1, 1, 1, 0x1000, 0, 0, none⟩ :: [] := by decide
/-- An anchored descriptor whose stored input, output and own place are mapped at addresses 0x10000, 0x10040 and 0x10080. -/
def sacNode : State := node fun x => { x with tlb := [⟨0, 1, 1, false, 0, 0x10087⟩] }
def sacHit : SacPlan := { plan true true 0xFFFE00010000 0xFFFF with dws := [0, 0xFFFE00010000, 0, 0xC000000000020001, 0x10000, 0x10040, 0, 0] }
theorem wit_CacheDecides_hit : ∃ u old v out w pa, sacNode.tileRange 0 sacHit.sin sacHit.inBytes false = (u, .parts old) ∧ u.partsPoisoned old = false
    ∧ (sacNode.tile 0).spPoisoned sacHit.inAt sacHit.inBytes = false
    ∧ (∃ bad, sacHit.compare ((sacNode.tile 0).sp.getList sacHit.inAt sacHit.inBytes) (u.partsRead old) sacHit.nin 0 = (bad, true))
    ∧ u.tileRange 0 sacHit.sout sacHit.osize false = (v, .parts out) ∧ v.partsPoisoned out = false ∧ v.tileRange 0 0x10080 64 true = (w, .parts pa) := by
  refine ⟨_, _, _, _, _, _, rfl, by decide, by decide, ⟨_, rfl⟩, rfl, by decide, rfl⟩
theorem wit_CacheCompletes : ∃ (s : State) (o : SacOp), (s.tile 0).sac = some o ∧ o.evc = some 15 ∧ o.mem = [(2 ^ 36 - 2, [1, 2])] ∧ Solo s (2 ^ 36 - 2) ∧ s.mem.wf = true
    ∧ o.pane = [(0x7BFFE, [3, 4])] ∧ (s.tile 0).replay = false ∧ (s.tile 0).armed 0 = false ∧ (s.tile 0).sp.wf = true := by
  refine ⟨node fun x => { x with sac := some ⟨segoReq, 16, [(2 ^ 36 - 2, [1, 2])], [(0x7BFFE, [3, 4])], some 15, [], []⟩ },
    ⟨segoReq, 16, [(2 ^ 36 - 2, [1, 2])], [(0x7BFFE, [3, 4])], some 15, [], []⟩, by decide, by decide, by decide, ⟨by decide, by decide, by decide⟩, by decide⟩

/-- Domain 1 with changes, its tile 0 as at bind. -/
def dnode (d : Domain → Domain) (f : Tile → Tile := id) : State := node f d
/-- A block table of one sequence of one block of 64 KB at 0x2000, with one free frame. -/
def bt0 : BlockTable := ⟨0, 0x2000, 1, 1, 65536, [5], [], [], [], []⟩
/-- Entries: an open one used once and twice, one FULL, one MIG, an invalid one. -/
def btNode (e : Nat) : State := { dnode fun d => { d with bts := [bt0] } with mem := (Cells.setLe [] 0x2000 8 e) }
theorem wit_TableRules : (btNode 0).btPlace 1 0 = some ⟨bt0, 0x2000, 0⟩ ∧ (btNode 0).btPlace 1 0xFFFF = some ⟨bt0, 0x2000, 0xFFFF⟩ ∧ (btNode 0).btPlace 1 0x10000 = none
    ∧ ((btNode 0x0010000000007001).entryAt 0x2000).getLsbD 0 = true ∧ bits ((btNode 0x0010000000007001).entryAt 0x2000) 63 52 ≤ 1
    ∧ 1 < bits ((btNode 0x0020000000007001).entryAt 0x2000) 63 52 ∧ ((btNode 0x0010000000007009).entryAt 0x2000).getLsbD 3 = true
    ∧ ((btNode 0x0010000000007005).entryAt 0x2000).getLsbD 2 = true ∧ ((btNode 0x0010000000007011).entryAt 0x2000).getLsbD 0 = true
    ∧ bits ((btNode 0x0010000000007011).entryAt 0x2000) 11 4 ≠ 0 ∧ ((btNode 0x0010000000007005).entryAt 0x2000).getLsbD 1 = false
    ∧ bits (0x0010000000010001 : Word) 51 12 * 4096 % bt0.blkSize = 0 ∧ bt0.freeHbm = 5 :: [] ∧ Solo (btNode 0) 0x2000 := by
  refine ⟨by decide, by decide, by decide, by decide, (and4 (by decide) ⟨by decide, and4 (by decide) ⟨by decide, by decide, by decide⟩⟩)⟩
theorem wit_ServiceRules : ∃ (s : State) (r : GReq), (s.ctxAt 0 0).wait = some (.sent r) ∧ r.kind = .btWrite ∧ s.btWrite (s.tile 0).dom (BitVec.ofNat 64 r.va) = .copy
    ∧ s.btPlace (s.tile 0).dom (BitVec.ofNat 64 r.va) = some ⟨bt0, 0x2000, 0⟩ ∧ (s.entryAt 0x2000).getLsbD 1 = false ∧ (s.tile 0).replay = false
    ∧ ((s.onTile 0 fun x => { x with replay := true }).tile 0).replay = true := by
  refine ⟨(btNode 0x0020000000007001).onTile 0 fun x => x.onCtx 0 fun k => { k with wait := some (.sent ⟨.btWrite, 0, 0, 8, false, 0, 0, 0⟩) },
    ⟨.btWrite, 0, 0, 8, false, 0, 0, 0⟩, by decide, by decide, rfl, by decide, by decide, by decide, by decide⟩
theorem wit_RequestRules : Clear (btNode 0) ∧ (btNode 0).me.wait = none ∧ (btNode 0).btPlace (btNode 0).my.dom 0xFFF8 = some ⟨bt0, 0x2000, 0xFFF8⟩
    ∧ 0xFFF8 % 8 = 0 ∧ (btNode 0).btPlace (btNode 0).my.dom 0x10000 = none ∧ 3 ≤ (3 : Word).toNat ∧ (2 : Word).toNat < 3 := ⟨⟨by decide, by decide⟩, by decide⟩
/-- A page table at 0x10000 with a table of each lower level under it and the PTE given as the leaf of the page at 0x10000. -/
def paged (pte : Nat) (write : Bool := false) : State :=
  { dnode (fun d => { d with root := 0x10000, freeHbm := [9], dups := [⟨0, true, []⟩] }) fun x => x.onCtx 0 fun k =>
      { k with status := .parked, parkedVa := some 0x1FFF8, parkedWrite := write } with
    mem := ((Cells.setLe [] 0x10000 8 0x20001).setLe 0x20000 8 0x30001).setLe 0x30008 8 pte }
/-- A tile whose one entry, of a frame behind edge die 24, has an old count, with and without a leaf for its page. -/
def staleNode (pte : Nat) : State := (paged pte).onTile 0 fun x => { x with tlb := [⟨0, 1, 2, false, 7, 0x10000000087⟩] }
theorem wit_ServedRules_stale : (staleNode 0x10087).walk 0x10000 0x20000 = none
    ∧ ((staleNode 0x10087).tile 0).tlbFind 0x20000 = some ⟨0, 1, 2, false, 7, 0x10000000087⟩
    ∧ (staleNode 0x10087).stale 0 ⟨0, 1, 2, false, 7, 0x10000000087⟩ 0x20000 = true ∧ ((paged 0x10087).tile 0).tlbFind 0x20000 = none := by decide
theorem wit_ServedRules : (paged 0x10087).domain ((paged 0x10087).tile 0).dom ≠ none ∧ (paged 0x10087).walk 0x10000 0x1FFF8 = some (3, 0x30008, 0x10087)
    ∧ (paged 0x10087).walk 0x10000 0x20000 = none ∧ (0x10097 : Word).getLsbD 4 = true ∧ (0x100A7 : Word).getLsbD 5 = true
    ∧ (paged 0x10097).walk 0x10000 0x1FFF8 = some (3, 0x30008, 0x10097) := by decide
theorem wit_FillRules : ((paged 0x10087).ctxAt 0 0).status = .parked ∧ ((paged 0x10087).ctxAt 0 0).parkedVa = some 0x1FFF8 ∧ ((paged 0x10087).ctxAt 0 1).status ≠ .parked
    ∧ ((paged 0x10087).tile 0).armed 4 = false ∧ (tlbOf 0x0010000000010000 0x10087).dom = ((paged 0x10087).tile 0).dom
    ∧ (tlbOf 0x0020000000010000 0x10087).dom ≠ ((paged 0x10087).tile 0).dom ∧ (tlbOf 0x0010000000010000 0x10087).maps 0x1FFF8 = true
    ∧ (paged 0x10087).served 0 0x20000 (needOf true false false) false = .fault false ∧ (paged 0x10087).gone ((paged 0x10087).serviceTile 0) = false
    ∧ ({ paged 0x10087 with dies := vset (paged 0x10087).dies 0 { Die.reset with fenced := true } } : State).gone
      (({ paged 0x10087 with dies := vset (paged 0x10087).dies 0 { Die.reset with fenced := true } } : State).serviceTile 0) = true
    ∧ SvcItem.fill 7 ∉ ((paged 0x10087).tile 0).svc ∧ ((paged 0x10087).tile 0).svc.length < 8
    ∧ SvcItem.fill 7 ∈ (((paged 0x10087).onTile 0 fun x => { x with svc := [.fill 7] }).tile 0).svc := by decide
theorem wit_FaultRules : ((paged 0x10083 true).ctxAt 0 0).parkedWrite = true ∧ 0x1FFF8 < 2 ^ 64 ∧ 0x1FFF8 / 65536 = (0x10000 : Word).toNat / 65536
    ∧ 0x1FFF8 / 65536 ≠ (0x20000 : Word).toNat / 65536 := by decide
theorem wit_CopyRules : ∃ d, (paged 0x10097 true).domain ((paged 0x10097 true).tile 0).dom = some d
    ∧ (paged 0x10097 true).walk d.root 0x1FFF8 = some (3, 0x30008, 0x10097)
    ∧ ((paged 0x10097 true).pageBusy d fun a => leafVpn 3 a == leafVpn 3 0x1FFF8) = false ∧ (paged 0x10097 true).caches = [] ∧ Solo (paged 0x10097 true) 0x30008
    ∧ (paged 0x10097 true).mem.wf = true ∧ 0x30008 % 8 = 0 ∧ ptePfn 0x10097 * 65536 < 2 ^ 40 ∧ d.freeHbm = 9 :: []
    ∧ (∀ u w, Event.tlbFill u w ∉ (paged 0x10097 true).later) := by
  refine ⟨_, rfl, by decide, by decide, by decide, ⟨by decide, by decide, by decide⟩, by decide, by decide, by decide, by decide,
    fun _ _ h => absurd h List.not_mem_nil⟩

/-- H trapped by cause 0x10 in handler 5 of colour 1. -/
def trappedNode (f : Tile → Tile := id) (d : Domain → Domain := id) : State :=
  node (fun x => (f x).onCtx 4 fun k => { k with status := .trapped, trapc := 0x10, act := some { actOf 15 (msgTo 5) with hid := 5 } }) fun r =>
    d { r with disp := List.replicate 32 3 }
theorem wit_KillStarts : (node.domain 1 = some (dom1 1 0 [0])) ∧ (1 : Nat) ≠ 0 ∧ (∀ k ∈ node.gong, ¬ (k.dom = 1 ∧ k.col = 1)) ∧ (dom1 1 0 [0]).moving = false
    ∧ (∀ t ∈ (dom1 1 0 [0]).tiles, (node.tile t).kills.length < 64) ∧ ({ dom1 1 0 [0] with gang := .out } : Domain).moving = true
    ∧ 64 ≤ ((node fun x => { x with kills := List.replicate 64 (2, 2) }).tile 0).kills.length
    ∧ (∃ k ∈ ({ node with gong := [⟨1, 1, 0, 0⟩] } : State).gong, k.dom = 1 ∧ k.col = 1)
    ∧ (∃ k ∈ ({ dom1 1 0 [0] with heldKills := [(1, 0, 0)] } : Domain).heldKills, k.1 = 1) ∧ (dom1 1 0 [0]).heldKills = []
    ∧ (∃ c, Event.domainKill 1 c ∈ ({ node with later := [.domainKill 1 0x20] } : State).later) := by
  refine ⟨by decide, by decide, by decide, by decide, (and4 (by decide) ⟨by decide, by decide, 0x20, by decide⟩)⟩
theorem wit_TrapDispositions : (∃ d, trappedNode.domain (trappedNode.tile 0).dom = some d ∧ d.disp.getD 0x10 0 = 3 ∧ trappedNode.domainDying d.dom = false)
    ∧ ((trappedNode.tile 0).ctx 4).status = .trapped ∧ (trappedNode.tile 0).frozen = false ∧ ((trappedNode fun x => { x with frozen := true }).tile 0).frozen = true
    ∧ (∃ a, ((trappedNode.tile 0).ctx 4).act = some a ∧ a.hid = 5 ∧ 5 ≠ (dom1 1 0 [0]).trapHid) ∧ ((trappedNode.tile 0).ctx 0).status ≠ .trapped
    ∧ .gongStop 1 ∉ trappedNode.later
    ∧ (∃ s : State, s = { trappedNode fun x => { x with trapQ := [0, 4] } with later := [.trapDelivery 0 0] } ∧ (s.tile 0).trapQ = [] ++ 0 :: [4]
      ∧ .trapDelivery 0 0 ∈ s.later ∧ (s.tile 0).frozen = false)
    ∧ ((trappedNode fun x => { x with trapQ := [4] }).tile 0).trapQ = [4] ∧ (trappedNode fun x => { x with trapQ := [4] }).later = [] := by
  refine ⟨⟨_, rfl, by decide, by decide⟩, by decide, by decide, by decide, ⟨_, rfl, by decide, by decide⟩, by decide, by decide,
    ⟨_, rfl, by decide⟩, by decide, by decide⟩
/-- Verdicts: resume at an address, too short, one with an action that none has. -/
def verdict (pay : List Word) : Msg := ⟨header 0 0xFFF true pay.length, 0, 0x0010000000000000, pay⟩
theorem wit_Verdicts : ((trappedNode fun x => { x with svc := [.verdict (verdict [4, 1, 0x2000])] }).tile 0).svc = [] ++ .verdict (verdict [4, 1, 0x2000]) :: []
    ∧ (h0Of (verdict [4, 1, 0x2000]).h0).len = 3 ∧ (4 : Word).toNat ≤ 4 ∧ (trappedNode.ctxAt 0 4).status = .trapped ∧ (0x2000 : Word).toNat % 4 = 0
    ∧ (h0Of (verdict []).h0).len = 0 ∧ (h0Of (verdict [4]).h0).len = 1 ∧ (h0Of (verdict [4, 3]).h0).len = 2 ∧ 3 < (4 : Word).toNat
    ∧ (trappedNode.ctxAt 0 3).status ≠ .trapped ∧ (0x2002 : Word).toNat % 4 ≠ 0 := by decide
theorem wit_Withdrawals : (node.tile 0).withdrawn = false ∧ (State.reset.tile 0).dom = 0 ∧ (node.tile 0).dom ≠ 0 ∧ node.domain (node.tile 0).dom = some (dom1 1 0 [0])
    ∧ (∀ u ∈ (dom1 1 0 [0]).tiles, u % 32768 = 0 % 32768 ∨ (node.tile u).dom ≠ (dom1 1 0 [0]).dom)
    ∧ ((node fun x => { x with withdrawn := true }).tile 0).withdrawn = true ∧ (∀ c, Event.domainKill 1 c ∉ node.later)
    ∧ ∀ c < 6, ∀ r, (State.reset.ctxAt 0 c).wait ≠ some (.sent r) := by
  refine (and4 (by decide) ⟨by decide, by decide, fun _ h => absurd h List.not_mem_nil, fun c hc r h => ?_⟩)
  have e : ∀ c < 6, (State.reset.ctxAt 0 c).wait = none := by decide
  rw [e c hc] at h
  cases h
theorem wit_Errors : (((node fun x => { x with queues := vset x.queues 15 (que [oneSlot (msgTo 5)]) }).tile 0).queue 15).waiting[0]? = some (oneSlot (msgTo 5))
    ∧ ((node fun x => { x with store := [oneSlot (operand true)] }).tile 0).store[0]? = some (oneSlot (operand true))
    ∧ ((node fun x => x.setCounter 63 ⟨3, 8, 0, 0, true, false, true⟩).tile 0).counter 63 = ⟨3, 8, 0, 0, true, false, true⟩
    ∧ (mmNode.tile 0).running = some mmRun ∧ 0x7BFFF < 0x7C000 ∧ (7 : Nat) < 8 ∧ (node.tile 0).dom ≠ 0
    ∧ ((node fun x => { x with queued := some mmRun }).tile 0).queued = some mmRun
    ∧ ((node fun x => { x with votes := [vote1 false] }).tile 0).votes[0 - (node.tile 0).store.length]? = some (vote1 false)
    ∧ ((node fun x => x.setFifo 1 [⟨77, false, 1, 1, 0⟩]).tile 0).fifoAt 1 = [⟨77, false, 1, 1, 0⟩]
    ∧ ((node fun x => { x with kills := [(1, 1)] }).tile 0).kills[0]? = some (1, 1)
    ∧ (((node fun x => { x with panes := vset x.panes 3 ⟨.mm, false, 1, 0⟩ }).tile 0).pane 3).dom ≠ 0
    ∧ (({ node with engines := [(255, ⟨[prog1, prog1], [], [], false⟩)] } : State).engine 255).slots[1]? = some prog1
    ∧ ((node fun x => { x with sac := some ⟨segoReq, 16, [], [], none, [], []⟩ }).tile 0).sac = some ⟨segoReq, 16, [], [], none, [], []⟩
    ∧ ((trappedNode.tile 0).ctx 4).act.isSome = true := by decide
theorem wit_ColourKills : (1 : Nat) ≠ 0 ∧ (List.replicate 63 (2, 2)).length < 64 ∧ (trappedNode.ctxAt 0 4).act = some { actOf 15 (msgTo 5) with hid := 5 }
    ∧ domOf (msgTo 5).tag = 1 ∧ colOf (msgTo 5).tag = 1 ∧ (node.ctxAt 0 4).act = none ∧ (trappedNode.tile 0).kills.length < 64
    ∧ 64 ≤ ((node fun x => { x with kills := List.replicate 64 (2, 2) }).tile 0).kills.length
    ∧ (1, 1) ∉ ((node fun x => { x with kills := List.replicate 64 (2, 2) }).tile 0).kills ∧ (node.tile 0).dom = 1 := by decide
theorem wit_Sweeps : node.domain (dom1 1 0 [0]).dom = some (dom1 1 0 [0]) ∧ (dom1 1 0 [0]).moving = false ∧ (dom1 1 0 [0]).sweep = none
    ∧ (dnode fun d => { d with sweep := some [1] }).domain 1 = some { dom1 1 0 [0] with sweep := some [1] }
    ∧ (dnode fun d => { d with sweep := some [1] }).markedLeft 1 = false
    ∧ ({ node with net := [{ pkt (msgTo 5) false 0 true false with marked := true }] } : State).markedLeft 1 = true
    ∧ (∃ k ∈ ((node fun x => { x with kills := [(1, 1)] }).tile 0).kills, k.1 = 1 ∧ k.2 ∈ [1]) := by decide
theorem wit_DomainKills : (1 : Nat) ≠ 0 ∧ node.domain 1 ≠ none ∧ node.domain 2 = none := by decide
/-- A remap table at 0x1000 that names tile 0x20 with a rectangle of one tile, and a spare at 0x21. -/
def rnsNode : State := (node (fun x => { x with rnsmap := 0x1000, sp := Cells.setLe [] 0x1008 8 0x0000000101000020 }) fun d => { d with spares := [0x21] })
theorem wit_Remaps : ∃ d, rnsNode.domain (rnsNode.tile 0).dom = some d ∧ (rnsNode.tile 0).dom ≠ 0 ∧ (rnsNode.tile 0).rnsmap ≠ 0
    ∧ bits (BitVec.ofNat 64 ((rnsNode.tile 0).sp.le (0x1000 + 8 * 1) 8) : Word) 29 24 = 1 ∧ spareRect d.spares (dieAt (0x20 % 32768)) 1 1 = some 0x21
    ∧ (∀ f ∈ rectTiles (0x20 % 32768) 1 1, (rnsNode.tile f).idleForRemap = true) ∧ 0 ∉ rectTiles (0x20 % 32768) 1 1 ∧ 0 ∉ rectTiles 0x21 1 1
    ∧ (rnsNode.tile 0).sp.wf = true ∧ spareRect [] 0 1 1 = none := by
  refine ⟨{ dom1 1 0 [0] with spares := [0x21] }, ?_⟩
  decide
theorem wit_GongStops : node.domain 1 = some (dom1 1 0 [0]) ∧ (dom1 1 0 [0]).gang = .running
    ∧ (∀ n ∈ (dom1 1 0 [0]).tiles, (node.tile n).stopped = true) ∧ (dnode fun d => { d with gang := .stopping }).domain 1 = some { dom1 1 0 [0] with gang := .stopping }
    ∧ ((node fun x => { x with sac := some ⟨segoReq, 16, [], [], none, [], []⟩ }).tile 0).stopped = false
    ∧ (dom1 1 0 [0]).tiles = [0] ∧ inWindow 0x40 = false ∧ node.groupAt 0x40 = none ∧ node.failedAt 0x40 = false ∧ node.mem.wf = true := by decide
def switching : State := { node (fun x => { x with frozen := true }) (fun d => { d with gang := .switching 5, gangTile := some 0 }) with beat := 5 }
theorem wit_GangSwitches : switching.domain 1 = some { dom1 1 0 [0] with gang := .switching 5, gangTile := some 0 } ∧ 5 ≤ switching.beat ∧ switching.later = []
    ∧ (dom1 1 0 [0]).tiles = [0] ∧ (switching.tile 0).withdrawn = false ∧ (switching.tile 0).frozen = true ∧ (switching.tile 0).dom = 1
    ∧ switching.switchReady 0 = true ∧ (switching.tile 0).running = none ∧ (switching.tile 0).queued = none ∧ switching.engines = [] ∧ switching.net = []
    ∧ ({ switching with beat := 4 } : State).beat < 5 ∧ (switching.tile 0).store.length ≤ 512 ∧ (switching.tile 0).asyncQ.length ≤ 16
    ∧ (switching.tile 0).kills.length ≤ 64 ∧ (∀ p, ((switching.tile 0).fifoAt p).length ≤ 8) ∧ switching.mem.wf = true
    ∧ (∀ a, 0 ≤ a → a < 0 + 0xC0000 → Solo switching a) := by
  refine (and4 (by decide) ⟨by decide, by decide, by decide, by decide, (and4 (by decide) ⟨by decide,
    by decide, by decide, by decide, fun p => ?_, by decide, fun a _ h => ⟨?_, rfl, ?_⟩⟩)⟩)
  · show (vget (Vector.replicate 4 []) p []).length ≤ 8
    by_cases h : p < 4
    · rw [vget_replicate _ _ _ _ h]; decide
    · rw [vget_out _ _ _ (by omega)]; decide
  · exact decide_eq_false (by omega)
  · show (_ && [].contains _) = false
    exact Bool.and_false _
theorem wit_GangResumes : ∃ (s : State) (d : Domain) (x : Tile), s.domain 1 = some d ∧ d.gang = .resuming 5 ∧ 5 ≤ s.beat ∧ d.saved = [(0, x)] ∧ (s.tile 0).dom = 0
    ∧ d.heldKills = [] ∧ x.running = none ∧ x.queued = none ∧ d.gangTile = none ∧ (∀ c < 5, (x.ctx c).status ≠ .trapped) ∧ d.savedPrograms = [] ∧ x.sp.wf = true
    ∧ (∀ p ∈ d.saved, p.1 < 32768) ∧ d.savedWaits = [] ∧ s.engines = [] ∧ (s.tile 0).sp.wf = true := by
  refine ⟨{ State.reset with beat := 5, domains := [{ dom1 1 0 [0] with gang := .resuming 5, saved := [(0, node.tile 0)] }] },
    { dom1 1 0 [0] with gang := .resuming 5, saved := [(0, node.tile 0)] }, node.tile 0, ?_⟩
  decide
theorem wit_RootAnswers : ∃ (s : State) (r : GReq), (s.ctxAt 0 5).wait = some (.sent r) ∧ r.kind = .gangSw ∧ bits r.x 11 0 = 1 ∧ r.x.getLsbD 12 = false
    ∧ (∃ d, s.domain 1 = some d ∧ s.domainDying 1 = false ∧ d.gang = .running ∧ .gongStop 1 ∉ s.later)
    ∧ .gongStop 1 ∈ ({ s with later := [.gongStop 1] } : State).later := by
  refine ⟨node fun x => x.onCtx 5 fun k => { k with wait := some (.sent ⟨.gangSw, 0, 0, 0, false, 0, 1, 9⟩) }, ⟨.gangSw, 0, 0, 0, false, 0, 1, 9⟩,
    by decide, by decide, by decide, by decide, ⟨dom1 1 0 [0], by decide, by decide, by decide, by decide⟩, by decide⟩
theorem wit_Debugs : ((node.onFn 63 fun h => { h with dom := some 1 }).fn 63).dom = some (dom1 1 0 [0]).dom ∧ (node.fn 63).dom = none
    ∧ (node.onFn 63 fun h => { h with dom := some 1 }).domain 1 = some (dom1 1 0 [0]) ∧ .gongStop 1 ∉ node.later := by decide
/-- Tile 1 is bound to domain 2, and replays the checkpoint of tile 0 of domain 1. -/
theorem wit_Replays : ∃ s : State, s = (dnode fun d => { d with saved := [(0, Tile.reset)] }).onTile 1 (fun x => { x with dom := 2 })
    ∧ s.domain 1 = some { dom1 1 0 [0] with saved := [(0, Tile.reset)] } ∧ (s.tile 1).dom ≠ 0 ∧ (s.tile 1).dom ≠ 1 ∧ Tile.reset.queued = none
    ∧ ({ dom1 1 0 [0] with saved := [(0, Tile.reset)] } : Domain).saved ≠ [] ∧ (dom1 1 0 [0]).saved = [] ∧ (s.tile 0).dom = 1 ∧ s.domain 2 = none :=
  ⟨_, rfl, by decide⟩

theorem wit_DieLosses : (27 : Nat) < 28 ∧ (node.die 27).viral = false ∧ node.fenced 27 = false ∧ ((node.onDie 27 fun x => { x with viral := true }).die 27).viral = true
    ∧ ({ node with net := [pkt (msgTo 5) false 1024 true false] } : State).net.filter (fun q => dieAt q.place == 1) = [pkt (msgTo 5) false 1024 true false]
    ∧ (pkt (msgTo 5) false 1024 true false).hold = none ∧ node.leaves (pkt (msgTo 5) false 1024 true false) = false
    ∧ (∃ p : Packet, p = { pkt (msgTo 5) false 1024 true false with hold := some 31 } ∧ p.hold = some 31 ∧ p.ejected = false ∧ dieAt 31 ≠ 1
      ∧ node.fenced (dieAt 31) = false ∧ ¬ (node.leaves p = false ∧ dieAt (p.dst % 32768) = 1))
    ∧ (∃ p : Packet, p = { pkt ⟨header 1024 5 false 0, 0, 0, []⟩ false 1024 true false with hold := some 31 } ∧ p.hold = some 31
      ∧ node.leaves p = false ∧ dieAt (p.dst % 32768) = 1) := by
  refine (and4 (by decide) ⟨by decide, by decide, by decide, ⟨_, rfl, by decide⟩, ⟨_, rfl, by decide⟩⟩)
/-- A boot that passes every check if the root key's signatures on its images, of no byte here, verify: whether they do the manual leaves to
FIPS 205. -/
def goodBoot : Boot := ⟨[], [], 1, [], [], 1, true, [], []⟩
theorem wit_DieBoots : (Config.sigValid 2 Config.rootKey [] [] = true → bootOk 1 goodBoot = true ∧ dmcOk 1 goodBoot = true) ∧ bootOk 0 noBoot = false
    ∧ bootOk 2 goodBoot = false ∧ ((node.onDie 23 fun x => { x with fenced := true }).fenced 23 = true ∧ node.fenced 23 = false
      ∧ node.hbmHeld = false ∧ ({ node with placed := [(1, 5, 1)] } : State).hbmHeld = true) := by
  refine ⟨fun h => ?_, ?_, ?_, by decide⟩
  · simp [bootOk, dmcOk, rootSigned, goodBoot, h]
  · simp [bootOk, noBoot]
  · simp [bootOk, dmcOk, goodBoot]
/-- A die in whose window a class passed its second threshold, one in whose window all stayed below the first, and one whose window is not over. -/
theorem wit_Windows : (27 : Nat) < 28 ∧ (window9 470 5 1).beat % 2 ^ 32 = 0 ∧ 2 ^ 32 * ((window9 470 5 1).die 9).window < (window9 470 5 1).beat
    ∧ ((List.range 8).filter fun i => decide ((([(3, 4)] : List (Nat × Nat)).getD i (0, 0)).2 < ((window9 470 5 1).die 9).errors.getD i 0)) ≠ []
    ∧ (∀ i < 8, ((window9 470 5 1).die 9).errors.getD i 0 < ((List.replicate 8 (6, 7)).getD i (0, 0)).1)
    ∧ ((List.range 8).filter fun i => decide (((List.replicate 8 (6, 7)).getD i (0, 0)).2 < ((window9 470 5 1).die 9).errors.getD i 0)) = []
    ∧ ((window9 470 5 1).die 9).frozenRail = false ∧ ¬ (State.reset.beat % 2 ^ 32 = 0 ∧ 2 ^ 32 * (State.reset.die 9).window < State.reset.beat) := by decide
theorem wit_Rails : (1048576 : Nat) % 2 ^ 20 = 0 ∧ (1 : Nat) % 2 ^ 20 ≠ 0 ∧ (2 ^ 42 : Nat) % 2 ^ 42 = 0 ∧ (1 : Nat) % 2 ^ 42 ≠ 0 := by decide
theorem wit_TorusSteps : (0 : Nat) < 32768 ∧ (1023 : Nat) < 32768 ∧ dieAt 0 = dieAt 1023 ∧ (0 : Nat) ≠ 1023 ∧ xOf 0 ≠ xOf 1023 ∧ xOf 0 = xOf 992 ∧ yOf 0 ≠ yOf 992 := by decide
/-- One packet for tile 0 that stands there, on the same die, on another, and for another module. -/
def inNet (p : Packet) : State := { State.reset with phase := .issue, net := [p] }
theorem wit_Hops : (inNet (pkt (msgTo 5) false 0 true false)).net[0]? = some (pkt (msgTo 5) false 0 true false)
    ∧ (inNet (pkt (msgTo 5) false 0 true false)).behind 0 (pkt (msgTo 5) false 0 true false) = false
    ∧ (inNet (pkt (msgTo 5) false 0 true false)).outranked (pkt (msgTo 5) false 0 true false) = false
    ∧ (inNet (pkt (msgTo 5) false 5 true false)).goal (pkt (msgTo 5) false 5 true false) = some 0
    ∧ (∃ place cls, (inNet (pkt (msgTo 5) false 2048 true false)).hop 2048 0 .x = some (place, cls))
    ∧ (inNet (pkt ⟨header 32768 5 false 0, 0, 0, []⟩ false 0 true false)).leaves (pkt ⟨header 32768 5 false 0, 0, 0, []⟩ false 0 true false) = true
    ∧ (inNet (pkt ⟨header 32768 5 false 0, 0, 0, []⟩ false 0 true false)).goal (pkt ⟨header 32768 5 false 0, 0, 0, []⟩ false 0 true false) = none := by
  refine ⟨by decide, by decide, by decide, by decide, ⟨_, _, rfl⟩, by decide, by decide⟩
/-- A module whose number is set, with a route to module 1 by port 31, and one packet. -/
def farNet (p : Packet) : State := { inNet p with modSet := true, routes := [(1, 31)] }
/-- A droppable message for module 1. -/
def bulkMsg : Msg :=
  ⟨({ dst := 32768, hid := 5, vn := false, pri := false, port := false, len := 1, triple := false, copy := 0, drop := true, cnt := 0 } : H0).word, 0, 0, [7]⟩
theorem wit_Hops_far : (farNet (pkt bulkMsg false (portTile 31) true false)).goal (pkt bulkMsg false (portTile 31) true false) = some (portTile 31)
    ∧ (farNet (pkt bulkMsg false 0 true false)).leaves (pkt bulkMsg false 0 true false) = true
    ∧ (farNet (pkt bulkMsg false 0 true false)).pathUp 1 = true ∧ (inNet (pkt bulkMsg false 0 true false)).pathUp 1 = false
    ∧ (pkt bulkMsg true 0 true false).reply = true ∧ dieAt (portTile 31) ≠ dieAt 0
    ∧ (inNet (pkt (msgTo 5) false 5 true false)).hop 5 0 .source = (inNet (pkt (msgTo 5) false 5 true false)).hop 5 0 (pkt (msgTo 5) false 5 true false).cls
    ∧ (∃ place cls, (inNet (pkt (msgTo 5) false 5 true false)).hop 5 0 .source = some (place, cls) ∧ dieAt place = dieAt 5)
    ∧ (∃ place cls, (inNet (pkt (msgTo 5) false 1024 true false)).hop 1024 0 .source = some (place, cls) ∧ dieAt place ≠ dieAt 1024)
    ∧ (({ inNet (pkt (msgTo 5) false 1024 true false) with dies := vset State.reset.dies 0 { Die.reset with fenced := true } } : State).hop 1024 0 .source) = none
    ∧ (vget (vset State.reset.dies 1 { Die.reset with viral := true }) 1 Die.reset).viral = true := by
  refine (and4 (by decide) ⟨by decide, by decide, by decide, ⟨_, _, rfl, by decide⟩, ⟨_, _, rfl, by decide⟩, by decide, by decide⟩)
theorem wit_Injects_far : (farNet (pkt bulkMsg false 0 false false)).modGone 0 1 = false ∧ (inNet (pkt bulkMsg false 0 false false)).pathUp 1 = false
    ∧ (h0Of bulkMsg.h0).drop = true ∧ (pkt bulkMsg false 0 false false).dropped = false ∧ ((farNet (pkt bulkMsg false 0 false false)).grantOf 1 (.ni 0)) = none
    ∧ (({ farNet (pkt bulkMsg false 0 false false) with grants := [⟨1, .ni 0, 0, 32, 0, 0⟩] } : State).grantOf 1 (.ni 0)).isSome = true
    ∧ ({ farNet (pkt bulkMsg false 0 false false) with grants := [⟨1, .ni 0, 0, 32, 0, 0⟩] } : State).granted 1 (.ni 0) 32 = true
    ∧ ({ farNet (pkt bulkMsg false 0 false false) with grants := [⟨1, .ni 0, 0, 31, 0, 0⟩] } : State).granted 1 (.ni 0) 32 = false
    ∧ ({ farNet (pkt bulkMsg false 0 false false) with dies := vset State.reset.dies 27 { Die.reset with fenced := true } } : State).modGone 0 1 = true
    ∧ ({ farNet (pkt bulkMsg false 0 false false) with dies := vset State.reset.dies 27 { Die.reset with fenced := true } } : State).pathUp 1 = true := by decide
theorem wit_Injects : (inNet (pkt (msgTo 5) false 1 false false)).net[0]? = some (pkt (msgTo 5) false 1 false false)
    ∧ (inNet (pkt (msgTo 5) false 1 false false)).behind 0 (pkt (msgTo 5) false 1 false false) = false
    ∧ (inNet (pkt (msgTo 5) false 1 false false)).outranked (pkt (msgTo 5) false 1 false false) = false
    ∧ (∀ f < 64, ((inNet (pkt (msgTo 5) false 1 false false)).fn f).queue = []) ∧ (inNet (pkt (msgTo 5) false 1 false false)).leaves (pkt (msgTo 5) false 1 false false) = false
    ∧ ¬ (28 ≤ dieAt 0 ∨ (inNet (pkt (msgTo 5) false 1 false false)).routable 1 0 = false) ∧ 28 ≤ dieAt (28 * 1024) := by decide
theorem wit_LinkCounts : (∀ p, (farNet (pkt bulkMsg false 0 true false)).routePort 1 = some p → p < 32) ∧ upCount [((.edgeDie 24 : LinkTarget), 255)] (.edgeDie 24) % 256 = 255 ∧ upCount [((.edgeDie 24 : LinkTarget), 255)] (.edgeDie 25) % 256 ≠ 255
    ∧ 0 % 32768 ∈ node.tiles.map (·.1) := by decide
/-- Port 31 with one packet to send, with one message that came in, with a colour kill of a federation to send, and with none of these. -/
theorem wit_LinkFrames : (31 : Nat) < 32 ∧ (farNet { pkt bulkMsg false 0 true false with link := some 31 }).frames 31 = [.go 0]
    ∧ ({ farNet (pkt bulkMsg false 0 true false) with ports := vset State.reset.ports 31 { Port.reset with inbox := [.message (msgTo 5) false false] } } : State).frames 31
      = [.come (.message (msgTo 5) false false)]
    ∧ ({ farNet (pkt bulkMsg false 0 true false) with outKills := [(1, ⟨1, 1, 0, 0⟩)] } : State).frames 31 = [.kill 0] ∧ State.reset.frames 31 = []
    ∧ State.reset.modSet = false ∧ Port.reset.up = true ∧ (farNet (pkt bulkMsg false 0 true false)).modSet = true
    ∧ ({ Port.reset with up := false } : Port).up = false ∧ 16 ≤ ({ Port.reset with replays := 16 } : Port).replays ∧ ¬ 16 ≤ Port.reset.replays := by decide
/-- The one frame that may cross is the one that does. -/
theorem wit_LinkFrames_chosen (n : Nat) (f : Frame) : [f][n % [f].length]? = some f := by
  rw [show n % [f].length = 0 from Nat.mod_one n]
  rfl
/-- A droppable packet on its link, one under a reservation, a PUT and a stream program into module 2, and requests for reservations. -/
theorem wit_Reservations : ∃ p q : Packet, p = { pkt bulkMsg false 0 true false with link := some 31 } ∧ q = { p with dropped := true }
    ∧ (farNet p).net[0]? = some p ∧ p.link.isSome = true ∧ (h0Of p.msg.h0).drop = true ∧ p.dropped = false ∧ (farNet q).net[0]? = some q ∧ q.dropped = true
    ∧ State.reset.net[0]? = none ∧ State.reset.bulks[0 - State.reset.net.length]? = none
    ∧ (node fun x => { x with rmaDone := [⟨.put, 5, 31, 1, 1, 0, [], [2], 8, none⟩] }).bulks = [.rma 0 0 2]
    ∧ ({ node with engines := [(0, ⟨[{ prog1 with dws := [0x30000000000, 0, 2 * 32768 * 2 ^ 40], started := true }], [], [], false⟩)] } : State).bulks = [.engine 0 2]
    ∧ ({ node with asks := [(2, .rma 0)] } : State).asks = [] ++ (2, .rma 0) :: [] ∧ node.asks = []
    ∧ ({ node with grants := [⟨2, .rma 0, 0, 1, 0, 0⟩], beat := 65536 } : State).grants = [⟨2, .rma 0, 0, 1, 0, 0⟩] := by
  refine ⟨_, _, rfl, rfl, by decide⟩
theorem wit_Multicast : (1 ≤ 255 ∧ 255 ≤ 255 ∧ 0x10000 % 65536 = 0 ∧ (List.range 512).length ≤ 512 ∧ 511 ∈ List.range 512)
    ∧ ({ node with groups := [⟨1, 0, 1, 0, 65536, [0, 1]⟩] } : State).groups = [] ++ ⟨1, 0, 1, 0, 65536, [0, 1]⟩ :: [] ∧ 65528 + (List.replicate 8 (0 : Byte)).length ≤ 65536
    ∧ 65536 < 65529 + (List.replicate 8 (0 : Byte)).length := by decide
theorem wit_Federations : node.domain 1 = some (dom1 1 0 [0]) ∧ node.survivors (dom1 1 0 [0]) = 0 :: [] ∧ node.domain 2 = none
    ∧ (dnode fun d => { d with federation := [0, 1] }).domain 1 = some { dom1 1 0 [0] with federation := [0, 1] } := by decide
/-- A ring of 16 records with one free place, a full one, and one that lost a record. -/
def ring (h : HostFn → HostFn) : State := node.onFn 63 fun x => h { x with dom := some 1, rsize := 4, rbase := 0x10000, rprod := 15 }
theorem wit_Records : ((ring id).fn 63).room = true ∧ ((ring id).fn 63).lostSince = 0 ∧ ((ring fun h => { h with rprod := 16 }).fn 63).room = false
    ∧ ((ring fun h => { h with lostSince := 1 }).fn 63).lostSince ≠ 0 ∧ ((ring fun h => { h with rsize := 17 }).fn 63).room = false
    ∧ (ring id).hostMem.wf = true ∧ ((ring fun h => { h with lostSince := 1 }).fn 63).room = true
    ∧ (ring fun h => { h with lostSince := 1 }).hostMem.wf = true ∧ ([none, some 7] : List (Option Word))[1]? = some (some 7) := by decide
theorem wit_Returns : ({ ring id with net := [pkt (msgTo 5) true endpoint true true] } : State).net = [] ++ pkt (msgTo 5) true endpoint true true :: []
    ∧ ((ring id).fn 63).dom = some (domOf (msgTo 5).tag) ∧ (∀ g < 63, ((ring id).fn g).dom ≠ some (domOf (msgTo 5).tag))
    ∧ (∀ f < 64, (node.fn f).dom ≠ some (domOf (msgTo 5).tag)) := by decide
theorem wit_HostRegisters : (63 : Nat) < 64 ∧ ((ring fun h => { h with lostSince := 3 }).fn 63).lostSince ≠ 0 ∧ 4 ≤ bits (4 : Word) 4 0 ∧ bits (16 : Word) 4 0 ≤ 16
    ∧ bits (3 : Word) 4 0 < 4 ∧ 16 < bits (17 : Word) 4 0 ∧ ((ring id).fn 63).lostSince = 0 ∧ (0x1000 : Nat) ≠ 0x1008
    ∧ (ring fun h => { h with lostSince := 3 }).hostMem.wf = true := by decide
theorem wit_Launches : ((ring id).fn 63).queue.length < 64 ∧ (h0Of (0x0000000000500000 : Word)).len = 5 ∧ (h0Of (0x0000000000600000 : Word)).len = 6
    ∧ (h0Of (0x0000000000500000 : Word)).vn = false ∧ bits (0x0000000000500000 : Word) 9 0 = 0 ∧ ((ring id).tile 0).enabled = true
    ∧ ((ring id).tile 0).withdrawn = false ∧ (ring id).fenced 0 = false ∧ ((ring id).fn 63).dom = some 1 ∧ ((ring id).fn 62).dom = none
    ∧ (ring id).outFree endpoint false = true ∧ 24 ≤ dieAt 24576
    ∧ ({ ring id with net := [pkt (msgTo 5) false endpoint false false] } : State).outFree endpoint false = false := by decide
/-- A launch record that passes its checks, a message for function 63 that has come, and a ring that takes its record. -/
theorem wit_HostCompletes : (ring id).launchCode 63 ⟨[0, 0, 0, 0, 0, 0, 0, 0], true⟩ = none ∧ ((ring id).fn 63).queue.length < 64 ∧ ((ring id).fn 63).dom = some 1
    ∧ ({ ring id with net := [pkt (msgTo 5) true endpoint true true] } : State).net = [] ++ pkt (msgTo 5) true endpoint true true :: []
    ∧ ({ ring id with net := [pkt (msgTo 5) true endpoint true true] } : State).fnOf (domOf (msgTo 5).tag) = some 63
    ∧ ((ring id).fn 63).room = true ∧ ((ring id).fn 63).lostSince = 0 := by decide
theorem wit_Mailbox : State.reset.domains = [] ∧ node.domains ≠ [] ∧ 511 < (512 : Nat) ∧ ((ring id).fn 63).dom = some 1 ∧ ((ring id).fn 62).dom ≠ some 1
    ∧ (8 : Nat) < (List.replicate 9 (0 : BitVec 256)).length ∧ (List.replicate 8 (0 : BitVec 256)).length ≤ 8 ∧ State.reset.modSet = false ∧ node.fenced 0 = false
    ∧ 0xFFE < 0xFFF := by decide

/-- A container of one tile: one word of code, a handler on a reply queue for refusals, traps and launches, and the sections it must have. -/
def box (version : Nat) (covered : Nat) (rnsch : Option Word) : Container :=
  let sections : List Section := [
    ⟨1, 2, 0, 0, 288, 16, 0x1000, leBytes 16 0x04000000⟩,
    ⟨4, 4, 0, 0, 304, 32, 0, leBytes 16 0 ++ leBytes 8 0x1000 ++ leBytes 8 0x20⟩,
    ⟨5, 4, 0, 0, 336, 256, 0, leBytes 256 0x102116⟩,
    ⟨6, 4, 0, 0, 592, 2048, 0, List.replicate 2048 0⟩,
    ⟨7, 0, 0, 0, 2640, 128, 0, List.replicate 124 0 ++ List.replicate 4 5⟩,
    ⟨8, 3, 0, 0, 2768, 8, 0, leBytes 8 0x0001000000000028⟩,
    ⟨14, 3, 0, 0, 2776, 64, 0, leBytes 64 0x1000000010001⟩]
  let entry (x : Section) : List Byte := leBytes 2 x.typ ++ leBytes 2 x.align ++ leBytes 2 x.first ++ leBytes 2 x.last ++ leBytes 8 x.offset
    ++ leBytes 8 x.size ++ leBytes 8 x.addr
  ⟨0x1A434F5A, version, 0, 7, 0, covered, 0, sections.flatMap entry ++ sections.flatMap (·.data), sections, [⟨0, 0, 0, 26, 0, 4⟩], rnsch, 1, 1, []⟩
/-- It with the digest of its body. -/
def sealed (z : Container) : Container := { z with digest := sha256 z.body }
theorem wit_Containers : (box 0x0101 2840 none).version ≠ 0x0100 ∧ check1 (box 0x0100 2839 none) = true ∧ check2 (box 0x0100 2839 none) = false
    ∧ check2 (box 0x0100 2840 none) = true := by decide
/-- A container that passes checks 1 to 6; one whose `rnsch` is not legal; a relocation of its first word that is resolved, and one too narrow. -/
theorem wit_Containers_sealed : check1 (sealed (box 0x0100 2840 none)) = true ∧ check2 (sealed (box 0x0100 2840 none)) = true
    ∧ check3 (sealed (box 0x0100 2840 none)) = true ∧ State.reset.check4 1 (sealed (box 0x0100 2840 none)) = true
    ∧ check5 (sealed (box 0x0100 2840 none)) = true ∧ check6 (sealed (box 0x0100 2840 none)) = true ∧ check6 (sealed (box 0x0100 2840 (some 0))) = false
    ∧ relocsOk (sealed (box 0x0100 2840 none)) [0] = true
    ∧ relocsOk { sealed (box 0x0100 2840 none) with relocs := [⟨0, 0, 0, 12, 0, 4⟩] } [0] = false := by
  refine ⟨by decide, by decide, ?_, by decide⟩
  simp [check3, sealed]

/-! ### States that meet the hypotheses of the statements: more of their clauses -/

/-- One pending step, and one packet, may happen now: it is chosen, or a tile takes its turn. -/
theorem wit_StepRunsPending_ready : ({ State.reset with later := [.dispatch 24575] } : State).ready = [.inl 0] ∧ eventInRange (.dispatch 24575) = true
    ∧ ({ State.reset with phase := .engines, later := [.streamProgramEnd 255, .dispatch 0] } : State).ready = [.inl 0]
    ∧ ({ State.reset with net := [pkt (plainMsg 0 0 0) false 0 true false] } : State).ready = [.inr 0] := by decide
theorem wit_Residues_traps : (7 : Reg).toNat % 2 = 1 ∧ 8 < bits (0x00140309 : Word) 3 0 ∧ bits (0x00140332 : Word) 5 4 = 3
    ∧ (bits (0x00140320 : Word) 3 0 = 0 ∧ bits (0x00140320 : Word) 5 4 = 2) ∧ bits (0x00090322 : Word) 20 16 < 10 ∧ 30 < bits (0x001F0322 : Word) 20 16
    ∧ bits (0x00140022 : Word) 15 8 = 0 := by decide
theorem wit_SpecialWrites_errinj : (0x4000000000000000 : Word).getLsbD 62 = true ∧ bits (0x80000 : Word) 31 19 ≠ 0 ∧ bits (0x3000000000000000 : Word) 61 60 = 3
    ∧ 5 < bits (0x0600000000000000 : Word) 59 56 ∧ 63 < bits (0x0000004000000000 : Word) 39 32
    ∧ (bits (0x0100002000000000 : Word) 59 56 = 1 ∧ 31 < bits (0x0100002000000000 : Word) 39 32)
    ∧ ¬ ((0x8500003F0007FFFF : Word).getLsbD 62 = true ∨ bits (0x8500003F0007FFFF : Word) 31 19 ≠ 0 ∨ bits (0x8500003F0007FFFF : Word) 61 60 = 3
      ∨ 5 < bits (0x8500003F0007FFFF : Word) 59 56 ∨ 63 < bits (0x8500003F0007FFFF : Word) 39 32
      ∨ (bits (0x8500003F0007FFFF : Word) 59 56 = 1 ∧ 31 < bits (0x8500003F0007FFFF : Word) 39 32)) := by decide
theorem wit_ActivationEnds_defer : (st fun k => { k with act := some (actOf 15 (plainMsg 0 0 0)) }).my.armed 2 = false := by decide
/-- A counter one below its threshold; with and without REARM; on a tile that replays. -/
theorem wit_CounterBumps_fires : (8 : Nat) ≤ min (7 + 1) (2 ^ 32 - 1) ∧ ((st id).tile 0).replay = false
    ∧ ((st id fun x => (x.setCounter 63 ⟨7, 8, 0, 0, true, true, true⟩)).tile 0).counter 63 = ⟨7, 8, 0, 0, true, true, true⟩
    ∧ ((st id fun x => { x with replay := true }).tile 0).replay = true := by decide
theorem wit_NeighbourPorts_replay : (st id).my.replay = false ∧ (st id fun x => { x with replay := true, feed := [leBytes 8 7 ++ leBytes 8 1] }).my.replay = true
    ∧ (st id fun x => { x with replay := true, feed := [leBytes 8 7 ++ leBytes 8 1] }).my.feed = (leBytes 8 7 ++ leBytes 8 1) :: []
    ∧ leNat ((leBytes 8 7 ++ leBytes 8 1).drop 8) % 2 = 1 := by decide
theorem wit_BarrierJoins_replay : (stT (regs [(1, 0x0010_0000), (3, 0x1FF80)]) mapped).my.replay = false
    ∧ (stT (regs [(1, 0x0010_0000), (3, 0x1FF80)]) fun x => { mapped x with replay := true }).my.replay = true := by decide
/-- Messages to a HID that the handler cache does not hold: whether their entry is still read the model leaves free. -/
theorem wit_ArrivalSteps_late (i : Nat) : node.entryLate 0 i (msgTo 7) = Config.lateEntry node.fv i ∧ node.netLate 0 i (msgTo 7) = Config.lateEntry node.fv i
    ∧ node.loopLate 0 i (.msg (msgTo 7) false) = Config.lateEntry node.fv i ∧ node.loopLate 0 i (.ring 15) = false :=
  have h : (node.tile 0).enters (msgTo 7) = some (msgTo 7) := by decide
  ⟨rfl, by rw [State.netLate, h, Option.any_some]; rfl, rfl, rfl⟩
theorem wit_VoteRules_kept : (node.tile 0).armed 3 = false ∧ (node.tile 0).votes = [] := by decide
theorem wit_JoinRules_viral : node.viralAt 0 = false ∧ (node.onDie 0 fun x => { x with viral := true }).viralAt 0 = true := by decide
theorem wit_TableRules_poison : (btNode 0x0010000000007001).memPoisoned 0x2000 8 = false
    ∧ ({ btNode 0x0010000000007001 with memPoison := [0x2000] } : State).memPoisoned 0x2000 8 = true := by decide
/-- The stale entry allows a read; its page has no leaf, one whose stack is up, one whose edge die is down, a COW one and a DUP one. -/
def stalePage (pte : Nat) : State := (paged pte).onTile 0 fun x => { x with tlb := [⟨0, 1, 1, false, 7, 0x10000000087⟩] }
theorem wit_ServedRules_clauses : ((staleNode 0x10087).allows ⟨0, 1, 2, false, 7, 0x10000000087⟩ (needOf true false false) = true
      ∧ (staleNode 0x10087).walked 0 0x20000 false = .fault false)
    ∧ (stalePage 0x10087).stale 0 ⟨0, 1, 1, false, 7, 0x10000000087⟩ 0x1FFF8 = true
    ∧ ((stalePage 0x10087).tile 0).tlbFind 0x1FFF8 = some ⟨0, 1, 1, false, 7, 0x10000000087⟩
    ∧ (stalePage 0x10087).allows ⟨0, 1, 1, false, 7, 0x10000000087⟩ (needOf true false false) = true := by decide
/-- The walk whose target is up, or down, and the walks of a write. -/
theorem wit_ServedRules_walks : (match (stalePage 0x10087).walked 0 0x1FFF8 false with
      | .fill f => ((stalePage 0x10087).memTarget f.dom ((stalePage 0x10087).entryAddr f 0x1FFF8)).any fun g =>
          !(stalePage 0x10087).isDown 0 g && ({ stalePage 0x10087 with downTargets := [g.link] } : State).isDown 0 g
      | _ => false) = true
    ∧ (stalePage 0x100A7).walked 0 0x1FFF8 true = .copy ∧ (stalePage 0x10097).walked 0 0x1FFF8 true = .collapse := by decide
/-- A GET of a doubleword at 0x10008 for pane 123 of tile 0, whose TLB has the page, or not, with a leaf for it in the tables. -/
def getFar : AsyncReq := ⟨.get, 0, 1, 1, 1, 0x10008, 0x800000000007BFF8, 8, none⟩
def farOp (f : Tile → Tile := id) : State := (paged 0x10087).onTile 0 fun x => f { given x with rmaOps := [accepted getFar] }
theorem wit_VirtualPorts : Performs farOp 0 [] (accepted getFar) [] ∧ getFar.y.getLsbD 63 = true ∧ getFar.z.toNat = 8 ∧ getFar.x.toNat < 2 ^ 52
    ∧ (∃ pa c y, (farOp fun x => { x with tlb := [⟨0, 1, 1, false, 0, 0x10087⟩] }).access .engine 0 false 0x10008 true false false false = .ok pa c y)
    ∧ (farOp fun x => { x with tlb := [⟨0, 1, 1, false, 0, 0x10087⟩] }).memPoisoned 0x10008 8 = false ∧ (farOp.tile 0).armed 0 = false
    ∧ (farOp.tile 0).sp.wf = true ∧ (farOp.tile 0).tlbFind 0x10008 = none ∧ farOp.fillComes 0 0x10008 = false
    ∧ (farOp fun x => x.onCtx 0 fun k => { k with status := .free }).parkedOn 0 0x10008 = false
    ∧ (∃ e pa, farOp.walked 0 0x10008 false = .fill e ∧ farOp.engineEntry 0 0 0x10008 true false e = .at pa
      ∧ ({ farOp with later := [.tlbFill 0 e.word] } : State).fillComes 0 0x10008 = true
      ∧ ({ farOp with tables := [] } : State).engineEntry 0 0 0x10008 true false e = .code 4) :=
  ⟨⟨⟨rfl, Nat.mod_one _⟩, by decide⟩, by decide, by decide, by decide, ⟨_, _, _, rfl⟩, and4 (by decide) ⟨by decide, by decide,
    ⟨_, _, rfl, rfl, by decide, by decide⟩⟩⟩
/-- A SACC whose descriptor's page the TLB does not have, with a leaf for it: the operation waits, with its fill under way. -/
theorem wit_CacheDecides_hold : ∃ v, (paged 0x10087).sacDecide 0 ⟨.sacc, 0, 1, 1, 1, 0x10000, 0, 0, none⟩ = .hold v := ⟨_, rfl⟩
theorem wit_CacheCompletes_still : ((node.tile 0).pane 3).releasing = false := by decide
/-- A frame of a fabric buffer with a tag; a ring and a context of a saved tile; a counter without a tag. -/
theorem wit_Errors_more : ((.message (msgTo 5) false false : Inbound)).owner = some (1, 1)
    ∧ (vget (vset node.ports 31 { Port.reset with inbox := [.message (msgTo 5) false false] }) 31 Port.reset).inbox[0]? = some (.message (msgTo 5) false false)
    ∧ (∃ y, (dnode fun d => { d with saved := [(0, (node fun x => { x with queues := vset x.queues 15 (que [] true [oneSlot (msgTo 5)]) }).tile 0)] }).savedTile 1 0 = some y
      ∧ (y.queue 15).ring[0]? = some (oneSlot (msgTo 5)))
    ∧ (∃ y a, (dnode fun d => { d with saved := [(0, trappedNode.tile 0)] }).savedTile 1 0 = some y ∧ (y.ctx 4).act = some a)
    ∧ domOf ((node.tile 0).counter 63).tag = 0
    ∧ domOf (((node fun x => x.setCounter 63 ⟨3, 8, 0, 0x0010010000000000, true, false, true⟩).tile 0).counter 63).tag ≠ 0 :=
  ⟨by decide, by decide, ⟨_, rfl, by decide⟩, ⟨_, _, rfl, rfl⟩, by decide, by decide⟩
theorem wit_replays_not : (trappedNode.tile 0).replay = false ∧ (rnsNode.tile 0).replay = false ∧ (node.tile 0).replay = false := by decide
theorem wit_GangSwitches_bytes : (∀ q < 16, ((switching.tile 0).queue q).waiting = []) ∧ (∀ c < 5, ((switching.tile 0).ctx c).act = none)
    ∧ (switching.tile 0).storeUsed ≤ 512 := by decide
/-- Module 1, whose path is up by port 31; the same with the port and the path down. -/
theorem wit_LinkCounts_port : (farNet (pkt bulkMsg false 0 true false)).routePort 1 = some 31 ∧ (1, 31) ∈ (farNet (pkt bulkMsg false 0 true false)).routes
    ∧ (∀ o ∈ (farNet (pkt bulkMsg false 0 true false)).routes, o.1 = 2 → (farNet (pkt bulkMsg false 0 true false)).routePort 1 ≠ some o.2)
    ∧ State.reset.routePort 1 = none ∧ (farNet (pkt bulkMsg false 0 true false)).routes.countP (· == (1, 31)) = 1
    ∧ 1 ∈ ({ farNet (pkt bulkMsg false 0 true false) with downPaths := [1] } : State).downPaths
    ∧ (vget (vset State.reset.ports 31 { Port.reset with up := false }) 31 Port.reset).up = false := by decide
theorem wit_Injects_die : (inNet (pkt ⟨header (32768 + 28 * 1024) 5 false 0, 0, 0, []⟩ false 0 false false)).leaves
      (pkt ⟨header (32768 + 28 * 1024) 5 false 0, 0, 0, []⟩ false 0 false false) = true
    ∧ 28 ≤ dieAt ((pkt ⟨header (32768 + 28 * 1024) 5 false 0, 0, 0, []⟩ false 0 false false).dst % 32768) ∧ dieAt (32768 % 32768) < 28 := by decide
theorem wit_Records_payload : ([some 0] : List (Option Word))[0]? = some (some 0) ∧ 3 + (h0Of (0 : Word)).len ≤ 18
    ∧ (∀ w, ([some 0] : List (Option Word))[18]? ≠ some (some w)) := ⟨rfl, by decide, fun _ h => nomatch h⟩
theorem wit_Launches_full : 64 ≤ ((ring fun h => { h with queue := List.replicate 64 (msgTo 5) }).fn 63).queue.length := by decide
theorem wit_Mailbox_key : State.reset.identity = some 0 ∧ ({ State.reset with identity := none } : State).identity = none ∧ node.domain 1 = some (dom1 1 0 [0])
    ∧ node.domain 2 = none := by decide

/-! ### States that meet the hypotheses of the statements: clauses of checks, traps and holds -/

theorem wit_ScratchpadLoads_poison : Reachable (st (regs [(1, 0x7BFF8)]) fun x => { x with spPoison := [0x7BFF8] }) ((0x7BFF8 : Nat)) 8
    ∧ (st (regs [(1, 0x7BFF8)]) fun x => { x with spPoison := [0x7BFF8] }).my.spPoisoned 0x7BFF8 8 = true :=
  ⟨⟨by decide, by decide, by decide, by decide⟩, by decide⟩
/-- Formats that no operand has: A = 5 for VFMA, 11 for VCVT, and FP32 (0) as the block format of VQBLK and VDQBLK. -/
theorem wit_prefixes_refused : (st fun k => { k with pfx := 5 * 2 ^ 22, st := k.st ||| 0x10 }).me.vfmaMode = none
    ∧ (∃ f : Pfx, (st fun k => { k with pfx := 11 * 2 ^ 22, st := k.st ||| 0x10 }).me.pfxNow = some f ∧ f.a = 11)
    ∧ (∃ f : Pfx, (st fun k => { k with pfx := 0, st := k.st ||| 0x10 }).me.pfxNow = some f ∧ f.b = 0 ∧ f.a = 0) :=
  ⟨by decide, ⟨_, rfl, by decide⟩, ⟨_, rfl, by decide⟩⟩
theorem wit_Residues_lanes : 2 ^ bits (0x00140322 : Word) 20 16 ≤ (st id fun x => { x with lanes := 2 ^ 20 }).my.lanes
    ∧ (st id).my.lanes < 2 ^ bits (0x00140322 : Word) 20 16 := by decide
/-- Lanes past the CORE panes and at no multiple of 4; a vector at no multiple of 128, one past the panes, one in a pane of an engine, and one
with a poisoned lane. -/
theorem wit_VectorTraps : Fails (st id) 0x7C000 4 .scratchBounds ∧ Fails (st id) 2 4 .misaligned
    ∧ Fails (st id fun x => { x with panes := vset x.panes 1 ⟨.rma, false, 0, 0⟩ }) 0x1000 4 .paneOwnership
    ∧ (0x7BFC0 : Int) % 128 ≠ 0 ∧ spLimit (st id) < (0x7BF81 : Int) + 128 ∧ RangeOk (st id) (0x7BF80 : Int) 128 128
    ∧ (st id fun x => { x with spPoison := [0x7BFF8] }).my.spPoisoned (0x7BF80 + 4 * 31) 4 = true
    ∧ (∀ m < 30, (st id fun x => { x with spPoison := [0x7BFF8] }).my.spPoisoned (0x7BF80 + 4 * m) 4 = false) :=
  ⟨.inl (by decide), .inr (.inl (by decide)), .inr (.inr (by decide)), by decide, by decide,
    range_ok _ _ _ _ (by decide) (by decide) (by decide) (by decide) (by decide), by decide⟩
theorem wit_MessageAccepted_triple : (node fun x => { x with hcache := [(1, 8, ⟨0x2000, 3, false, true⟩)] }).handler 0 1 8 = some ⟨0x2000, 3, false, true⟩
    ∧ node.handler 0 1 5 = some ⟨0x2000, 15, false, false⟩ ∧ (node.tile 0).killed 0x0010010000000000 = false := by decide
theorem wit_StoreGone : (st fun k => { k with failedStore := some 0x1FFF8, word := some 0#32 }).me.failedStore = some 0x1FFF8
    ∧ (st fun k => { k with failedStore := some 0x1FFF8, word := some 0#32 }).me.word ≠ none
    ∧ (st fun k => { k with storeQ := [⟨0, 64, 8, 7, false, 0⟩] }).me.storeQ ≠ [] ∧ (st id).me.failedStore = none := by decide
/-- Control words and record addresses that are not legal; a record whose page the TLB has not, one whose page may not be written, filled for it. -/
theorem wit_BarrierJoins_traps : bits (3 : Word) 1 0 = 3 ∧ (0x1FF84 : Word).toNat % 128 ≠ 0 ∧ bits (0x0010000000000000 : Word) 63 52 ≠ 0
    ∧ (0x0010000000000000 : Word).toNat % 128 = 0
    ∧ (stT id).access .context 0 false 0x1FF80 false true false true = .miss
    ∧ (stT id fun x => { x with tlb := [⟨0, 0, 1, false, 0, 0x10083⟩] }).access .context 0 true 0x1FF80 false true false true = .trap .protection := by decide
/-- A COW page, one not to be read, one behind an edge die that came up again, and one with no target. -/
theorem wit_GlobalChecks_found :
    (pteBit 0x100A7 5 = true ∧ (stT id fun x => { x with tlb := [⟨0, 0, 1, false, 0, 0x100A7⟩] }).my.tlbFind 0x1FFF8 = some ⟨0, 0, 1, false, 0, 0x100A7⟩)
    ∧ (stT id fun x => { x with tlb := [⟨0, 0, 1, false, 0, 0x10081⟩] }).allows ⟨0, 0, 1, false, 0, 0x10081⟩ (needOf true false false) = false
    ∧ (stT id).my.tlbFind 0x1FFF8 = none
    ∧ (stT id fun x => { x with tlb := [⟨0, 0, 1, false, 7, 0x10000000087⟩] }).stale 0 ⟨0, 0, 1, false, 7, 0x10000000087⟩ 0x1FFF8 = true
    ∧ ((stT id).memTarget 0 ((stT id).entryAddr ⟨0, 0, 1, false, 7, 0x10000000087⟩ 0x1FFF8)).isSome = true
    ∧ (stT id).memTarget 0 ((stT id).entryAddr ⟨0, 0, 1, false, 0, 0x40000000087⟩ 0x1FFF8) = none := by decide
theorem wit_SyncAndFences_denied : node.denied .context 1 64 (needOf false true false) = false
    ∧ ({ node with tables := [] } : State).denied .context 1 64 (needOf false true false) = true
    ∧ ((pairOp (tileOne putReq)).tile 0).outstanding 0 ReqOp.isPut = true := by decide
theorem wit_IssueQueues_full : 16 ≤ (st id fun x => { x with asyncQ := List.replicate 16 getReq }).my.asyncQ.length := by decide
/-- A range of no pane, one that reaches pane 124, one from pane 0, and one of a pane that L has given away. -/
theorem wit_PaneOwnership_traps : ¬ (1 ≤ bits (0x005 : Word) 14 8) ∧ 124 < bits (0x27B : Word) 6 0 + bits (0x27B : Word) 14 8
    ∧ bits (0x27B : Word) 6 0 + bits (0x27B : Word) 14 8 ≤ 128 ∧ (st id).isS = false ∧ bits (0x100 : Word) 6 0 = 0
    ∧ ((st id fun x => { x with panes := vset x.panes 123 ⟨.mm, false, 0, 0⟩ }).my.pane 123).isCore = false
    ∧ ((st id fun x => { x with panes := vset x.panes 123 ⟨.ni, false, 0, 0⟩ }).my.pane 123).owner = .ni := by decide
theorem wit_ArrivalSteps_waits : node.loopNeedsS 0 (.msg (msgTo 0xFFF) false) = true ∧ node.loopNeedsS 0 (.msg (msgTo 5) false) = false
    ∧ node.arrivalNeedsS 0 (msgTo 0xFFF) = true := by decide
/-- A cached load of the last doubleword of a line that the cache lacks; an ACQ that its table denies, grants, and meets poisoned. -/
theorem wit_AnswerRules_cached : node.memPoisoned ((2 ^ 36 - 8) / 128 * 128) 128 = false ∧ node.line? (dieOf 0) ((2 ^ 36 - 8) / 128) = none
    ∧ (node.caches.filter fun l => l.die == dieOf 0 && cacheSetOf l.line == cacheSetOf ((2 ^ 36 - 8) / 128)).length < 16
    ∧ node.denied .context 1 64 (needOf true true false).atTable = false
    ∧ ({ node with tables := [] } : State).denied .context 1 64 (needOf true true false).atTable = true
    ∧ ({ node with memPoison := [64] } : State).memPoisoned 64 8 = true := by decide
theorem wit_TableRules_barred : (btNode 0).denied .firmware 1 0x2000 ⟨true, true, false, false⟩ = false
    ∧ (btNode 0).denied .firmware 1 0x2000 ⟨true, false, false, false⟩ = false
    ∧ ({ btNode 0 with tables := [] } : State).denied .firmware 1 0x2000 ⟨true, false, false, false⟩ = true
    ∧ (0x10, false) ∈ ({ bt0 with reserved := [(0x10, false)] } : BlockTable).reserved
    ∧ bits (0x0000000000010001 : Word) 51 12 = 0x10 ∧ (0x0000000000010001 : Word).getLsbD 1 = false := by decide
/-- An atomic whose operand's page may be written, one that changes its operand and one that does not. -/
theorem wit_RequestRules_atomics : Mapped (stT (regs [(1, 0x1FFF8)]) mapped) ((0x1FFF8 : Nat)) 8 true true false 0x1FFF8 false 0
    ∧ atomWrites .atomAdd 5 3 0 = true ∧ atomWrites .atomMax 5 3 0 = false ∧ inWindow 0x1FFF8 = false ∧ (stT id).groupAt 0x1FFF8 = none
    ∧ (bits (0x20 : Word) 63 5 ≠ 0 ∧ 4 < bits (5 : Word) 2 0 ∧ bits (4 : Word) 2 0 ≤ 4) :=
  ⟨⟨by decide, by decide, by decide, by decide⟩, by decide⟩
/-- The tables of `paged`: two entries that lead on and a leaf; an address past the leaf and one past 2^52. -/
theorem wit_WalkRules : (BitVec.ofNat 64 ((paged 0x10087).memLe 0x10000 8)).getLsbD 0 = true ∧ (paged 0x10087).memLe 0x10000 8 = 0x20001
    ∧ (paged 0x10087).memLe 0x20000 8 = 0x30001 ∧ (paged 0x10087).memLe 0x30008 8 = 0x10087 ∧ (0x10087 : Word).getLsbD 7 = true
    ∧ (0x20001 : Word).getLsbD 7 = false ∧ bits (0x20001 : Word) 51 16 * 65536 = 0x20000 ∧ bits (0x10087 : Word) 15 13 = 0
    ∧ (paged 0x10087).memLe 0x30010 8 = 0 ∧ (2 : Nat) ^ 52 ≤ 2 ^ 52 := by decide
theorem wit_FillRules_comes : ({ paged 0x10087 with later := [.tlbFill 0 0x0010000000010000] } : State).fillComes 0 0x1FFF8 = true
    ∨ ∃ w, ({ paged 0x10087 with later := [.tlbFill 0 w] } : State).fillComes 0 0x1FFF8 = true := by
  refine .inr ?_
  have h : ∃ e, (paged 0x10087).walked 0 0x1FFF8 false = .fill e ∧ ({ paged 0x10087 with later := [.tlbFill 0 e.word] } : State).fillComes 0 0x1FFF8 = true :=
    ⟨_, rfl, by decide⟩
  obtain ⟨e, -, h⟩ := h
  exact ⟨_, h⟩
/-- A PUT of a tile of a viral die to another die is held, and one to the same die is not. -/
theorem wit_HeldPorts : Picked ((pairOp { putReq with x := 0x4000007BFF0 * 0x100 }).onDie 0 fun x => { x with viral := true }) 0 []
      (accepted { putReq with x := 0x4000007BFF0 * 0x100 }) []
    ∧ (((pairOp (tileOne putReq)).onDie 0 fun x => { x with viral := true }).rmaHeld 0 { putReq with x := 0x0400 * 0x10000000000 }) = true
    ∧ (((pairOp (tileOne putReq)).onDie 0 fun x => { x with viral := true }).rmaHeld 0 (tileOne putReq)) = false :=
  ⟨⟨rfl, Nat.mod_one _⟩, by decide⟩
/-- A GETX and a PUTX of one element of 8 bytes, the index 1 naming the last doubleword of pane 123; and an index past the panes. -/
def indexReq (op : ReqOp) : AsyncReq := ⟨op, 0, 1, 1, 1, 0x1000007BFF0, 0x7BFF0, 0x0000000100001000, none⟩
theorem wit_IndexedPorts : Performs (pairOp (indexReq .getx) [1]) 0 [] (accepted (indexReq .getx) [1]) []
    ∧ (indexReq .getx).y.getLsbD 63 = false ∧ (pairOp (indexReq .getx) [1]).targetGone 0 1 1 = false ∧ bits (indexReq .getx).x 63 40 / 32768 = 0
    ∧ bits (indexReq .getx).x 18 0 + 1 * 2 ^ (bits (indexReq .getx).z 50 48 + 3) = 0x7BFF8 ∧ bits (indexReq .getx).z 44 32 = 1
    ∧ (pairOp (indexReq .getx) [1]).portCheck 1 1 .rma [(0x7BFF8, 8)] = none ∧ (pairOp (indexReq .getx) [2]).portCheck 1 1 .rma [(0x7C000, 8)] ≠ none
    ∧ ((pairOp (indexReq .putx) [1]).tile 1).spPoisoned 0x7BFF8 8 = false ∧ ((pairOp (indexReq .putx) [1]).tile 0).spPoisoned 0x7BFF0 8 = false
    ∧ bits (indexReq .putx).x 37 32 = 0 ∧ ((pairOp (indexReq .putx) [1]).tile 1).sp.wf = true :=
  ⟨⟨⟨rfl, Nat.mod_one _⟩, by decide⟩, by decide⟩
/-- A RATOM.SUBST that names a byte of a pane that is not there for it, one of a poisoned doubleword, and one whose result reaches pane 123. -/
theorem wit_AtomicPorts_clauses : (pairOp (tileOne atomReq) [5, 0]).portCheck 1 1 .rma [(0, 1)] ≠ none
    ∧ (((pairOp (tileOne atomReq) [5, 0]).onTile 1 fun x => { x with spPoison := [0x7BFF8] }).tile 1).spPoisoned 0x7BFF8 1 = true
    ∧ (0x400010000007BFF8 : Word).getLsbD 62 = true ∧ bits (0x400010000007BFF8 : Word) 18 0 = 0x7BFF8 ∧ (7 : Nat) < 8 := by decide
/-- A copy from a tile of a viral die that no fence has taken; and one whose dropped packet's path has gone down. -/
theorem wit_StreamCopies_held : ((node.onDie 0 fun x => { x with viral := true }).sideMute copyProg.src) = true ∧ node.sideMute copyProg.src = false
    ∧ node.sideMute copyProg.dst = false ∧ ({ copyProg with dropped := some 2 } : Program).dropped = some 2 ∧ node.pathUp 2 = false
    ∧ (node.onDie 0 fun x => { x with viral := true }).viralAt 0 = true := by decide
/-- As `wit_CacheDecides_hit`, of the PREV mode: the stored input is written, too. -/
def sacPrev : SacPlan :=
  { plan true false 0xFFFF00010000 0x10000 with dws := [0, 0xFFFF00010000, 0, 0x8000000000020001, 0x10000, 0x10040, 0, 0] }
theorem wit_CacheDecides_prev : sacPrev.anchor = false ∧ ∃ u old v out v' w sin pa,
    sacNode.tileRange 0 sacPrev.sin sacPrev.inBytes false = (u, .parts old) ∧ u.partsPoisoned old = false
    ∧ (∃ bad, sacPrev.compare ((sacNode.tile 0).sp.getList sacPrev.inAt sacPrev.inBytes) (u.partsRead old) sacPrev.nin 0 = (bad, true))
    ∧ u.tileRange 0 sacPrev.sout sacPrev.osize false = (v, .parts out) ∧ v.partsPoisoned out = false
    ∧ v.tileRange 0 sacPrev.sin sacPrev.inBytes true = (v', .parts sin) ∧ v'.tileRange 0 0x10080 64 true = (w, .parts pa) :=
  ⟨by decide, _, _, _, _, _, _, _, _, rfl, by decide, ⟨_, rfl⟩, rfl, by decide, rfl, rfl⟩
/-- Pane 123 held by an operation that another tile answers; a domain of two tiles; a survivor. -/
theorem wit_Withdrawals_held : ((node fun x => { x with rmaOps := [{ accepted getReq with holds := [(0, 123)] }] }).tile 0).rmaOps.any
      (fun o => o.holds.contains (0, 123)) = true
    ∧ ((node fun x => { x with rmaOps := [{ accepted getReq with holds := [(0, 123)] }] }).tile 0).rmaOps.any (fun o => o.holds.contains (0, 122)) = false
    ∧ (pair getReq).domain 1 = some { dom1 1 0 [0] with tiles := [] ++ 0 :: [1] } ∧ ((pair getReq).tile 0).dom = 1 ∧ (pair getReq).gone 0 = false
    ∧ ((pair getReq).tile 0).replay = false ∧ (∀ v ∈ ([] : List Nat), v % 32768 = 1) ∧ ((pair getReq).tile 1).withdrawn = false
    ∧ (dom1 1 0 [0]).gang = .running := by decide
/-- The save areas of a domain with a slot, an operand, a counter and a FIFO entry of its colour 1. -/
theorem wit_Errors_saved : ∃ y : Tile, (dnode fun d => { d with saved := [(0, (node fun x => ({ x with
        queues := vset x.queues 15 (que [oneSlot (msgTo 5)]), store := [oneSlot (operand true)] }.setCounter 63
          ⟨3, 8, 0, 0x0010010000000000, true, false, true⟩).setFifo 1 [⟨77, false, 1, 1, 0⟩]).tile 0)] }).savedTile 1 0 = some y
    ∧ (y.queue 15).waiting[0]? = some (oneSlot (msgTo 5)) ∧ y.store[0]? = some (oneSlot (operand true)) ∧ domOf (y.counter 63).tag ≠ 0
    ∧ (y.fifoAt 1)[0]? = some ⟨77, false, 1, 1, 0⟩ := ⟨_, rfl, by decide⟩
/-- A poisoned entry of a ring; a kill list that a kill brings to 48. -/
theorem wit_ColourKills_ring : (∃ sl ∈ (((node fun x => { x with queues := vset x.queues 15 (que [] true [{ oneSlot (msgTo 5) with bad := true }]) }).tile 0).queue 15).ring,
      sl.bad = true)
    ∧ ((node fun x => { x with kills := List.replicate 47 (2, 2) }).tile 0).kills.length + 1 = 48 ∧ (node.tile 0).withdrawn = false := by
  refine ⟨⟨_, List.mem_singleton.mpr rfl, rfl⟩, by decide⟩
theorem wit_GangSwitches_kills : ∃ x y z w, Event.colourKillArrival x 1 y z w ∈ ({ switching with later := [.colourKillArrival 0 1 1 0x20 0] } : State).later :=
  ⟨0, 1, 0x20, 0, List.mem_singleton.mpr rfl⟩
theorem wit_DieLosses_tiles : node.tilesOn 1 = [] ∧ 0 ∈ node.tiles.map (·.1) ∧ dieAt 0 = 0 := by decide
/-- A boot in the middle of a window; its end. -/
theorem wit_Windows_short : (({ window9 470 5 1 with beat := 5 } : State).beat % 2 ^ 32 ≠ 0) ∧ (((window9 470 5 1).onDie 9 fun x => { x with short := true }).die 9).short = true
    ∧ ((window9 470 5 1).die 9).short = false := by decide
theorem wit_Rails_stack : 15 ∈ State.reset.stackList ∧ 15 ∉ State.reset.failedStacks ∧ 16 ∉ State.reset.stackList := by decide
theorem wit_Reservations_owed : ({ State.reset with net := [{ pkt bulkMsg false 0 false false with dropped := true }] } : State).owes 1 (.ni 0) = true := by decide
/-- A domain that is switched out, with the image of its tile. -/
theorem wit_Federations_out : ∃ d : Domain, d = { dom1 1 0 [0] with gang := .out, saved := [(0, node.tile 0)] } ∧ d.isOut = true
    ∧ d.imageOf 0 = some (node.tile 0) ∧ ({ State.reset with domains := [d] } : State).survivors d = 0 :: [] ∧ (node.tile 0).replay = false :=
  ⟨_, rfl, by decide, rfl, by decide⟩
end Sys2Proof.Tests
end

section
/-! SUPPORT. What a step of the machine runs (R10, R23, R24, R68): one lemma for each way a step can go, and the two statements about
steps assembled from them. -/

namespace Sys2Proof.Machine

open Host (Outcome)

/-! ### One context of a tile -/

@[simp] theorem ctxAt_onCtx_eq (s : State) (t c : Nat) (f : Ctx → Ctx) (h : c < 6) : (s.onCtx t c f).ctxAt t c = f (s.ctxAt t c) := by
  simp [State.onCtx, State.ctxAt, h]

/-- A TLB entry moved to the front is no matter of the contexts (R226). -/
@[simp] theorem ctxAt_touched (s : State) (t va c : Nat) : (s.touched t va).ctxAt t c = s.ctxAt t c := by
  simp only [State.ctxAt, State.touched, tile_onTile_eq]
  split <;> rfl

@[simp] theorem fetched_cur (s : State) (c : Fin 6) : (s.fetched c).cur = s.cur := by
  unfold State.fetched
  split <;> rfl

@[simp] theorem ctxAt_fetched (s : State) (c : Fin 6) (e : Nat) : (s.fetched c).ctxAt s.cur e = s.ctxAt s.cur e := by
  unfold State.fetched
  split
  · rfl
  · exact ctxAt_touched ..

/-- Once its word is kept, a context has issued: it does not merely wait to issue (R24). -/
theorem waits_keepWord (s : State) (c : Fin 6) (w : BitVec 32) : (s.keepWord c w).waits c = false := by
  have hk : (s.keepWord c w).ctxAt (s.keepWord c w).cur c
      = if (s.ctxAt s.cur c).status = .stalled ∨ (s.ctxAt s.cur c).status = .parked then { s.ctxAt s.cur c with word := some w }
        else s.ctxAt s.cur c := ctxAt_onCtx_eq _ _ _ _ c.isLt
  rw [State.waits, hk]
  split
  case isTrue => simp
  case isFalse h =>
    obtain ⟨hs, hp⟩ := not_or.1 h
    simp [hs, hp]

/-! ### The instructions that wait, tried again (R24, R25) -/

theorem retryOne_next {s t : State} {c : Fin 6} {w : BitVec 32} {i : Instr} (hd : decode w = .ok i)
    (ht : exec i { s with who := c, iw := w } = .next t) : retryOne s c w = .next (t.keepWord c w) := by
  simp [retryOne, hd, ht]

theorem retryAll_cons_next {s t : State} {c : Fin 6} {w : BitVec 32} (rest : List (Fin 6)) (hw : (s.ctxAt s.cur c).word = some w)
    (hm : s.mayRetry c = true) (ht : retryOne s c w = .next t) : retryAll s (c :: rest) = retryAll t rest := by
  simp [retryAll, hw, hm, ht]

theorem retryAll_cons_skip {s : State} {c : Fin 6} (rest : List (Fin 6)) (hm : s.mayRetry c = false) :
    retryAll s (c :: rest) = retryAll s rest := by
  rw [retryAll]
  split <;> simp [hm]

/-! ### The context that takes the beat (R23, R68) -/

theorem issueWord_next {s t : State} {c : Fin 6} {w : BitVec 32} {i : Instr} (hd : decode w = .ok i)
    (hh : (s.ctxAt s.cur c).held i = false) (ht : exec i { s with iw := w } = .next t) : issueWord s c w = .next (t.keepWord c w) := by
  have hh' : (State.ctxAt { s with iw := w } s.cur c).held i = false := hh
  simp [issueWord, hd, hh', ht]

/-- The fetch looks at the tiles and the memory, not at the context that the state names as the one that issues. -/
theorem issueOne_of_word {s : State} {c : Fin 6} {w : BitVec 32} (hpc : bits (s.ctxAt s.cur c).pc 1 0 = 0)
    (hw : s.fetchAt s.cur c = .word w) : issueOne s c = issueWord (({ s with who := c, iw := 0 } : State).fetched c) c w := by
  have hpc' : bits ({ s with who := c, iw := 0 } : State).pc 1 0 = 0 := hpc
  have hw' : ({ s with who := c, iw := 0 } : State).fetchAt s.cur c = .word w := hw
  simp only [issueOne, hpc', hw', ne_eq, not_true_eq_false, if_false]

theorem issueAmong_append {s : State} {before : List (Fin 6)} (rest : List (Fin 6)) (h : ∀ e ∈ before, s.mayIssue e = false) :
    issueAmong s (before ++ rest) = issueAmong s rest := by
  induction before with
  | nil => rfl
  | cons e before ih =>
    obtain ⟨he, hb⟩ := List.forall_mem_cons.1 h
    simp [issueAmong, he, ih hb]

theorem issueAmong_cons_takes {s t : State} {c : Fin 6} (rest : List (Fin 6)) (hm : s.mayIssue c = true) (ht : issueOne s c = .next t)
    (hw : t.waits c = false) : issueAmong s (c :: rest) = .next (t.tookBeat c).passTurn := by
  simp [issueAmong, hm, ht, hw]

theorem issueTurn_of_retryAll {s u : State} (he : s.my.enabled = true) (hw : s.my.withdrawn = false)
    (hu : retryAll s s.issueOrder = .next u) : issueTurn s = issueAmong u (s.issueOrder.filter fun c => !s.mayRetry c) := by
  simp [issueTurn, he, hw, hu]

/-! ### Which pending step comes (R10, logs 5, 36) -/

/-- No pending step happens between the issues of the tiles. -/
theorem whenOf_ne_issue (e : Event) : whenOf e ≠ .issue := by
  cases e <;> simp [whenOf]

theorem ready_of_issue {s : State} (h : s.phase = .issue) : s.ready = [] := by
  simp [State.ready, h, whenOf_ne_issue]

/-- A place of `later` that may happen now holds a step whose part of the beat and whose turn in its channel have come. -/
theorem inl_mem_ready {s : State} {k : Nat} {e : Event} (hk : Sum.inl k ∈ s.ready) (he : s.later[k]? = some e) :
    whenOf e = s.phase ∧ s.inOrder e k = true := by
  simp only [State.ready, List.mem_append, List.mem_map, List.mem_filter, Prod.exists, Sum.inl.injEq] at hk
  rcases hk with ⟨e', i, ⟨hmem, hnow⟩, rfl⟩ | hk
  · obtain rfl : e' = e := Option.some.inj ((List.mk_mem_zipIdx_iff_getElem?.1 hmem).symm.trans he)
    simpa using hnow
  · split at hk <;> simp at hk

/-- Hops of packets come before the openings of the beat. -/
theorem inr_mem_ready {s : State} {k : Nat} (hk : Sum.inr k ∈ s.ready) : s.phase = .start := by
  refine Decidable.byContradiction fun h => ?_
  simp [State.ready, h] at hk

theorem dropAt_eq {α : Type} (l : List α) (k : Nat) : dropAt l k = l.take k ++ l.drop (k + 1) := by
  induction l generalizing k with
  | nil => simp [dropAt]
  | cons a l ih => cases k <;> simp [dropAt, ih]

/-! ### What a pending step runs -/

theorem encode_rowOf (e : Event) : encode (Claims.rowOf e) = none := by
  cases e <;> rfl

theorem runEvent_eq_exec (e : Event) (s : State) : runEvent e s = exec (Claims.rowOf e) s := by
  cases e <;> rfl

theorem guarded_eq_exec {e : Event} (h : eventInRange e = true) (s : State) : guarded e s = exec (Claims.rowOf e) s := by
  rw [guarded, if_pos h, runEvent_eq_exec]

/-! ### Which way a step goes -/

theorem step_of_now {s : State} {e : Event} {rest : List Event} (h : s.now = e :: rest) : step s = guarded e { s with now := rest } := by
  simp [step, h]

theorem step_of_issue {s : State} (hn : s.now = []) (hp : s.phase = .issue) : step s = issueTurn s := by
  simp [step, hn, ready_of_issue hp, turn, hp]

/-- What a step chooses among those that may happen now (log 5); it may choose none. -/
def State.chosen (s : State) : Option (Nat ⊕ Nat) := s.ready[Config.pick s.fv % (s.ready.length + 1)]?

theorem mem_ready_of_chosen {s : State} {x : Nat ⊕ Nat} (h : s.chosen = some x) : x ∈ s.ready := List.mem_of_getElem? h

theorem step_of_chosen_inl {s : State} {k : Nat} {e : Event} (hn : s.now = []) (hc : s.chosen = some (.inl k)) (he : s.later[k]? = some e) :
    step s = guarded e { s with fv := s.fv + 1, later := dropAt s.later k } := by
  have hr : s.ready ≠ [] := List.ne_nil_of_mem (mem_ready_of_chosen hc)
  unfold State.chosen at hc
  simp [step, hn, hr, hc, he]

theorem step_of_chosen_inr {s : State} {k : Nat} (hn : s.now = []) (hc : s.chosen = some (.inr k)) :
    step s = guarded (.packetHop k) { s with fv := s.fv + 1 } := by
  have hr : s.ready ≠ [] := List.ne_nil_of_mem (mem_ready_of_chosen hc)
  unfold State.chosen at hc
  simp [step, hn, hr, hc]

end Sys2Proof.Machine
end

section

open Sys2Proof Sys2Proof.Machine

/-- Settles O4: the waiting instructions clause by clause of `retryAll`; then the contexts before `c` are passed over, `c` fetches and
executes its word, and keeping that word means that it took the beat. -/
theorem stepRunsDecoded : Obligations.StepRunsDecoded := by
  unfold Obligations.StepRunsDecoded
  refine ⟨?retried, ?skipped, ?issued⟩
  case retried => exact fun s c rest w i t hw hm hd ht => retryAll_cons_next rest hw hm (retryOne_next hd ht)
  case skipped => exact fun s c rest hm => retryAll_cons_skip rest hm
  case issued =>
    intro s u c before after w i t hnow hphase hen hwd hretry hsplit hbefore hc hpc hfetch hdec hheld hexec
    have hword : issueOne u c = .next (t.keepWord c w) := by
      rw [issueOne_of_word hpc hfetch]
      refine issueWord_next hdec ?_ hexec
      rw [fetched_cur, ctxAt_fetched]
      exact hheld
    calc step s = issueTurn s := step_of_issue hnow hphase
      _ = issueAmong u (before ++ c :: after) := by rw [issueTurn_of_retryAll hen hwd hretry, hsplit]
      _ = issueAmong u (c :: after) := issueAmong_append _ hbefore
      _ = .next ((t.keepWord c w).tookBeat c).passTurn := issueAmong_cons_takes after hc hword (waits_keepWord t c w)

/-- Settles O5: each of the three ways to a pending step leads to `guarded`, which is `exec` of its row; what the chosen place holds may
happen now because `ready` lists it. -/
theorem stepRunsPending : Obligations.StepRunsPending := by
  unfold Obligations.StepRunsPending
  refine ⟨encode_rowOf, runEvent_eq_exec, ?due, fun s hnow => ⟨?listed, ?hop⟩⟩
  case due =>
    intro s e rest hnow hin
    rw [step_of_now hnow, guarded_eq_exec hin]
  case listed =>
    intro k e hchosen he hin
    obtain ⟨hwhen, horder⟩ := inl_mem_ready (mem_ready_of_chosen hchosen) he
    refine ⟨?_, horder, hwhen⟩
    rw [step_of_chosen_inl hnow hchosen he, guarded_eq_exec hin, dropAt_eq]
  case hop =>
    intro k hchosen
    refine ⟨?_, inr_mem_ready (mem_ready_of_chosen hchosen)⟩
    rw [step_of_chosen_inr hnow hchosen]
    exact guarded_eq_exec rfl _

end
